-- ==== Sys2Proof/Word.lean ====
section
/-! DEFINITION. The widths the manual names (R4, R5) and the plainest operations on them. -/

namespace Sys2Proof

/-- 8 bits (R5). -/
abbrev Byte := BitVec 8
/-- 32 bits (R5). -/
abbrev Word := BitVec 32
/-- 64 bits (R5). -/
abbrev Dword := BitVec 64
/-- Three 32-bit units, bit 0 of the instruction being bit 0 of the first (R4). -/
abbrev LaneBits := BitVec 96
/-- The number of a lane register, v0 to v2047 (R77). -/
abbrev LReg := BitVec 11
/-- The number of a scalar register, s0 to s63 (R77). -/
abbrev SReg := BitVec 6
/-- The number of a traversal micro register, m0 to m15 (R77). -/
abbrev MReg := BitVec 4

end Sys2Proof
end

