-- ==== Sys2Proof/Forms.lean ====
section
/-! DEFINITION. The operand forms and modifiers that instructions carry, each a closed type with
its code in the encoding beside it. -/

namespace Sys2Proof

/-- Operand types, in the order of their codes (R66). -/
inductive Ty where
  | s32 | n32 | s64 | n64 | f32 | f64 | f16x4 | bf16x4
  | f32x2 | s16x4 | s8x8 | n8x8 | e4m3x8 | e5m2x8 | tf8x8 | tf6x10
  deriving DecidableEq, Repr, Inhabited

/-- The code of a type (R66). -/
def Ty.code : Ty → BitVec 4
  | .s32 => 0 | .n32 => 1 | .s64 => 2 | .n64 => 3 | .f32 => 4 | .f64 => 5 | .f16x4 => 6 | .bf16x4 => 7
  | .f32x2 => 8 | .s16x4 => 9 | .s8x8 => 10 | .n8x8 => 11 | .e4m3x8 => 12 | .e5m2x8 => 13
  | .tf8x8 => 14 | .tf6x10 => 15

/-- The type of a code (R66): all sixteen codes are assigned. -/
def Ty.ofCode (x : BitVec 4) : Ty :=
  match x.toNat with
  | 0 => .s32 | 1 => .n32 | 2 => .s64 | 3 => .n64 | 4 => .f32 | 5 => .f64 | 6 => .f16x4 | 7 => .bf16x4
  | 8 => .f32x2 | 9 => .s16x4 | 10 => .s8x8 | 11 => .n8x8 | 12 => .e4m3x8 | 13 => .e5m2x8
  | 14 => .tf8x8 | _ => .tf6x10

/-- Operand b or c by its class: 00 lane register, 01 captured scalar register, 10 immediate (R64). -/
inductive Opd where
  | lane (r : LReg)
  | scal (r : SReg)
  | imm (i : BitVec 11)
  deriving DecidableEq, Repr, Inhabited

/-- A guard: the register, the bit tested and its sense (R67). -/
structure Guard where
  reg : LReg
  bit : BitVec 6
  inv : Bool
  deriving DecidableEq, Repr, Inhabited

/-- Rounding modes (R93). -/
inductive Rm where
  | rne | rtz | rup | rdn | rna
  deriving DecidableEq, Repr, Inhabited

def Rm.code : Rm → BitVec 3
  | .rne => 0 | .rtz => 1 | .rup => 2 | .rdn => 3 | .rna => 4

/-- 101 to 111 are illegal (R68). -/
def Rm.ofCode (x : BitVec 3) : Option Rm :=
  match x.toNat with
  | 0 => some .rne | 1 => some .rtz | 2 => some .rup | 3 => some .rdn | 4 => some .rna | _ => none

/-- A prefix: zeroing, fourth operand, rounding mode, mask register (R68). -/
structure Pfx where
  mz : Bool
  e : LReg
  rm : Rm
  mask : SReg
  deriving DecidableEq, Repr, Inhabited

/-- The fields that every lane instruction has (R62), after decoding. Fields an entry leaves unused
hold 0 (R63); an unused operand is `.lane 0`. -/
structure LaneForm where
  pfx : Option Pfx
  ty : Ty
  guard : Option Guard
  a : LReg
  b : Opd
  c : Opd
  d : LReg
  uni : Bool
  mark : Bool
  deriving DecidableEq, Repr, Inhabited

/-- Scopes (R13, R138). -/
inductive Scope where
  | group | core | quad | die | pkg | pod | sys
  deriving DecidableEq, Repr, Inhabited

/-- Scope codes, global column of R138. -/
def Scope.code : Scope → BitVec 3
  | .pkg => 0 | .group => 1 | .core => 2 | .quad => 3 | .die => 4 | .pod => 5 | .sys => 6

def Scope.ofCode (x : BitVec 3) : Option Scope :=
  match x.toNat with
  | 0 => some .pkg | 1 => some .group | 2 => some .core | 3 => some .quad | 4 => some .die
  | 5 => some .pod | 6 => some .sys | _ => none

/-- The scopes a scratchpad form may carry, as written: no suffix, `.group`, `.core` (R138). -/
def Scope.spadOk : Scope → Bool
  | .pkg => true | .group => true | .core => true | _ => false

/-- Request types (R123). -/
inductive ReqTy where
  | own | wt | si | nc
  deriving DecidableEq, Repr, Inhabited

def ReqTy.code : ReqTy → BitVec 2
  | .own => 0 | .wt => 1 | .si => 2 | .nc => 3
def ReqTy.ofCode (x : BitVec 2) : ReqTy :=
  match x.toNat with | 0 => .own | 1 => .wt | 2 => .si | _ => .nc

/-- The order a load or a store carries (R139): plain, one-sided (acquire on a load, release on a
store), or sc. -/
inductive MOrd where
  | plain | sync | sc
  deriving DecidableEq, Repr, Inhabited

/-- Order codes of a load: acquire is 01 (R139). -/
def MOrd.codeLd : MOrd → BitVec 2
  | .plain => 0 | .sync => 1 | .sc => 3
def MOrd.ofCodeLd (x : BitVec 2) : Option MOrd :=
  match x.toNat with | 0 => some .plain | 1 => some .sync | 3 => some .sc | _ => none
/-- Order codes of a store: release is 10 (R139). -/
def MOrd.codeSt : MOrd → BitVec 2
  | .plain => 0 | .sync => 2 | .sc => 3
def MOrd.ofCodeSt (x : BitVec 2) : Option MOrd :=
  match x.toNat with | 0 => some .plain | 2 => some .sync | 3 => some .sc | _ => none

/-- The order of a fence (R139, R147). -/
inductive FOrd where
  | sc | acq | rel
  deriving DecidableEq, Repr, Inhabited

def FOrd.code : FOrd → BitVec 2
  | .sc => 0 | .acq => 1 | .rel => 2
def FOrd.ofCode (x : BitVec 2) : Option FOrd :=
  match x.toNat with | 0 => some .sc | 1 => some .acq | 2 => some .rel | _ => none

/-- Atomic operations; the last two are SC.ATOM's alone (R314, R393). -/
inductive AOp where
  | add | min | max | and | or | xor | swap | cas | inc | dec | minu | maxu
  deriving DecidableEq, Repr, Inhabited

def AOp.code : AOp → BitVec 4
  | .add => 0 | .min => 1 | .max => 2 | .and => 3 | .or => 4 | .xor => 5 | .swap => 6 | .cas => 7
  | .inc => 8 | .dec => 9 | .minu => 10 | .maxu => 11
def AOp.ofCode (x : BitVec 4) : Option AOp :=
  match x.toNat with
  | 0 => some .add | 1 => some .min | 2 => some .max | 3 => some .and | 4 => some .or | 5 => some .xor
  | 6 => some .swap | 7 => some .cas | 8 => some .inc | 9 => some .dec | 10 => some .minu
  | 11 => some .maxu | _ => none

/-- Integer comparisons (R350). -/
inductive ICond where
  | eq | ne | lt | le | gt | ge
  deriving DecidableEq, Repr, Inhabited

def ICond.code : ICond → BitVec 4
  | .eq => 0 | .ne => 1 | .lt => 2 | .le => 3 | .gt => 4 | .ge => 5
def ICond.ofCode (x : BitVec 4) : Option ICond :=
  match x.toNat with
  | 0 => some .eq | 1 => some .ne | 2 => some .lt | 3 => some .le | 4 => some .gt | 5 => some .ge
  | _ => none

/-- Floating comparisons (R337). -/
inductive FCond where
  | eq | ne | lt | le | gt | ge | ord | unord
  deriving DecidableEq, Repr, Inhabited

def FCond.code : FCond → BitVec 4
  | .eq => 0 | .ne => 1 | .lt => 2 | .le => 3 | .gt => 4 | .ge => 5 | .ord => 6 | .unord => 7
def FCond.ofCode (x : BitVec 4) : Option FCond :=
  match x.toNat with
  | 0 => some .eq | 1 => some .ne | 2 => some .lt | 3 => some .le | 4 => some .gt | 5 => some .ge
  | 6 => some .ord | 7 => some .unord | _ => none

/-- Modifiers of ATOM and RED (R313). `scope` is the code as written: with `spad`, 0 and 010 both
mean core (R138). -/
structure AtomMod where
  aop : AOp
  spad : Bool
  req : ReqTy
  scope : Scope
  deriving DecidableEq, Repr, Inhabited

/-- Access width of LD, ST, LDS and STS (R357). -/
inductive AccSz where
  | full | b8 | b16
  deriving DecidableEq, Repr, Inhabited

def AccSz.code : AccSz → BitVec 2
  | .full => 0 | .b8 => 1 | .b16 => 2
def AccSz.ofCode (x : BitVec 2) : Option AccSz :=
  match x.toNat with | 0 => some .full | 1 => some .b8 | 2 => some .b16 | _ => none

/-- Modifiers of LD, ST, LDS and STS (R357, R361). -/
structure MemMod where
  sz : AccSz
  req : ReqTy
  ord : MOrd
  scope : Scope
  deriving DecidableEq, Repr, Inhabited

/-- Modifiers of the barrier instructions (R318): transfers in, transfers out, scoped. -/
structure BarMod where
  out : Bool
  inn : Bool
  net : Bool
  deriving DecidableEq, Repr, Inhabited

/-- Modifiers of CVT (R333). -/
structure CvtMod where
  part : BitVec 4
  nsat : Bool
  sat : Bool
  st : Ty
  deriving DecidableEq, Repr, Inhabited

/-- Modifiers of a fence (R340, R401). -/
structure FenceMod where
  uo : Bool
  ord : FOrd
  scope : Scope
  deriving DecidableEq, Repr, Inhabited

/-- Modes of PACK (R373). -/
inductive PackMode where
  | lo | hi | even | odd
  deriving DecidableEq, Repr, Inhabited
def PackMode.code : PackMode → BitVec 2
  | .lo => 0 | .hi => 1 | .even => 2 | .odd => 3
def PackMode.ofCode (x : BitVec 2) : PackMode :=
  match x.toNat with | 0 => .lo | 1 => .hi | 2 => .even | _ => .odd

/-- Where a prefetch goes (R129, R375). -/
inductive PrefLvl where
  | l1 | llc | res
  deriving DecidableEq, Repr, Inhabited
def PrefLvl.code : PrefLvl → BitVec 2
  | .l1 => 0 | .llc => 1 | .res => 2
def PrefLvl.ofCode (x : BitVec 2) : Option PrefLvl :=
  match x.toNat with | 0 => some .l1 | 1 => some .llc | 2 => some .res | _ => none

/-- What SDESC installs (R418). -/
inductive DescKind where
  | stream | stash | obj
  deriving DecidableEq, Repr, Inhabited
def DescKind.code : DescKind → BitVec 2
  | .stream => 0 | .stash => 1 | .obj => 2
def DescKind.ofCode (x : BitVec 2) : Option DescKind :=
  match x.toNat with | 0 => some .stream | 1 => some .stash | 2 => some .obj | _ => none

/-- What SREG reads (R424). -/
inductive SregSel where
  | tid | gtid | gid | crew | core | time | mask | active
  deriving DecidableEq, Repr, Inhabited
def SregSel.code : SregSel → BitVec 5
  | .tid => 0 | .gtid => 1 | .gid => 2 | .crew => 3 | .core => 4 | .time => 5 | .mask => 6 | .active => 7
def SregSel.ofCode (x : BitVec 5) : Option SregSel :=
  match x.toNat with
  | 0 => some .tid | 1 => some .gtid | 2 => some .gid | 3 => some .crew | 4 => some .core
  | 5 => some .time | 6 => some .mask | 7 => some .active | _ => none

/-- Conditions of TWAIT (R447). -/
inductive WCond where
  | eq | ne | geu | ltu | ges | lts
  deriving DecidableEq, Repr, Inhabited
def WCond.code : WCond → BitVec 3
  | .eq => 0 | .ne => 1 | .geu => 2 | .ltu => 3 | .ges => 4 | .lts => 5
def WCond.ofCode (x : BitVec 3) : Option WCond :=
  match x.toNat with
  | 0 => some .eq | 1 => some .ne | 2 => some .geu | 3 => some .ltu | 4 => some .ges | 5 => some .lts
  | _ => none

/-- Operations of XRED and XSCAN (R453). -/
inductive ROp where
  | add | min | max | and | or | xor
  deriving DecidableEq, Repr, Inhabited
def ROp.code : ROp → BitVec 3
  | .add => 0 | .min => 1 | .max => 2 | .and => 3 | .or => 4 | .xor => 5
def ROp.ofCode (x : BitVec 3) : Option ROp :=
  match x.toNat with
  | 0 => some .add | 1 => some .min | 2 => some .max | 3 => some .and | 4 => some .or | 5 => some .xor
  | _ => none

/-- Modes of XVOTE (R456). -/
inductive VoteMode where
  | all | any | ballot | eq
  deriving DecidableEq, Repr, Inhabited
def VoteMode.code : VoteMode → BitVec 2
  | .all => 0 | .any => 1 | .ballot => 2 | .eq => 3
def VoteMode.ofCode (x : BitVec 2) : VoteMode :=
  match x.toNat with | 0 => .all | 1 => .any | 2 => .ballot | _ => .eq

/-- What SC.BITC counts (R395). -/
inductive BitCount where
  | popc | clz | ctz
  deriving DecidableEq, Repr, Inhabited
def BitCount.code : BitCount → BitVec 7
  | .popc => 0 | .clz => 1 | .ctz => 2
def BitCount.ofCode (x : BitVec 7) : Option BitCount :=
  match x.toNat with | 0 => some .popc | 1 => some .clz | 2 => some .ctz | _ => none

/-- Conditions of SC.SET (R414). -/
inductive SCond where
  | eq | ne | lt | le | ltu | leu
  deriving DecidableEq, Repr, Inhabited
def SCond.code : SCond → BitVec 7
  | .eq => 0 | .ne => 1 | .lt => 2 | .le => 3 | .ltu => 4 | .leu => 5
def SCond.ofCode (x : BitVec 7) : Option SCond :=
  match x.toNat with
  | 0 => some .eq | 1 => some .ne | 2 => some .lt | 3 => some .le | 4 => some .ltu | 5 => some .leu
  | _ => none

/-- Functions of TR.ALU (R429). -/
inductive MFn where
  | add | sub | and | or | xor | shl | shr | fadd | fmul | fmin | fmax | mov | eq | ltu | flt
  deriving DecidableEq, Repr, Inhabited
def MFn.code : MFn → BitVec 4
  | .add => 0 | .sub => 1 | .and => 2 | .or => 3 | .xor => 4 | .shl => 5 | .shr => 6 | .fadd => 7
  | .fmul => 8 | .fmin => 9 | .fmax => 10 | .mov => 11 | .eq => 12 | .ltu => 13 | .flt => 14
def MFn.ofCode (x : BitVec 4) : Option MFn :=
  match x.toNat with
  | 0 => some .add | 1 => some .sub | 2 => some .and | 3 => some .or | 4 => some .xor | 5 => some .shl
  | 6 => some .shr | 7 => some .fadd | 8 => some .fmul | 9 => some .fmin | 10 => some .fmax
  | 11 => some .mov | 12 => some .eq | 13 => some .ltu | 14 => some .flt | _ => none

/-- Field sizes of TR.DEC (R434). -/
inductive DecSz where
  | byte | half | word
  deriving DecidableEq, Repr, Inhabited
def DecSz.code : DecSz → BitVec 2
  | .byte => 0 | .half => 1 | .word => 2
def DecSz.ofCode (x : BitVec 2) : Option DecSz :=
  match x.toNat with | 0 => some .byte | 1 => some .half | 2 => some .word | _ => none

/-- One budget of the activity governor for the next period (R28): a resource, a traffic class and
its bytes. -/
structure Budget where
  res : Nat
  cls : Nat
  bytes : Nat
  deriving DecidableEq, Repr, Inhabited

/-- Where the die scheduler and the firmware place a crew (R49, R153, R268, R295): the core, the
partition and resident slot of each group, the scratchpad offset of the allocation, and the virtual and
pool addresses of the pages the firmware maps. No instruction names the deep, stack-cache and ray areas
(R117), so only their sizes count. -/
structure Placement where
  core : Nat
  slots : List (Nat × Nat)
  alloc : Nat
  crewPage : Nat
  crewPool : Nat
  replay : Nat
  replayPool : Nat
  stack : Nat
  stackPool : Nat
  deriving DecidableEq, Repr, Inhabited

/-- What a soft error strikes (R282, R284). -/
inductive ErrTarget where
  | line (pl : Nat)
  | spad (core word : Nat)
  | row (gid row : Nat)
  /-- Engine storage: word 0 to 65535 of the tiles, 65536 + an accumulator element, 2^20 + the place of a ray among those in
  the core's slots, or 2^21 + 32 × partition + slot of a group whose texels the sampler holds. -/
  | engine (core place : Nat)
  | shared (core : Nat)
  | orphan (asid : Option Nat)
  deriving DecidableEq, Repr, Inhabited

end Sys2Proof
end

