-- ==== Sys2Proof/Machine/Bits.lean ====
section
/-! DEFINITION. Bit fields, sign extension, byte order and element access, as R4, R8 and R66 use them. -/

namespace Sys2Proof.Machine

/-- `bits(x, hi, lo)` on a number: the `n` bits from bit `lo` up (R8). -/
def nbits (x lo n : Nat) : Nat := (x >>> lo) % 2 ^ n

/-- Two's complement reading of a `w`-bit number. -/
def toSigned (w x : Nat) : Int := if x % 2 ^ w < 2 ^ (w - 1) then ((x % 2 ^ w : Nat) : Int) else ((x % 2 ^ w : Nat) : Int) - 2 ^ w

/-- An integer wrapped to `w` bits (R96). -/
def wrapTo (w : Nat) (v : Int) : Nat := (v % 2 ^ w).toNat

/-- An integer clamped to the range of a signed or unsigned `w`-bit element (R96). -/
def clampTo (signed : Bool) (w : Nat) (v : Int) : Nat :=
  let lo : Int := if signed then -(2 ^ (w - 1)) else 0
  let hi : Int := if signed then 2 ^ (w - 1) - 1 else 2 ^ w - 1
  wrapTo w (if v < lo then lo else if hi < v then hi else v)

/-- A 64-bit value from a number. -/
def dw (x : Nat) : Dword := BitVec.ofNat 64 x

/-- Sign extension to 64 bits of the low `w` bits of a number. -/
def sext64 (w x : Nat) : Dword := BitVec.ofInt 64 (toSigned w x)

/-- Little-endian bytes of a number (R4). -/
def leBytes : Nat → Nat → List Byte
  | 0, _ => []
  | n + 1, x => BitVec.ofNat 8 x :: leBytes n (x / 256)

/-- The number that little-endian bytes make (R4). -/
def leNat : List Byte → Nat
  | [] => 0
  | b :: r => b.toNat + 256 * leNat r

/-- Width in bits of an element of a type (R66). -/
def elemWidth : Ty → Nat
  | .s32 => 32 | .n32 => 32 | .s64 => 64 | .n64 => 64 | .f32 => 32 | .f64 => 64 | .f16x4 => 16
  | .bf16x4 => 16 | .f32x2 => 32 | .s16x4 => 16 | .s8x8 => 8 | .n8x8 => 8 | .e4m3x8 => 8 | .e5m2x8 => 8
  | .tf8x8 => 8 | .tf6x10 => 6

/-- The number of elements of a type (R66). -/
def elemCount : Ty → Nat
  | .s32 => 1 | .n32 => 1 | .s64 => 1 | .n64 => 1 | .f32 => 1 | .f64 => 1 | .f16x4 => 4 | .bf16x4 => 4
  | .f32x2 => 2 | .s16x4 => 4 | .s8x8 => 8 | .n8x8 => 8 | .e4m3x8 => 8 | .e5m2x8 => 8 | .tf8x8 => 8
  | .tf6x10 => 10

/-- Whether an integer type is signed (R96). -/
def isSigned : Ty → Bool
  | .s32 => true | .s64 => true | .s16x4 => true | .s8x8 => true | _ => false

/-- `elem(x, i)`: element `i` of a register value as an unsigned number (R66). -/
def elem (t : Ty) (x : Dword) (i : Nat) : Nat := nbits x.toNat (elemWidth t * i) (elemWidth t)

/-- An element as the integer its type reads it as. -/
def elemInt (t : Ty) (x : Dword) (i : Nat) : Int :=
  if isSigned t then toSigned (elemWidth t) (elem t x i) else (elem t x i : Int)

/-- Numbers `0 .. n-1` with a function applied. -/
def tab {α : Type} (n : Nat) (f : Nat → α) : List α := (List.range n).map f

/-- Elements of width `w` laid out from bit 0 up. -/
def packElems (w : Nat) : List Nat → Nat
  | [] => 0
  | e :: r => e % 2 ^ w + 2 ^ w * packElems w r

/-- A result of type `t` as its row holds it (R66, R310): s32 sign-filled, n32 and f32 zero-filled, every
other type filling the row; tf6x10 leaves bits [63:60] zero. -/
def rowOf (t : Ty) (x : Nat) : Dword :=
  match t with
  | .s32 => sext64 32 x
  | .n32 => dw (x % 2 ^ 32)
  | .f32 => dw (x % 2 ^ 32)
  | .tf6x10 => dw (x % 2 ^ 60)
  | _ => dw x

/-- A result row from its elements. -/
def rowElems (t : Ty) (es : List Nat) : Dword := rowOf t (packElems (elemWidth t) es)

/-- Bytes of an element of a memory access of a type: 4 for s32, n32 and f32, otherwise 8 (R315, R357). -/
def accBytes : Ty → Nat
  | .s32 => 4 | .n32 => 4 | .f32 => 4 | _ => 8

/-- The bits of a number from the most significant down, for counting. -/
def bitAt (x k : Nat) : Bool := x.testBit k

/-- How many of the low `w` bits are 1. -/
def popCount : Nat → Nat → Nat
  | 0, _ => 0
  | w + 1, x => (if x.testBit w then 1 else 0) + popCount w x

/-- Consecutive 0 bits from bit `w - 1` down. -/
def leadZeros : Nat → Nat → Nat
  | 0, _ => 0
  | w + 1, x => if x.testBit w then 0 else 1 + leadZeros w x

/-- Consecutive 0 bits from bit 0 up, over `w` bits. -/
def trailZeros (w x : Nat) : Nat := leadZeros w (packElems 1 (tab w fun k => if x.testBit (w - 1 - k) then 1 else 0))

/-- The threads of a 32-bit mask, ascending. -/
def threadsOf (m : Word) : List Nat := (List.range 32).filter fun t => m.toNat.testBit t

/-- The mask of a list of threads. -/
def maskOf (ts : List Nat) : Word := ts.foldl (fun m t => m ||| BitVec.ofNat 32 (2 ^ t)) 0

/-- Replace the element of a list at an index. -/
def listSet {α : Type} (l : List α) (i : Nat) (v : α) : List α := l.set i v

end Sys2Proof.Machine
end

