-- ==== Sys2Proof/Machine/Float.lean ====
section
/-! DEFINITION. Floating formats and their arithmetic (R87 to R98): values are exact fractions, and each
result is rounded once. -/

namespace Sys2Proof.Machine

/-- The floating formats (R87, R90). -/
inductive Fmt where
  | f64 | f32 | f16 | bf16 | e4m3 | e5m2 | tf8 | tf6
  deriving DecidableEq, Repr, Inhabited

/-- An exact fraction, not reduced; the denominator is not 0. -/
structure Q where
  n : Int
  d : Nat
  deriving DecidableEq, Repr, Inhabited

def Q.int (v : Int) : Q := ⟨v, 1⟩
def Q.zero : Q := ⟨0, 1⟩
/-- Sum; equal denominators are kept, so sums of one format stay small. -/
def Q.add (x y : Q) : Q :=
  if x.d = y.d then ⟨x.n + y.n, x.d⟩ else ⟨x.n * y.d + y.n * x.d, x.d * y.d⟩
def Q.neg (x : Q) : Q := ⟨-x.n, x.d⟩
def Q.sub (x y : Q) : Q := x.add y.neg
def Q.mul (x y : Q) : Q := ⟨x.n * y.n, x.d * y.d⟩
/-- Quotient; the divisor is not 0. -/
def Q.div (x y : Q) : Q := if y.n < 0 then ⟨-(x.n * y.d), x.d * y.n.natAbs⟩ else ⟨x.n * y.d, x.d * y.n.natAbs⟩
def Q.lt (x y : Q) : Bool := decide (x.n * y.d < y.n * x.d)
def Q.le (x y : Q) : Bool := decide (x.n * y.d ≤ y.n * x.d)
def Q.eq (x y : Q) : Bool := decide (x.n * y.d = y.n * x.d)
def Q.isZero (x : Q) : Bool := decide (x.n = 0)
def Q.isNeg (x : Q) : Bool := decide (x.n < 0)
def Q.abs (x : Q) : Q := ⟨x.n.natAbs, x.d⟩
/-- Greatest integer not above. -/
def Q.floor (x : Q) : Int := x.n / x.d
/-- `x × 2^e`. -/
def Q.scale (x : Q) (e : Int) : Q := if e < 0 then ⟨x.n, x.d * 2 ^ e.natAbs⟩ else ⟨x.n * 2 ^ e.natAbs, x.d⟩

/-- What a bit pattern represents: a NaN and whether it is signalling, an infinity, or a finite value
with its sign (the sign matters for zero). -/
inductive Val where
  | nan (sig : Bool)
  | inf (neg : Bool)
  | fin (neg : Bool) (q : Q)
  deriving DecidableEq, Repr, Inhabited

/-- Exponent bits, fraction bits and bias (R87). The tapered formats have none. -/
def Fmt.ebits : Fmt → Nat
  | .f64 => 11 | .f32 => 8 | .f16 => 5 | .bf16 => 8 | .e4m3 => 4 | .e5m2 => 5 | _ => 0
def Fmt.fbits : Fmt → Nat
  | .f64 => 52 | .f32 => 23 | .f16 => 10 | .bf16 => 7 | .e4m3 => 3 | .e5m2 => 2 | _ => 0
def Fmt.bias : Fmt → Nat
  | .f64 => 1023 | .f32 => 127 | .f16 => 15 | .bf16 => 127 | .e4m3 => 7 | .e5m2 => 15 | _ => 0
/-- Width in bits (R87, R90). -/
def Fmt.width : Fmt → Nat
  | .f64 => 64 | .f32 => 32 | .f16 => 16 | .bf16 => 16 | .e4m3 => 8 | .e5m2 => 8 | .tf8 => 8 | .tf6 => 6
def Fmt.tapered : Fmt → Bool
  | .tf8 => true | .tf6 => true | _ => false

/-- The canonical NaN (R88). -/
def Fmt.nan : Fmt → Nat
  | .f64 => 0x7FF8000000000000 | .f32 => 0x7FC00000 | .f16 => 0x7E00 | .bf16 => 0x7FC0 | .e4m3 => 0x7F
  | .e5m2 => 0x7E | .tf8 => 0x80 | .tf6 => 0x20

/-- The pattern of the largest finite magnitude, sign bit clear (R87, R90). -/
def Fmt.maxBits : Fmt → Nat
  | .e4m3 => 0x7E | .tf8 => 0x7F | .tf6 => 0x1F
  | f => (2 ^ f.ebits - 2) * 2 ^ f.fbits + (2 ^ f.fbits - 1)

/-- The pattern of +∞, in the formats that have it (R87). -/
def Fmt.infBits (f : Fmt) : Nat := (2 ^ f.ebits - 1) * 2 ^ f.fbits

/-- The sign bit of a pattern. -/
def signBit (f : Fmt) (neg : Bool) : Nat := if neg then 2 ^ (f.width - 1) else 0

/-- Length of the run of identical bits from bit `i` of the body downward (R90). -/
def runLen (body : Nat) (one : Bool) : Nat → Nat
  | 0 => if body.testBit 0 == one then 1 else 0
  | i + 1 => if body.testBit (i + 1) == one then 1 + runLen body one i else 0

/-- `dec(tfn, bits)` for a tapered format of `n` bits (R90). -/
def decTapered (n bits : Nat) : Val :=
  let s := bits.testBit (n - 1)
  let body := bits % 2 ^ (n - 1)
  if body = 0 then (if s then .nan false else .fin false ⟨0, 2 ^ 16⟩)
  else
    let one := body.testBit (n - 2)
    let m := runLen body one (n - 2)
    let k : Int := if one then (m : Int) - 1 else -(m : Int)
    let q := n - 1 - m - 1
    let e := if q = 0 then 0 else nbits body (q - 1) 1
    let fw := q - 1
    let f := body % 2 ^ fw
    let mag := (2 ^ fw + f) * 2 ^ (2 * k + e + 16 - fw).toNat
    .fin s ⟨if s then -(mag : Int) else mag, 2 ^ 16⟩

/-- `dec(fmt, bits)` (R8, R87, R88, R90). -/
def dec (f : Fmt) (bits : Nat) : Val :=
  match f with
  | .tf8 => decTapered 8 bits
  | .tf6 => decTapered 6 bits
  | _ =>
    let s := bits.testBit (f.width - 1)
    let e := nbits bits f.fbits f.ebits
    let m := bits % 2 ^ f.fbits
    if f == .e4m3 && e == 15 && m == 7 then .nan false
    else if f != .e4m3 && e == 2 ^ f.ebits - 1 then
      (if m = 0 then .inf s else .nan (!m.testBit (f.fbits - 1)))
    else
      let mag := if e = 0 then m else (2 ^ f.fbits + m) * 2 ^ (e - 1)
      .fin s ⟨if s then -(mag : Int) else mag, 2 ^ (f.bias - 1 + f.fbits)⟩

/-- An operand as MMAC and the matrix engine fetch it: the decode of e4m3, e5m2, tf8 and tf6 makes every NaN the quiet one
and sets no flag (R92). -/
def decOperand (f : Fmt) (bits : Nat) : Val :=
  match f, dec f bits with
  | .e5m2, .nan _ => .nan false
  | _, v => v

/-- floor(log2(n / d)) for positive n and d. -/
def log2Q (n d : Nat) : Int :=
  let g : Int := (Nat.log2 n : Int) - (Nat.log2 d : Int)
  -- 2^(g-1) < n/d < 2^(g+1)
  if (if g < 0 then n * 2 ^ g.natAbs < d else n < d * 2 ^ g.natAbs) then g - 1 else g

/-- Whether to round the truncated magnitude up: the discarded part is `r / d` of a unit (R93). -/
def roundUp (rm : Rm) (neg : Bool) (odd : Bool) (r d : Nat) : Bool :=
  match rm with
  | .rne => decide (d < 2 * r) || (decide (2 * r = d) && odd)
  | .rtz => false
  | .rup => decide (r ≠ 0) && !neg
  | .rdn => decide (r ≠ 0) && neg
  | .rna => decide (d ≤ 2 * r)

/-- The flags, by name (R80). -/
def nvF : BitVec 5 := 16
def dzF : BitVec 5 := 8
def ofF : BitVec 5 := 4
def ufF : BitVec 5 := 2
def nxF : BitVec 5 := 1

/-- The overflow result of R94, for a format that is not tapered. -/
def overflowBits (f : Fmt) (rm : Rm) (nsat neg : Bool) : Nat :=
  let mx := signBit f neg + f.maxBits
  let inf := signBit f neg + f.infBits
  match f with
  | .e4m3 => if nsat then f.nan else mx
  | _ =>
    if f == .e5m2 && !nsat then mx
    else match rm with
      | .rne => inf
      | .rna => inf
      | .rtz => mx
      | .rup => if neg then mx else inf
      | .rdn => if neg then inf else mx

/-- Round a nonzero magnitude `n / d` with a sign into an IEEE-style format (R93 to R95). -/
def roundIeee (f : Fmt) (rm : Rm) (nsat neg : Bool) (n d : Nat) : Nat × BitVec 5 :=
  let e := log2Q n d
  let emin : Int := 1 - (f.bias : Int)
  -- truncation to a multiple of 2^q
  let at_ := fun (q : Int) =>
    let n' := if q < 0 then n * 2 ^ q.natAbs else n
    let d' := if q < 0 then d else d * 2 ^ q.natAbs
    let m := n' / d'
    let r := n' % d'
    ((if roundUp rm neg (m % 2 == 1) r d' then m + 1 else m), decide (r ≠ 0))
  let qn := e - (f.fbits : Int)
  let q := if e < emin then emin - (f.fbits : Int) else qn
  let (m, inexact) := at_ q
  -- tininess is judged on the value rounded with unbounded exponent
  let tiny := decide (e < emin) && decide ((at_ qn).1 < 2 ^ (f.fbits + 1) ∨ e + 1 < emin)
  -- the pattern: adding m to the exponent field carries as it should
  let expo := (q - (emin - (f.fbits : Int))).toNat
  let pat := if m < 2 ^ f.fbits then m else expo * 2 ^ f.fbits + m
  if f.maxBits < pat then (overflowBits f rm nsat neg, ofF ||| nxF)
  else (signBit f neg + pat,
    (if inexact then nxF else 0) ||| (if tiny && inexact then ufF else 0))

/-- Round a nonzero magnitude into a tapered format by its pattern (R91). -/
def roundTapered (f : Fmt) (rm : Rm) (nsat neg : Bool) (n d : Nat) : Nat × BitVec 5 :=
  let w := f.width
  let top := 2 * (w - 2)
  if 2 ^ top * d < n then (if nsat then f.nan else signBit f neg + f.maxBits, ofF ||| nxF)
  else if n * 2 ^ top < d then (signBit f neg + 1, ufF ||| nxF)
  else
    let e := log2Q n d
    let k := e / 2
    let lo := (e - 2 * k).toNat
    let rl := if 0 ≤ k then k.toNat + 2 else k.natAbs + 1
    let reg := if 0 ≤ k then 2 ^ rl - 2 else 1
    let n' := if e < 0 then n * 2 ^ e.natAbs else n
    let d' := if e < 0 then d else d * 2 ^ e.natAbs
    -- (reg, lo, fraction) as a number over d', with rl + 1 bits before the point
    let v := (reg * 2 + lo) * d' + (n' - d')
    let up := w - 1
    let vn := v * 2 ^ up
    let vd := d' * 2 ^ (rl + 1)
    let body := vn / vd
    let r := vn % vd
    let body' := if roundUp rm neg (body % 2 == 1) r vd then body + 1 else body
    (signBit f neg + body', if r ≠ 0 then nxF else 0)

/-- `round(fmt, x, rm)` of a finite value with its sign, and the flags (R91, R93 to R95). -/
def roundQ (f : Fmt) (rm : Rm) (nsat : Bool) (neg : Bool) (q : Q) : Nat × BitVec 5 :=
  if q.n = 0 then ((if f.tapered then 0 else signBit f neg), 0)
  else if f.tapered then roundTapered f rm nsat q.isNeg q.n.natAbs q.d
  else roundIeee f rm nsat q.isNeg q.n.natAbs q.d

/-- Convert a value into a format (R91, R92, R94, R97). -/
def convF (f : Fmt) (rm : Rm) (nsat : Bool) (v : Val) : Nat × BitVec 5 :=
  match v with
  | .nan sig => (f.nan, if sig then nvF else 0)
  | .inf neg =>
    match f with
    | .e4m3 => (if nsat then f.nan else signBit f neg + f.maxBits, 0)
    | .e5m2 => (if nsat then signBit f neg + f.infBits else signBit f neg + f.maxBits, 0)
    | .tf8 => (if nsat then f.nan else signBit f neg + f.maxBits, 0)
    | .tf6 => (if nsat then f.nan else signBit f neg + f.maxBits, 0)
    | _ => (signBit f neg + f.infBits, 0)
  | .fin neg q => roundQ f rm nsat neg q

/-- `enc(fmt, x)`: RNE and the canonical NaN, no flags (R8). -/
def enc (f : Fmt) (v : Val) : Nat := (convF f .rne false v).1

def Val.isNan : Val → Bool
  | .nan _ => true | _ => false
def Val.isSig : Val → Bool
  | .nan s => s | _ => false
def Val.isNeg : Val → Bool
  | .nan _ => false | .inf s => s | .fin s _ => s
def Val.negate : Val → Val
  | .nan s => .nan s | .inf s => .inf (!s) | .fin s q => .fin (!s) q.neg
def Val.isZero : Val → Bool
  | .fin _ q => q.isZero | _ => false
def Val.isFin : Val → Bool
  | .fin _ _ => true | _ => false
/-- The finite value, 0 for the others. -/
def Val.q : Val → Q
  | .fin _ q => q | _ => Q.zero

/-- 0 × ∞ (R95). -/
def badProd (x y : Val) : Bool :=
  match x, y with
  | .inf _, .fin _ q => q.isZero
  | .fin _ q, .inf _ => q.isZero
  | _, _ => false

/-- An exact product in the extended reals; a product without a value is a NaN. -/
def mulV (x y : Val) : Val :=
  match x, y with
  | .nan _, _ => .nan false
  | _, .nan _ => .nan false
  | .inf s, .inf t => .inf (s != t)
  | .inf s, .fin t q => if q.isZero then .nan false else .inf (s != t)
  | .fin s q, .inf t => if q.isZero then .nan false else .inf (s != t)
  | .fin s p, .fin t q => .fin (s != t) (p.mul q)

/-- An exact sum in the extended reals: a NaN if a term is one or infinities of both signs meet, an
infinity if one occurs, otherwise the exact sum. `zneg` is the sign of an exact zero (R93). -/
def sumV (zneg : Bool) (ts : List Val) : Val :=
  if ts.any Val.isNan then .nan false
  else
    let p := ts.any fun v => match v with | .inf s => !s | _ => false
    let m := ts.any fun v => match v with | .inf s => s | _ => false
    if p && m then .nan false
    else if p then .inf false
    else if m then .inf true
    else
      let q := ts.foldl (fun a v => a.add v.q) (match ts with | [] => Q.zero | v :: _ => ⟨0, v.q.d⟩)
      .fin (if q.isZero then zneg else q.isNeg) q

/-- The sign of an exact zero sum: the common sign of zeros that are all of one sign, else + but − under
RDN (R93). -/
def zeroSign (rm : Rm) (ts : List Val) : Bool :=
  if ts.all (fun v => v.isZero && v.isNeg) then true
  else if ts.all (fun v => v.isZero && !v.isNeg) then false
  else rm == .rdn

/-- Infinities of both signs among the terms, with no NaN (R95, R100). -/
def clash (ts : List Val) : Bool :=
  !ts.any Val.isNan &&
  ts.any (fun v => match v with | .inf s => !s | _ => false) &&
  ts.any (fun v => match v with | .inf s => s | _ => false)

/-- The terms of a sum rounded once into a format, with the flags of the sum; `nv` is raised beside them
by the operands (R98, R336). -/
def roundSum (f : Fmt) (rm : Rm) (nv : Bool) (zneg : Bool) (ts : List Val) : Nat × BitVec 5 :=
  let (b, fl) := convF f rm true (sumV zneg ts)
  (b, fl ||| (if nv || clash ts then nvF else 0))

def anySig (vs : List Val) : Bool := vs.any Val.isSig

/-- FADD (R335, R336). -/
def fadd (f : Fmt) (rm : Rm) (x y : Nat) : Nat × BitVec 5 :=
  let ts := [dec f x, dec f y]
  roundSum f rm (anySig ts) (zeroSign rm ts) ts

/-- FSUB is x + (−y) (R336). -/
def fsub (f : Fmt) (rm : Rm) (x y : Nat) : Nat × BitVec 5 :=
  let ts := [dec f x, (dec f y).negate]
  roundSum f rm (anySig ts) (zeroSign rm ts) ts

/-- FMUL (R335, R336). -/
def fmul (f : Fmt) (rm : Rm) (x y : Nat) : Nat × BitVec 5 :=
  let a := dec f x
  let b := dec f y
  let (r, fl) := convF f rm true (mulV a b)
  (r, fl ||| (if anySig [a, b] || badProd a b then nvF else 0))

/-- FFMA: the product and the addend summed exactly and rounded once (R335, R336). -/
def ffma (f : Fmt) (rm : Rm) (x y z : Nat) : Nat × BitVec 5 :=
  let a := dec f x
  let b := dec f y
  let c := dec f z
  let ts := [mulV a b, c]
  roundSum f rm (anySig [a, b, c] || badProd a b) (zeroSign rm ts) ts

/-- FDOT2: two products and an addend, rounded once into f32 (R339). -/
def fdot2 (f : Fmt) (rm : Rm) (x0 y0 x1 y1 c : Nat) : Nat × BitVec 5 :=
  let a0 := dec f x0
  let b0 := dec f y0
  let a1 := dec f x1
  let b1 := dec f y1
  let cv := dec .f32 c
  let ts := [mulV a0 b0, mulV a1 b1, cv]
  roundSum .f32 rm (anySig [a0, b0, a1, b1, cv] || badProd a0 b0 || badProd a1 b1) (zeroSign rm ts) ts

/-- Order of two values that are not NaNs: −1, 0 or 1. -/
def cmpV (x y : Val) : Int :=
  match x, y with
  | .inf s, .inf t => if s == t then 0 else if s then -1 else 1
  | .inf s, _ => if s then -1 else 1
  | _, .inf t => if t then 1 else -1
  | a, b => if a.q.lt b.q then -1 else if b.q.lt a.q then 1 else 0

/-- FMAX and FMIN on one element (R342). -/
def fminmax (mx : Bool) (f : Fmt) (x y : Nat) : Nat × BitVec 5 :=
  let a := dec f x
  let b := dec f y
  let fl := if anySig [a, b] then nvF else 0
  let r :=
    if a.isNan && b.isNan then f.nan
    else if a.isNan then y
    else if b.isNan then x
    else if a.isZero && b.isZero then (if a.isNeg == mx then y else x)
    else if (if mx then decide (0 ≤ cmpV a b) else decide (cmpV a b ≤ 0)) then x else y
  (r, fl)

/-- FCMP on one element (R337). -/
def fcmp (c : FCond) (f : Fmt) (x y : Nat) : Bool × BitVec 5 :=
  let a := dec f x
  let b := dec f y
  let un := a.isNan || b.isNan
  let sig := anySig [a, b]
  let k := cmpV a b
  match c with
  | .eq => (!un && k == 0, if sig then nvF else 0)
  | .ne => (un || k != 0, if sig then nvF else 0)
  | .lt => (!un && decide (k < 0), if un then nvF else 0)
  | .le => (!un && decide (k ≤ 0), if un then nvF else 0)
  | .gt => (!un && decide (0 < k), if un then nvF else 0)
  | .ge => (!un && decide (0 ≤ k), if un then nvF else 0)
  | .ord => (!un, if sig then nvF else 0)
  | .unord => (un, if sig then nvF else 0)

/-- An exact value rounded to an integer by a mode (R97, R343). -/
def roundInt (rm : Rm) (q : Q) : Int :=
  let n := q.n.natAbs
  let m := n / q.d
  let m' := if roundUp rm q.isNeg (m % 2 == 1) (n % q.d) q.d then m + 1 else m
  if q.isNeg then -(m' : Int) else m'

/-- FRND on one element (R343). -/
def frnd (f : Fmt) (rm : Rm) (x : Nat) : Nat × BitVec 5 :=
  match dec f x with
  | .nan sig => (f.nan, if sig then nvF else 0)
  | .inf _ => (x, 0)
  | .fin neg q =>
    let v := roundInt rm q
    (if v = 0 then signBit f neg else (roundQ f .rne true neg (Q.int v)).1, 0)

/-- A float converted to a `w`-bit integer (R97). -/
def convToInt (signed : Bool) (w : Nat) (rm : Rm) (v : Val) : Nat × BitVec 5 :=
  match v with
  | .nan _ => (0, nvF)
  | .inf neg => (clampTo signed w (if neg then -(2 ^ 70) else 2 ^ 70), nvF)
  | .fin _ q =>
    let i := roundInt rm q
    let lo : Int := if signed then -(2 ^ (w - 1)) else 0
    let hi : Int := if signed then 2 ^ (w - 1) - 1 else 2 ^ w - 1
    if i < lo ∨ hi < i then (clampTo signed w i, nvF)
    else (wrapTo w i, if (Q.int i).eq q then 0 else nxF)

/-- The floating format of an element of a type (R66). -/
def fmtOf : Ty → Fmt
  | .f64 => .f64 | .f16x4 => .f16 | .bf16x4 => .bf16 | .e4m3x8 => .e4m3 | .e5m2x8 => .e5m2
  | .tf8x8 => .tf8 | .tf6x10 => .tf6 | _ => .f32

/-- Whether a type is floating (R66). -/
def isFloatTy : Ty → Bool
  | .f32 => true | .f64 => true | .f16x4 => true | .bf16x4 => true | .f32x2 => true | .e4m3x8 => true
  | .e5m2x8 => true | .tf8x8 => true | .tf6x10 => true | _ => false

/-- The format of a type code in tile shapes, format words and tile objects (R79, R101, R165). -/
def fmtCode (c : Nat) : Option Fmt :=
  match c with
  | 4 => some .f32 | 6 => some .f16 | 7 => some .bf16 | 12 => some .e4m3 | 13 => some .e5m2
  | 14 => some .tf8 | 15 => some .tf6 | _ => none

/-- One element converted between types (R97, R334). R97's row for integers names s32, n32, s64 and n64 alone: a floating
element becomes an s16, s8 or n8 one by the same rule (DESIGN CHOICE, log 49). -/
def convElem (st dt : Ty) (rm : Rm) (nsat sat : Bool) (x : Nat) : Nat × BitVec 5 :=
  if isFloatTy st then
    let v := dec (fmtOf st) x
    if isFloatTy dt then
      if fmtOf st = fmtOf dt then (if v.isNan then (fmtOf dt).nan else x, if v.isSig then nvF else 0)
      else convF (fmtOf dt) rm nsat v
    else convToInt (isSigned dt) (elemWidth dt) rm v
  else
    let i : Int := if isSigned st then toSigned (elemWidth st) x else (x % 2 ^ elemWidth st : Nat)
    if isFloatTy dt then roundQ (fmtOf dt) rm nsat false (Q.int i)
    else if st = dt then (x, 0)
    else if sat ∧ elemWidth dt ≤ elemWidth st then (clampTo (isSigned dt) (elemWidth dt) i, 0)
    else (wrapTo (elemWidth dt) i, 0)

/-- An immediate as an operand of a type (R65). -/
def immOperand (t : Ty) (i : BitVec 11) : Dword :=
  let v := toSigned 11 i.toNat
  match t with
  | .s32 => dw (wrapTo 32 v)
  | .n32 => dw (wrapTo 32 v)
  | .s64 => dw (wrapTo 64 v)
  | .n64 => dw (wrapTo 64 v)
  | .s16x4 => dw (packElems 16 (List.replicate 4 (wrapTo 16 v)))
  | .s8x8 => dw (packElems 8 (List.replicate 8 (wrapTo 8 v)))
  | .n8x8 => dw (packElems 8 (List.replicate 8 (wrapTo 8 v)))
  | _ => dw (packElems (elemWidth t) (List.replicate (elemCount t) (roundQ (fmtOf t) .rne false false (Q.int v)).1))

end Sys2Proof.Machine
end

