-- ==== Sys2Proof/Machine/Estimate.lean ====
section
/-! DEFINITION. The estimate instructions (R105 to R107). Table entries are computed, not listed: each is
the stated function of its index rounded RNE to 24 significant bits. Entries of FRCPE, FRSQE and FEX2 are
found by exact comparison of integers; those of FLG2, FSIN and FCOS by fixed-point evaluation far finer
than the 24 bits kept (log 15). -/

namespace Sys2Proof.Machine

/-- A positive fraction rounded RNE to 24 significant bits (R105). -/
def round24 (n d : Nat) : Q :=
  let e := log2Q n d
  let s : Int := 23 - e
  let n' := if s < 0 then n else n * 2 ^ s.natAbs
  let d' := if s < 0 then d * 2 ^ s.natAbs else d
  let m := n' / d'
  let m' := if roundUp .rne false (m % 2 == 1) (n' % d') d' then m + 1 else m
  (⟨m', 1⟩ : Q).scale (-s)

/-- The greatest `t < 2^k` with `p t`, for `p` true up to a point and false beyond. -/
def bisect (p : Nat → Bool) : Nat → Nat → Nat
  | 0, lo => lo
  | k + 1, lo => if p (lo + 2 ^ k) then bisect p k (lo + 2 ^ k) else bisect p k lo

/-- FRCPE's entry: round24(1 / (1 + (i + 0.5)/1024)) (R107). -/
def rcpEntry (i : Nat) : Q := round24 2048 (2049 + 2 * i)

/-- FRSQE's entry: round24(1 / sqrt(2^p (1 + (i + 0.5)/1024))) (R106). The entry times 2^24 is the
integer nearest to sqrt(a / b); no entry is a tie. -/
def rsqEntry (p i : Nat) : Q :=
  let a := 2 ^ 48 * 2048
  let b := 2 ^ p * (2049 + 2 * i)
  let t := bisect (fun t => decide (t * t * b ≤ a)) 25 0
  ⟨(if (2 * t + 1) * (2 * t + 1) * b < 4 * a then t + 1 else t : Nat), 2 ^ 24⟩

set_option exponentiation.threshold 100000 in
/-- FEX2's entry: round24(2^((i + 0.5)/1024)) (R107), in units of 2^−23. -/
def ex2Entry (i : Nat) : Q :=
  let a := 2 ^ (23 * 2048 + 2 * i + 1)
  let t := bisect (fun t => decide (t ^ 2048 ≤ a)) 25 0
  ⟨(if (2 * t + 1) ^ 2048 < 2 ^ 2048 * a then t + 1 else t : Nat), 2 ^ 23⟩

/-- Bits of log2 of `y / 2^160` for y / 2^160 in [1, 2), by repeated squaring. -/
def log2Bits : Nat → Nat → Nat → Nat
  | 0, _, acc => acc
  | k + 1, y, acc =>
    let z := y * y / 2 ^ 160
    if 2 ^ 161 ≤ z then log2Bits k (z / 2) (2 * acc + 1) else log2Bits k z (2 * acc)

/-- FLG2's entry: round24(log2(1 + (i + 0.5)/1024)) (R107). -/
def lg2Entry (i : Nat) : Q := round24 (log2Bits 72 ((2049 + 2 * i) * 2 ^ 149) 0) (2 ^ 72)

/-- π in units of 2^−120. -/
def piFix : Nat := 4175892906503776358826876457663557747

/-- Terms of the sine series: `x - x^3/3! + …`, in units of 2^−120, from term `k` on. -/
def sinTerms : Nat → Int → Int → Nat → Int → Int
  | 0, _, _, _, acc => acc
  | n + 1, term, x2, k, acc =>
    let t := -(term * x2 / 2 ^ 120) / (((2 * k) * (2 * k + 1) : Nat) : Int)
    sinTerms n t x2 (k + 1) (acc + t)

/-- sin(2π j / 2048) for 0 < j ≤ 512, in units of 2^−120. -/
def sinFix (j : Nat) : Nat :=
  let x : Int := ((piFix * j / 1024 : Nat) : Int)
  (sinTerms 26 x (x * x / 2 ^ 120) 1 x).toNat

/-- FSIN's entry for an odd number of 2048ths of a turn, with its sign (R107). -/
def sinEntry (j : Nat) : Q :=
  let q := j / 512
  let r := j % 512
  let m := if q % 2 = 0 then sinFix r else sinFix (512 - r)
  let e := round24 m (2 ^ 120)
  if q % 4 < 2 then e else e.neg

/-- Index and reduced argument of a positive fraction: its exponent and floor(1024 f) (R106). -/
def reduce (n d : Nat) : Int × Nat :=
  let e := log2Q n d
  let n' := if e < 0 then n * 2 ^ e.natAbs else n
  let d' := if e < 0 then d else d * 2 ^ e.natAbs
  (e, 1024 * (n' - d') / d')

/-- A scaled result rounded into f32 with of and uf but never nx (R105). -/
def estRound (neg : Bool) (q : Q) : Nat × BitVec 5 :=
  let (b, f) := roundQ .f32 .rne true neg (if neg then q.abs.neg else q)
  (b, f &&& (ofF ||| ufF))

/-- Which estimate (R338). -/
inductive Est where
  | rcp | rsq | ex2 | lg2 | sin | cos
  deriving DecidableEq, Repr

/-- The argument of FSIN and FCOS reduced to turns: the fraction of a turn as 0 ≤ n/d < 1. -/
def turnFrac (q : Q) : Nat × Nat := ((q.n % q.d).toNat, q.d)

/-- One f32 element estimated (R105 to R107). -/
def estF32 (k : Est) (x : Nat) : Nat × BitVec 5 :=
  let v := dec .f32 x
  match v with
  | .nan sig => (Fmt.nan .f32, if sig then nvF else 0)
  | .inf neg =>
    match k with
    | .rcp => (signBit .f32 neg, 0)
    | .rsq => if neg then (Fmt.nan .f32, nvF) else (0, 0)
    | .ex2 => if neg then (0, 0) else (Fmt.infBits .f32, 0)
    | .lg2 => if neg then (Fmt.nan .f32, nvF) else (Fmt.infBits .f32, 0)
    | .sin => (Fmt.nan .f32, nvF)
    | .cos => (Fmt.nan .f32, nvF)
  | .fin neg q =>
    match k with
    | .rcp =>
      if q.isZero then (signBit .f32 neg + Fmt.infBits .f32, dzF)
      else
        let (e, i) := reduce q.n.natAbs q.d
        estRound neg ((rcpEntry i).scale (-e))
    | .rsq =>
      if q.isZero then (signBit .f32 neg + Fmt.infBits .f32, dzF)
      else if neg then (Fmt.nan .f32, nvF)
      else
        let (e, i) := reduce q.n.natAbs q.d
        let p := (e % 2).toNat
        estRound false ((rsqEntry p i).scale (-((e - p) / 2)))
    | .ex2 =>
      if decide (128 * (q.d : Int) ≤ q.n) then (Fmt.infBits .f32, ofF)
      else
        let n := q.floor
        let r := (q.n - n * q.d).toNat
        -- far below the range the result rounds to zero whatever the entry
        if n < -200 then (0, ufF)
        else if r = 0 then estRound false ((Q.int 1).scale n)
        else estRound false ((ex2Entry (1024 * r / q.d)).scale n)
    | .lg2 =>
      if q.isZero then (signBit .f32 true + Fmt.infBits .f32, dzF)
      else if neg then (Fmt.nan .f32, nvF)
      else
        let (e, i) := reduce q.n.natAbs q.d
        let exact := if e < 0 then decide (q.n.natAbs * 2 ^ e.natAbs = q.d) else decide (q.n.natAbs = q.d * 2 ^ e.natAbs)
        if exact then estRound false (Q.int e)
        else
          let r := (Q.int e).add (lg2Entry i)
          estRound r.isNeg r
    | .sin =>
      let (r, d) := turnFrac q
      if 4 * r % d = 0 then
        match 4 * r / d with
        | 1 => (0x3F800000, 0)
        | 3 => (0xBF800000, 0)
        | _ => (0, 0)
      else
        let y := sinEntry (2 * (1024 * r / d) + 1)
        estRound y.isNeg y
    | .cos =>
      let (r, d) := turnFrac q
      if 4 * r % d = 0 then
        match 4 * r / d with
        | 0 => (0x3F800000, 0)
        | 2 => (0xBF800000, 0)
        | _ => (0, 0)
      else
        let y := sinEntry ((2 * (1024 * r / d) + 1 + 512) % 2048)
        estRound y.isNeg y

/-- One element of any accepted type: 16-bit formats are widened exactly, estimated and rounded RNE,
with of and uf of the narrowing and never nx (R105). -/
def estElem (k : Est) (f : Fmt) (x : Nat) : Nat × BitVec 5 :=
  match f with
  | .f32 => estF32 k x
  | _ =>
    let v := dec f x
    let (y, fl) := estF32 k (match v with | .nan _ => Fmt.nan .f32 | w => enc .f32 w)
    let (z, fz) := convF f .rne true (dec .f32 y)
    (z, fl ||| (fz &&& (ofF ||| ufF)) ||| (if v.isSig then nvF else 0))

end Sys2Proof.Machine
end

