-- ==== Sys2Proof/Syntax.lean ====
section
/-! DEFINITION. The abstract syntax: one constructor for each row of the opcode table, in its order.
The 84 device, driver and environment events carry the environment's choices as arguments; the lane
instructions carry the shared fields of R62 and their decoded modifiers; the scalar instructions and
the traversal micro-instructions carry their decoded fields. -/

namespace Sys2Proof

/-- Every operation and event of the package, one constructor for each row of the table. -/
inductive Instr where
  /-- A package reset starts the time-stamp counter at 0, keeps the package in bring-up until the part descriptor is checked, and then fixes the logical numbering. (R22) -/
  | packageReset (umap : BitVec 1024) (frames : Nat) (body sig : List Byte)
  /-- Once a joining package's held counter is within 2 ns of the pod's, it may send pod traffic. (R23) -/
  | podTimeAligned (podTime : Dword)
  /-- At each multiple of 4000 counter ticks the activity governor loads fresh budgets, lets unused remainders lapse, and lets energy-stopped dies issue again. (R26) -/
  | governorPeriodBoundary (budgets : List Budget) (energy : List (Nat × Nat))
  /-- A request that waited for its class budget is accepted in arrival order once a period's budget admits its whole charge. (R29) -/
  | governedRequestAdmit (id : Nat)
  /-- A die that has used up its energy budget for the period issues no new lane instruction, scalar instruction or engine operation until the next period. (R30) -/
  | dieEnergyExhausted (die : Nat)
  /-- The power stage has reported more than the module limit for 100 µs, so firmware halves every die's budget and logs the event. (R309) -/
  | powerLimitExceeded
  /-- In a clk, the partition binds the oldest ready unbound groups with queued lane work to its free pipes. (R50) -/
  | groupBind (core part : Nat)
  /-- An SC.LRUN waiting for room enqueues its next checked lane instruction, with its captured scalar operands, when a lane-queue entry frees. (R38) -/
  | laneQueueEnqueue (gid : Nat)
  /-- A long-latency lane result is written and its row's pending bit clears, which may resume a group parked at a switch marker. (R43) -/
  | resultReturn (gid id : Nat)
  /-- A quad instruction-cache miss is filled, and the stream it froze continues. (R60) -/
  | icacheFillReturn (gid : Nat) (lane : Bool)
  /-- After a group has been blocked for 65,536 ticks on one target, it sends a wait-cycle probe, and does so again every 65,536 ticks. (R59) -/
  | waitCycleProbe (gid : Nat)
  /-- A releaser that receives a wait-cycle probe forwards it along its own wait target or drops it. (R59) -/
  | probeForward (id : Nat)
  /-- A die scheduler places a waiting crew on the lowest-numbered core that can hold it, maps its crew page and sets its launch registers. (R295) -/
  | crewPlace (grid : Nat) (p : Placement)
  /-- The die scheduler accepts a launch record from a group's pending-launch buffer, or refuses it. (R193) -/
  | pendingLaunchDrain (gid : Nat)
  /-- A crew's exit completes once its stash, stream records, subscriptions, matrix tasks and copies are settled, and its crew page is then unmapped. (R400) -/
  | crewExitComplete (grid crew : Nat)
  /-- The Sower writes a work item's coordinates, then the ready word with release, into the fetching group's mailbox. (R197) -/
  | sowerDeliver (die : Nat)
  /-- The home LLC slice serves a line request or write by its byte mask, allocating the sector on a miss. (R125) -/
  | memoryRequestAtHome (id : Nat)
  /-- The home recalls an owned dirty line, merges a write's bytes over it and completes the write. (R124) -/
  | lineRecall (id : Nat)
  /-- A line request's data or acknowledgement returns and frees its request slot. (R131) -/
  | requestReturn (id : Nat)
  /-- Every 250 governor periods, each home slice halves the own and far counters of every 64 KiB region. (R128) -/
  | accessCounterHalve
  /-- In the background, the stack cache writes back rows that leave its window and fetches rows that enter it. (R119) -/
  | stackCacheFillSpill (gid row : Nat)
  /-- The Winnower writes back a dirty LLC line or GDDR-7 frame early, within the cleaning budget, and leaves it valid and clean. (R127) -/
  | winnowerClean (frame : Bool) (unit : Nat)
  /-- A quad unit receives a sharer message, acknowledges it, and passes it on to its cores whose encoding changed. (R168) -/
  | precisionMessageQuad (id : Nat)
  /-- A core receives a sharer message, and each of its holders whose encoding changed discards or updates its line. (R168) -/
  | precisionMessageCore (id core : Nat)
  /-- A 64-byte unit of a copy is performed and, with ben set, counts one transfer step on the barrier object. (R191) -/
  | copyTransferStep (id : Nat)
  /-- A copy command finishes all its accesses and retires from its context. (R191) -/
  | copyRetire (id : Nat)
  /-- A COPY command copies its rows of xb bytes from the source to the destination. (R191) -/
  | copyCmdCopy (id : Nat)
  /-- A FILL command writes its 64-bit value repeated over each destination row. (R191) -/
  | copyCmdFill (id : Nat)
  /-- Once every lower-numbered command of its context has retired, a SIGNAL command writes its value as a release. (R191) -/
  | copyCmdSignal (id : Nat)
  /-- The time hint of a BARTW or TWAIT elapses without the condition holding, and 0 is written. (R184) -/
  | tryWaitHintExpiry (gid id : Nat)
  /-- The Gleaner takes each page of a hint into a batch, joins it to a fetch, or drops it, as prefetch traffic. (R195) -/
  | gleanerHint (id : Nat)
  /-- A TLOAD task loads rows from memory into a tile register, committing them row by row. (R211) -/
  | tload (core task : Nat)
  /-- A TSTORE task drains accumulator rows through the scales and output format to memory. (R211) -/
  | tstore (core task : Nat)
  /-- A TMMA task adds A × Bᵀ into an accumulator by the chunked K-reduction. (R212) -/
  | tmma (core task : Nat)
  /-- A THAD task applies a Hadamard transform to blocks of a tile. (R213) -/
  | thad (core task : Nat)
  /-- A TZERO task zeroes an accumulator and opens its chain unbound. (R213) -/
  | tzero (core task : Nat)
  /-- A TCVT task converts a tile or an accumulator into a tile of another format, with an optional row scale. (R213) -/
  | tcvt (core task : Nat)
  /-- A TJOIN task has no effect and serves to join predecessors. (R213) -/
  | tjoin (core task : Nat)
  /-- A matrix task ends with a status, writes its status word, and retires for the timeline. (R206) -/
  | matrixTaskRetire (core task : Nat)
  /-- An SC.CSRW that changes cr.tmask.pair takes effect once neither core of the pair has an unretired task. (R217) -/
  | tmaskPairWriteResume (gid : Nat)
  /-- When its page is resident and a slot is free, an engine takes up a saved ray and executes its TR.LDN again. (R240) -/
  | rayResume (ray core : Nat)
  /-- A ray whose steps equal its budget ends with status STEPS. (R236) -/
  | rayStepBudgetExhausted (ray : Nat)
  /-- A merge unit receives a fragment and discards it, applies it, or holds it by sequence. (R253) -/
  | fragmentArrival (die id : Nat)
  /-- A close of a sequence reaches a die, advances next, and applies the held fragments. (R253) -/
  | streamClose (die id : Nat)
  /-- Once the faulting page is resident, the sampler re-reads the descriptor and row a and continues the instruction from its record. (R258) -/
  | samplerResume (gid : Nat)
  /-- A Gleaner receives a residency fault and opens a batch, joins the fault to its page, or adds the page to the open batch. (R265) -/
  | residencyFault (id : Nat)
  /-- A batch closes after 2000 ticks or at 256 pages, and the Gleaner chooses a frame for each page. (R266) -/
  | gleanerBatchClose (gleaner : Nat) (frames : List (Nat × Nat))
  /-- A page that found no eligible frame takes the first frame that becomes eligible. (R266) -/
  | gleanerFrameEligible (gleaner page frame : Nat)
  /-- Once every access that passed its probe has completed, the victim's sector is evicted and its dirty frame is written back. (R266) -/
  | gleanerEvict (gleaner page : Nat)
  /-- After the write-back is acknowledged, the Gleaner fetches the faulting page into the frame. (R266) -/
  | gleanerFetch (gleaner page : Nat)
  /-- A page becomes resident, and its waiters are released in fault-key order. (R267) -/
  | pageResident (gleaner page : Nat)
  /-- A compaction unit launches a handler group of the lane-trap kernel when it is full, or 1000 ticks after its first thread. (R277) -/
  | handlerGroupLaunch (die grid : Nat)
  /-- A queue's time slice expires, and each of its crews is drained, flushed and restarted, or saved. (R279) -/
  | timeSliceExpiry (queue : Nat)
  /-- A drained crew that has not exited after twice the drain threshold is saved. (R279) -/
  | drainTimeout (grid crew : Nat)
  /-- Once its pending results have returned or been converted, a crew's whole state is saved to the driver's save area. (R280) -/
  | crewSave (grid crew : Nat)
  /-- A saved crew is restored, once a core that meets its needs is free, with its allocation at its old offsets. (R281) -/
  | crewRestore (grid crew : Nat) (p : Placement)
  /-- An uncorrectable soft error marks the datum as poison. (R282) -/
  | softError (target : ErrTarget)
  /-- A write of a queue number to DOORBELL wakes that queue's packet fetcher. (R306) -/
  | doorbell (queue : Nat)
  /-- The driver advances FQHEAD, and appending resumes if the fault queue was full. (R306) -/
  | fqheadWrite (value : Dword)
  /-- A write to a register of the driver block that has no behaviour of its own sets it, or is ignored where the block says so. (R306) -/
  | registerWrite (off : Nat) (value : Dword)
  /-- The QCREATE command creates a host queue from a checked queue descriptor. (R287) -/
  | qcreate
  /-- The QDESTROY command destroys a host queue. (R306) -/
  | qdestroy
  /-- The SHOOTDOWN command invalidates translations of a range and installs changed entries, pinning pages where asked. (R116) -/
  | shootdown
  /-- A shoot-down completes once no translation cache holds the range and every op that probed the old translation has retired, with DONE or PINFULL. (R116) -/
  | shootdownComplete (id : Nat)
  /-- The FAULTANS command answers a fault-queue entry with retry, trap or end. (R263) -/
  | faultans
  /-- The UPDATE command makes the standby firmware complex verify, boot and import a new image. (R299) -/
  | update
  /-- Once every fetcher is between packets, the updated complex becomes active and the old one becomes standby. (R299) -/
  | liveUpdateSwitch
  /-- The ATTEST command writes a signed attestation report over a nonce. (R302) -/
  | attest
  /-- The PODJOIN command joins the package to a pod at a position and adopts the pod's time base. (R306) -/
  | podjoin
  /-- A DISPATCH packet launches a grid in the queue's address space. (R291) -/
  | packetDispatch (queue : Nat)
  /-- A PERSIST packet launches a persistent grid with its item counts. (R291) -/
  | packetPersist (queue : Nat)
  /-- A COPY packet runs a copy command on a quad's copy engine. (R291) -/
  | packetCopy (queue : Nat)
  /-- A SIGNAL packet writes a value as a release at sys scope. (R291) -/
  | packetSignal (queue : Nat)
  /-- A WRITESIGNAL packet writes its data bytes, then the signal as a release at sys scope. (R291) -/
  | writesignal (queue : Nat)
  /-- A WAITTL packet waits until a timeline word holds at least n, with acquire at sys scope. (R291) -/
  | waittl (queue : Nat)
  /-- A NOP packet does nothing and completes at once. (R291) -/
  | packetNop (queue : Nat)
  /-- For each full 1 ms that a queue waits with no crew running, its effective priority rises by 1, up to 3. (R296) -/
  | priorityAging (queue : Nat)
  /-- After 100 µs without a heartbeat from the active complex, the standby complex takes over and logs the event. (R298) -/
  | firmwareFailover
  /-- When a die scheduler core fails, the next die's scheduler adopts its queues, crew lists and Sower state. (R300) -/
  | schedulerFailover (die : Nat)
  /-- A CXL.cache snoop from the host recalls the line from every copy on the package, writing dirty data back first. (R305) -/
  | hostSnoop (line : Nat)
  /-- A back-invalidate snoop from a pool memory device recalls the line on the package before it is answered. (R305) -/
  | backInvalidateSnoop (line : Nat)
  /-- A pool port fails and is disabled, routing uses the ports that remain, and its in-flight accesses are answered as poison. (R304) -/
  | cxlPortFailure (port : Nat)
  /-- A pod link that has been down for more than 1 ms is rerouted once the old route has drained. (R307) -/
  | podLinkReroute (dest link : Nat)
  /-- Integer add, wrapping or saturating. (R348) -/
  | iadd (f : LaneForm) (sat : Bool)
  /-- Integer subtract, wrapping or saturating. (R348) -/
  | isub (f : LaneForm) (sat : Bool)
  /-- Integer multiply, low half. (R356) -/
  | imul (f : LaneForm) (sat : Bool)
  /-- Integer multiply, high half. (R356) -/
  | imulh (f : LaneForm)
  /-- Integer multiply-add. (R354) -/
  | imad (f : LaneForm) (sat : Bool)
  /-- Integer minimum. (R355) -/
  | imin (f : LaneForm)
  /-- Integer maximum. (R355) -/
  | imax (f : LaneForm)
  /-- Integer absolute value. (R347) -/
  | iabs (f : LaneForm) (sat : Bool)
  /-- Add with carry in and carry out. (R349) -/
  | iaddx (f : LaneForm) (cbit : BitVec 6)
  /-- Four-way byte dot product into two 32-bit accumulators. (R353) -/
  | idp4 (f : LaneForm) (sat : Bool)
  /-- Any bitwise function of three operands, given by an 8-bit table. (R363) -/
  | lop3 (f : LaneForm) (lut : BitVec 8)
  /-- Shift left per element. (R423) -/
  | shl (f : LaneForm)
  /-- Logical shift right per element. (R423) -/
  | shr (f : LaneForm)
  /-- Arithmetic shift right per element. (R423) -/
  | sra (f : LaneForm)
  /-- Funnel shift left. (R344) -/
  | fshl (f : LaneForm)
  /-- Funnel shift right. (R344) -/
  | fshr (f : LaneForm)
  /-- Bit reverse. (R325) -/
  | brev (f : LaneForm)
  /-- Population count. (R374) -/
  | popc (f : LaneForm)
  /-- Count leading zeros. (R332) -/
  | clz (f : LaneForm)
  /-- Bit-field extract. (R322) -/
  | bfe (f : LaneForm)
  /-- Bit-field insert. (R323) -/
  | bfi (f : LaneForm)
  /-- Byte permute from a 16-byte pool. (R324) -/
  | bperm (f : LaneForm)
  /-- Integer compare to a bit mask. (R350) -/
  | icmp (f : LaneForm) (cond : ICond)
  /-- Floating compare to a bit mask. (R337) -/
  | fcmp (f : LaneForm) (cond : FCond)
  /-- Select per thread by one bit. (R422) -/
  | sel (f : LaneForm) (k : BitVec 6)
  /-- Copy bits. (R368) -/
  | mov (f : LaneForm)
  /-- Load a 32-bit immediate. (R369) -/
  | movi (f : LaneForm) (imm : Word)
  /-- Convert between two types, one element group at a time. (R334) -/
  | cvt (f : LaneForm) (m : CvtMod)
  /-- Gather the halves or alternate elements of two registers into one. (R373) -/
  | pack (f : LaneForm) (mode : PackMode)
  /-- Interleave the elements of two registers. (R449) -/
  | unpk (f : LaneForm) (hi : Bool)
  /-- Read a value of the thread's place and time. (R424) -/
  | sreg (f : LaneForm) (sel : SregSel)
  /-- Floating add, rounded once. (R335) -/
  | fadd (f : LaneForm)
  /-- Floating subtract, rounded once. (R335) -/
  | fsub (f : LaneForm)
  /-- Floating multiply, rounded once. (R335) -/
  | fmul (f : LaneForm)
  /-- Fused multiply-add, rounded once. (R335) -/
  | ffma (f : LaneForm)
  /-- Floating minimum. (R342) -/
  | fmin (f : LaneForm)
  /-- Floating maximum. (R342) -/
  | fmax (f : LaneForm)
  /-- Round to an integral value in the same format. (R343) -/
  | frnd (f : LaneForm)
  /-- Two-term dot product with an addend, rounded once. (R339) -/
  | fdot2 (f : LaneForm)
  /-- Reciprocal estimate by table. (R107) -/
  | frcpe (f : LaneForm)
  /-- Reciprocal square-root estimate by table. (R106) -/
  | frsqe (f : LaneForm)
  /-- Base-2 exponential estimate. (R107) -/
  | fex2 (f : LaneForm)
  /-- Base-2 logarithm estimate. (R107) -/
  | flg2 (f : LaneForm)
  /-- Sine estimate, in turns. (R107) -/
  | fsin (f : LaneForm)
  /-- Cosine estimate, in turns. (R107) -/
  | fcos (f : LaneForm)
  /-- A group's 16×16×16 matrix multiply-accumulate on the core's array, after a vote on the format word. (R366) -/
  | mmac (f : LaneForm) (freg : LReg)
  /-- Read another thread's register. (R452) -/
  | xget (f : LaneForm)
  /-- Write another thread's register. (R452) -/
  | xput (f : LaneForm)
  /-- Broadcast one thread's register. (R452) -/
  | xbcast (f : LaneForm)
  /-- Reduce over the active threads. (R454) -/
  | xred (f : LaneForm) (op : ROp)
  /-- Prefix scan over the active threads. (R455) -/
  | xscan (f : LaneForm) (op : ROp) (excl : Bool)
  /-- Vote on a bit, or on whole values, across the active threads. (R456) -/
  | xvote (f : LaneForm) (mode : VoteMode) (k : BitVec 6)
  /-- Load from global memory, one element per active thread. (R358) -/
  | ld (f : LaneForm) (m : MemMod)
  /-- Store to global memory, one element per active thread. (R358) -/
  | st (f : LaneForm) (m : MemMod)
  /-- Load from the scratchpad. (R361) -/
  | lds (f : LaneForm) (m : MemMod)
  /-- Store to the scratchpad. (R361) -/
  | sts (f : LaneForm) (m : MemMod)
  /-- Atomic read-modify-write that returns the old value. (R315) -/
  | atom (f : LaneForm) (m : AtomMod)
  /-- Non-returning atomic reduction. (R384) -/
  | red (f : LaneForm) (m : AtomMod)
  /-- Prefetch a line, or hint its residency. (R376) -/
  | pref (f : LaneForm) (lvl : PrefLvl) (rq : ReqTy)
  /-- Install or remove a stream descriptor, a stash entry or a tile object. (R419) -/
  | sdesc (f : LaneForm) (kind : DescKind) (del : Bool)
  /-- Subscribe the core's L1 to a tile object at a format. (R172) -/
  | subp (f : LaneForm)
  /-- End the crew's subscription to a tile object. (R174) -/
  | unsp (f : LaneForm)
  /-- Raise the format of a subscription and refill its images. (R173) -/
  | upgp (f : LaneForm)
  /-- Write back and invalidate the copies of a range. (R328) -/
  | cinv (f : LaneForm) (scope : Scope)
  /-- Write back the copies of a range and keep them. (R328) -/
  | cwb (f : LaneForm) (scope : Scope)
  /-- Discard the dirty copies of a range where the page allows it, and count the lines discarded. (R328) -/
  | cdisc (f : LaneForm) (scope : Scope)
  /-- Order a thread's accesses across the fence. (R341) -/
  | fence (f : LaneForm) (m : FenceMod)
  /-- One arrival of the group at a barrier object or scoped barrier. (R319) -/
  | bara (f : LaneForm) (m : BarMod)
  /-- Wait for a barrier phase to complete. (R321) -/
  | barw (f : LaneForm) (net : Bool)
  /-- Try-wait on a barrier within a time hint. (R320) -/
  | bartw (f : LaneForm) (net : Bool)
  /-- Push one handle per active thread onto a named queue. (R188) -/
  | qpush (f : LaneForm)
  /-- Pop one handle into each active thread from a named queue. (R188) -/
  | qpop (f : LaneForm)
  /-- Wait, within a time hint, for a condition on a memory word. (R448) -/
  | twait (f : LaneForm) (cond : WCond) (w32 : Bool) (scope : Scope)
  /-- Wait until a timeline word reaches n. (R450) -/
  | waitt (f : LaneForm) (scope : Scope)
  /-- Rasterise a triangle, delivering up to one covered sample per active thread and a continuation token. (R382) -/
  | rast (f : LaneForm)
  /-- Filtered texture sample. (R387) -/
  | samp (f : LaneForm)
  /-- Gather channel 0 of the four bilinear texels. (R387) -/
  | sampg (f : LaneForm)
  /-- Start one traversal ray per active thread. (R444) -/
  | trace (f : LaneForm)
  /-- Send fragments to the dies that own their pixels, for ordered merging. (R372) -/
  | omrg (f : LaneForm) (seq : SReg) (close : Bool)
  /-- Fold a value into a checksum. (R330) -/
  | ckacc (f : LaneForm) (flt : Bool)
  /-- Compare two checksums, raising CHECK in the threads that fail. (R331) -/
  | cktest (f : LaneForm) (flt : Bool)
  /-- Enter or leave an idempotent region. (R351) -/
  | idem (f : LaneForm) (fin : Bool)
  /-- Raise the TRAPL condition in the active threads. (R446) -/
  | trapl (f : LaneForm)
  /-- No operation; when marked, waits for the pending set to empty. (R370) -/
  | nop (f : LaneForm)
  /-- Scalar add. (R391) -/
  | scAdd (d a b : SReg)
  /-- Scalar add of an immediate. (R391) -/
  | scAddImm (d a : SReg) (imm : BitVec 13)
  /-- Scalar subtract. (R391) -/
  | scSub (d a b : SReg)
  /-- Scalar subtract of an immediate. (R391) -/
  | scSubImm (d a : SReg) (imm : BitVec 13)
  /-- Scalar multiply, low half. (R391) -/
  | scMul (d a b : SReg)
  /-- Scalar multiply by an immediate, low half. (R391) -/
  | scMulImm (d a : SReg) (imm : BitVec 13)
  /-- Scalar signed multiply, high half. (R391) -/
  | scMulh (d a b : SReg)
  /-- Scalar signed multiply by an immediate, high half. (R391) -/
  | scMulhImm (d a : SReg) (imm : BitVec 13)
  /-- Scalar signed division. (R392) -/
  | scDiv (d a b : SReg)
  /-- Scalar signed division by an immediate. (R392) -/
  | scDivImm (d a : SReg) (imm : BitVec 13)
  /-- Scalar signed remainder. (R392) -/
  | scRem (d a b : SReg)
  /-- Scalar signed remainder by an immediate. (R392) -/
  | scRemImm (d a : SReg) (imm : BitVec 13)
  /-- Scalar bitwise AND. (R391) -/
  | scAnd (d a b : SReg)
  /-- Scalar bitwise AND with an immediate. (R391) -/
  | scAndImm (d a : SReg) (imm : BitVec 13)
  /-- Scalar bitwise OR. (R391) -/
  | scOr (d a b : SReg)
  /-- Scalar bitwise OR with an immediate. (R391) -/
  | scOrImm (d a : SReg) (imm : BitVec 13)
  /-- Scalar bitwise XOR. (R391) -/
  | scXor (d a b : SReg)
  /-- Scalar bitwise XOR with an immediate. (R391) -/
  | scXorImm (d a : SReg) (imm : BitVec 13)
  /-- Scalar shift left. (R391) -/
  | scShl (d a b : SReg)
  /-- Scalar shift left by an immediate. (R391) -/
  | scShlImm (d a : SReg) (imm : BitVec 13)
  /-- Scalar logical shift right. (R391) -/
  | scShr (d a b : SReg)
  /-- Scalar logical shift right by an immediate. (R391) -/
  | scShrImm (d a : SReg) (imm : BitVec 13)
  /-- Scalar arithmetic shift right. (R391) -/
  | scSra (d a b : SReg)
  /-- Scalar arithmetic shift right by an immediate. (R391) -/
  | scSraImm (d a : SReg) (imm : BitVec 13)
  /-- Scalar bit count: popc, clz or ctz. (R395) -/
  | scBitc (d a : SReg) (cnt : BitCount)
  /-- Scalar compare and set. (R414) -/
  | scSet (d a b : SReg) (cond : SCond)
  /-- Scalar select by a selector register. (R413) -/
  | scSel (d a b sel : SReg)
  /-- Scalar register copy. (R409) -/
  | scMov (d a : SReg)
  /-- Load a 13-bit immediate into a 13-bit chunk of a register, optionally inserting. (R405) -/
  | scLimm (d : SReg) (chunk : BitVec 3) (ins : Bool) (imm : BitVec 13)
  /-- Conditional branch on one bit of a scalar register. (R396) -/
  | scBr (r : SReg) (bit : BitVec 6) (sense : Bool) (off : BitVec 12)
  /-- Relative jump. (R397) -/
  | scJmp (off : BitVec 25)
  /-- Relative call that writes lr. (R397) -/
  | scCall (off : BitVec 25)
  /-- Return through lr. (R412) -/
  | scRet
  /-- Scalar load of one dword from global memory. (R404) -/
  | scLd (d a : SReg) (off : BitVec 8) (ord : MOrd) (scope : Scope)
  /-- Scalar store of one dword to global memory. (R404) -/
  | scSt (d a : SReg) (off : BitVec 8) (ord : MOrd) (scope : Scope)
  /-- Scalar 64-bit atomic on a global location. (R394) -/
  | scAtom (d a b : SReg) (aop : AOp) (scope : Scope)
  /-- Fence for the scalar stream. (R401) -/
  | scFence (m : FenceMod)
  /-- Check and enqueue the next n lane instructions from LPC. (R38) -/
  | scLrun (cnt : BitVec 5)
  /-- Move LPC to a lane label, optionally prefetching lines. (R73) -/
  | scLset (off : BitVec 19) (pf : Bool) (cnt : BitVec 5)
  /-- Hold the scalar stream until the lane queue is empty and every lane instruction has retired. (R41) -/
  | scLwait
  /-- Push a 64-byte record from sN..sN+7 to queue q and write a status. (R189) -/
  | scPush (d a : SReg) (q : BitVec 2)
  /-- Ask the Sower for a work item into a mailbox. (R197) -/
  | scFetch (d a : SReg)
  /-- Give up the pipe and become ready with a new age. (R416) -/
  | scYield
  /-- End the group after its lane work, rays and fetches are done. (R400) -/
  | scExit
  /-- Read a control register. (R398) -/
  | scCsrr (d : SReg) (num : BitVec 13)
  /-- Write a control register, with its side effects. (R399) -/
  | scCsrw (a : SReg) (num : BitVec 13)
  /-- Software trap SWTRAP with a code from 0 to 4095. (R415) -/
  | scTrap (code : BitVec 13)
  /-- SC.TRAP −1 returns from a handler, restoring the state and re-enqueueing the queue image. (R273) -/
  | scTrapReturn
  /-- Scalar no operation. (R410) -/
  | scNop
  /-- Load a window of a node into the node buffer. (R229) -/
  | trLdn (mi : MReg) (win : BitVec 2) (lay : Bool)
  /-- Test every child box of the node in the buffer. (R432) -/
  | trBox (md : MReg)
  /-- Test the triangle in the buffer exactly. (R442) -/
  | trTri (cb : BitVec 3) (mt : MReg) (off4 : BitVec 3) (cf : Bool)
  /-- Enter or leave instance space. (R443) -/
  | trXfm (off16 : Bool) (back : Bool)
  /-- Read a field of the node buffer into a micro register. (R434) -/
  | trDec (md : MReg) (boff : BitVec 6) (sz : DecSz)
  /-- Push a pointer and a distance onto the short stack. (R440) -/
  | trPush (ma mb : MReg)
  /-- Pop a short-stack entry, optionally culling entries beyond tmax. (R439) -/
  | trPop (mi mt : MReg) (cb : BitVec 3) (cull : Bool)
  /-- Push the hit children, nearest on top. (R441) -/
  | trSort (md mn : MReg)
  /-- Commit the candidate hit and go on. (R430) -/
  | trHit (mt mp mi mu : MReg)
  /-- Commit the candidate hit and end the ray with HIT. (R430) -/
  | trAny (mt mp mi mu : MReg)
  /-- Conditional branch on a condition bit. (R433) -/
  | trBr (cb : BitVec 3) (sense : Bool) (target : Byte)
  /-- Traversal jump. (R436) -/
  | trJmp (target : Byte)
  /-- Integer and f32 operations on micro registers. (R429) -/
  | trAlu (md ma mb : MReg) (fn : MFn)
  /-- Load a 16-bit immediate into the low or high half of a micro register. (R437) -/
  | trLdi (md : MReg) (hi : Bool) (imm : BitVec 16)
  /-- Test a node index against its buffer. (R431) -/
  | trBnd (cb : BitVec 3) (mi : MReg) (lay : Bool)
  /-- End the ray with HIT or MISS. (R435) -/
  | trEnd
  /-- The driver creates an address space by installing its root-table pointer, with cr.afflags at 0. (R111) -/
  | rootPointerInstall (asid : BitVec 12) (root : Nat)
  /-- The driver sets device bias for a region of host memory after a migration request. (R305) -/
  | deviceBiasSet (region : Nat)
  /-- The scalar stream reaches an all-zero word or an unassigned scalar opcode and takes the precise ILLEGAL trap there. (R71) -/
  | illegalScalarWord (w : Word)
  /-- A ray reaches a micro-opcode outside 0x01–0x10, or a zero fill word, and ends with status BADOP. (R74) -/
  | undefinedMicroOpcode (w : Word)
  /-- A scalar fetch at SPC from a page that is unmapped or lacks x sends an instruction-fetch fault to the driver and parks the group, which is then unbound. (R51) -/
  | scalarFetchFault
  deriving DecidableEq, Repr

end Sys2Proof
end

