-- ==== Sys2Proof/WellFormed.lean ====
section
/-! DEFINITION. Which instructions are legal encodings as they stand: the static checks of R62 to R75
and of the operand tables R311, R346, R380, R390 and R417. What depends on the group (its declared
registers) or on a captured value is checked at SC.LRUN, in the machine. -/

namespace Sys2Proof

/-- The classes an operand may take: 00 lane, 01 captured scalar, 10 immediate (R64); none when the
entry leaves the operand unused. -/
structure Classes where
  lane : Bool
  scal : Bool
  imm : Bool
  deriving DecidableEq, Repr

/-- What the d field names (R62). -/
inductive DKind where
  | none | lane | scal
  deriving DecidableEq, Repr

/-- One row of the operand tables R311, R346, R380 and R417. -/
structure OpInfo where
  tys : List Ty
  b : Classes
  c : Classes
  d : DKind
  a : Bool
  uni : Bool
  rm : Bool
  deriving DecidableEq, Repr

/-- Every type (R66). -/
def allTys : List Ty :=
  [.s32, .n32, .s64, .n64, .f32, .f64, .f16x4, .bf16x4, .f32x2, .s16x4, .s8x8, .n8x8, .e4m3x8, .e5m2x8,
   .tf8x8, .tf6x10]

/-- The floating types that the `.f` form of CKACC accepts (R330). -/
def Ty.isFloat : Ty → Bool
  | .f32 => true | .f64 => true | .f16x4 => true | .bf16x4 => true | .f32x2 => true | .e4m3x8 => true
  | .e5m2x8 => true | .tf8x8 => true | .tf6x10 => true | _ => false

/-- The number of elements of a type (R66). -/
def Ty.elems : Ty → Nat
  | .s32 => 1 | .n32 => 1 | .s64 => 1 | .n64 => 1 | .f32 => 1 | .f64 => 1 | .f16x4 => 4 | .bf16x4 => 4
  | .f32x2 => 2 | .s16x4 => 4 | .s8x8 => 8 | .n8x8 => 8 | .e4m3x8 => 8 | .e5m2x8 => 8 | .tf8x8 => 8
  | .tf6x10 => 10

/-- An unused operand field holds 0 with class 00 (R63). -/
def Opd.unused (o : Opd) : Bool := o == .lane 0

/-- Whether the operand's class is one that the entry allows (R64, R310). -/
def Classes.allow (k : Classes) (o : Opd) : Bool :=
  if !k.lane && !k.scal && !k.imm then o.unused
  else match o with
    | .lane _ => k.lane
    | .scal _ => k.scal
    | .imm _ => k.imm

/-- A prefix that the instruction accepts: no instruction has a fourth operand (R310), and only one
that rounds may carry a mode (R68). -/
def Pfx.ok (rounds : Bool) (p : Pfx) : Bool := p.e == 0 && (rounds || p.rm == .rne)

/-- The checks that every lane instruction shares (R62, R63, R68, R310). -/
def LaneForm.ok (k : OpInfo) (f : LaneForm) : Bool :=
  k.tys.contains f.ty && k.b.allow f.b && k.c.allow f.c && (k.a || f.a == 0) &&
  (match k.d with
   | .none => f.d == 0
   | .lane => true
   | .scal => decide (f.d.toNat < 64)) &&
  (k.uni || !f.uni) &&
  (match f.pfx with
   | none => true
   | some p => p.ok k.rm)

/-- The operand-table row of a lane opcode, by its number in R75; `none` for an unassigned value. -/
def opInfo (op : Nat) : Option OpInfo :=
  match op with
  | 0x000 => some ⟨[.s32, .n32, .s64, .n64, .s16x4, .s8x8, .n8x8], ⟨true, true, true⟩, ⟨false, false, false⟩, .lane, true, true, false⟩  -- IADD
  | 0x001 => some ⟨[.s32, .n32, .s64, .n64, .s16x4, .s8x8, .n8x8], ⟨true, true, true⟩, ⟨false, false, false⟩, .lane, true, true, false⟩  -- ISUB
  | 0x005 => some ⟨[.s32, .n32, .s64, .n64, .s16x4, .s8x8, .n8x8], ⟨true, true, true⟩, ⟨false, false, false⟩, .lane, true, true, false⟩  -- IMIN
  | 0x006 => some ⟨[.s32, .n32, .s64, .n64, .s16x4, .s8x8, .n8x8], ⟨true, true, true⟩, ⟨false, false, false⟩, .lane, true, true, false⟩  -- IMAX
  | 0x041 => some ⟨[.s32, .n32, .s64, .n64, .s16x4, .s8x8, .n8x8], ⟨true, true, true⟩, ⟨false, false, false⟩, .lane, true, true, false⟩  -- SHL
  | 0x042 => some ⟨[.s32, .n32, .s64, .n64, .s16x4, .s8x8, .n8x8], ⟨true, true, true⟩, ⟨false, false, false⟩, .lane, true, true, false⟩  -- SHR
  | 0x043 => some ⟨[.s32, .n32, .s64, .n64, .s16x4, .s8x8, .n8x8], ⟨true, true, true⟩, ⟨false, false, false⟩, .lane, true, true, false⟩  -- SRA
  | 0x080 => some ⟨[.s32, .n32, .s64, .n64, .s16x4, .s8x8, .n8x8], ⟨true, true, true⟩, ⟨false, false, false⟩, .lane, true, true, false⟩  -- ICMP
  | 0x002 => some ⟨[.s32, .n32, .s64, .n64, .s16x4], ⟨true, true, true⟩, ⟨false, false, false⟩, .lane, true, true, false⟩  -- IMUL
  | 0x003 => some ⟨[.s32, .n32, .s64, .n64, .s16x4], ⟨true, true, true⟩, ⟨false, false, false⟩, .lane, true, true, false⟩  -- IMULH
  | 0x004 => some ⟨[.s32, .n32, .s64, .n64, .s16x4], ⟨true, true, true⟩, ⟨true, true, true⟩, .lane, true, true, false⟩  -- IMAD
  | 0x007 => some ⟨[.s32, .s64, .s16x4, .s8x8], ⟨false, false, false⟩, ⟨false, false, false⟩, .lane, true, true, false⟩  -- IABS
  | 0x008 => some ⟨[.n32, .n64], ⟨true, true, true⟩, ⟨true, true, false⟩, .lane, true, true, false⟩  -- IADDX
  | 0x009 => some ⟨[.s8x8, .n8x8], ⟨true, true, true⟩, ⟨true, true, false⟩, .lane, true, true, false⟩  -- IDP4
  | 0x040 => some ⟨[.s32, .n32, .s64, .n64], ⟨true, true, true⟩, ⟨true, true, true⟩, .lane, true, true, false⟩  -- LOP3
  | 0x044 => some ⟨[.s32, .n32, .s64, .n64], ⟨true, true, true⟩, ⟨true, true, true⟩, .lane, true, true, false⟩  -- FSHL
  | 0x045 => some ⟨[.s32, .n32, .s64, .n64], ⟨true, true, true⟩, ⟨true, true, true⟩, .lane, true, true, false⟩  -- FSHR
  | 0x049 => some ⟨[.s32, .n32, .s64, .n64], ⟨true, true, true⟩, ⟨true, true, true⟩, .lane, true, true, false⟩  -- BFE
  | 0x04A => some ⟨[.s32, .n32, .s64, .n64], ⟨true, true, true⟩, ⟨true, true, true⟩, .lane, true, true, false⟩  -- BFI
  | 0x046 => some ⟨[.s32, .n32, .s64, .n64], ⟨false, false, false⟩, ⟨false, false, false⟩, .lane, true, true, false⟩  -- BREV
  | 0x047 => some ⟨[.s32, .n32, .s64, .n64], ⟨false, false, false⟩, ⟨false, false, false⟩, .lane, true, true, false⟩  -- POPC
  | 0x048 => some ⟨[.s32, .n32, .s64, .n64], ⟨false, false, false⟩, ⟨false, false, false⟩, .lane, true, true, false⟩  -- CLZ
  | 0x04B => some ⟨[.n32, .n64], ⟨true, true, true⟩, ⟨true, true, true⟩, .lane, true, true, false⟩  -- BPERM
  | 0x081 => some ⟨[.f32, .f64, .f32x2, .f16x4, .bf16x4], ⟨true, true, true⟩, ⟨false, false, false⟩, .lane, true, true, false⟩  -- FCMP
  | 0x0C4 => some ⟨[.f32, .f64, .f32x2, .f16x4, .bf16x4], ⟨true, true, true⟩, ⟨false, false, false⟩, .lane, true, true, false⟩  -- FMIN
  | 0x0C5 => some ⟨[.f32, .f64, .f32x2, .f16x4, .bf16x4], ⟨true, true, true⟩, ⟨false, false, false⟩, .lane, true, true, false⟩  -- FMAX
  | 0x082 => some ⟨allTys, ⟨true, true, true⟩, ⟨true, true, false⟩, .lane, true, true, false⟩  -- SEL
  | 0x083 => some ⟨allTys, ⟨true, true, true⟩, ⟨false, false, false⟩, .lane, false, true, false⟩  -- MOV
  | 0x084 => some ⟨[.s32, .n32, .s64, .n64, .f32], ⟨false, false, false⟩, ⟨false, false, false⟩, .lane, false, true, false⟩  -- MOVI
  | 0x085 => some ⟨allTys, ⟨false, false, false⟩, ⟨false, false, false⟩, .lane, true, true, true⟩  -- CVT
  | 0x086 => some ⟨[.f32x2, .f16x4, .bf16x4, .s16x4, .s8x8, .n8x8, .e4m3x8, .e5m2x8, .tf8x8], ⟨true, true, true⟩, ⟨false, false, false⟩, .lane, true, true, false⟩  -- PACK
  | 0x087 => some ⟨[.f32x2, .f16x4, .bf16x4, .s16x4, .s8x8, .n8x8, .e4m3x8, .e5m2x8, .tf8x8], ⟨true, true, true⟩, ⟨false, false, false⟩, .lane, true, true, false⟩  -- UNPK
  | 0x088 => some ⟨[.n64], ⟨false, false, false⟩, ⟨false, false, false⟩, .lane, false, true, false⟩  -- SREG
  | 0x0C0 => some ⟨[.f32, .f64, .f32x2, .f16x4, .bf16x4], ⟨true, true, true⟩, ⟨false, false, false⟩, .lane, true, true, true⟩  -- FADD
  | 0x0C1 => some ⟨[.f32, .f64, .f32x2, .f16x4, .bf16x4], ⟨true, true, true⟩, ⟨false, false, false⟩, .lane, true, true, true⟩  -- FSUB
  | 0x0C2 => some ⟨[.f32, .f64, .f32x2, .f16x4, .bf16x4], ⟨true, true, true⟩, ⟨false, false, false⟩, .lane, true, true, true⟩  -- FMUL
  | 0x0C3 => some ⟨[.f32, .f64, .f32x2, .f16x4, .bf16x4], ⟨true, true, true⟩, ⟨true, true, true⟩, .lane, true, true, true⟩  -- FFMA
  | 0x0C6 => some ⟨[.f32, .f64, .f32x2, .f16x4, .bf16x4], ⟨false, false, false⟩, ⟨false, false, false⟩, .lane, true, true, true⟩  -- FRND
  | 0x0C7 => some ⟨[.f32x2, .f16x4, .bf16x4], ⟨true, true, true⟩, ⟨true, true, true⟩, .lane, true, true, true⟩  -- FDOT2
  | 0x100 => some ⟨[.f32, .f32x2, .f16x4, .bf16x4], ⟨false, false, false⟩, ⟨false, false, false⟩, .lane, true, true, false⟩  -- FRCPE
  | 0x101 => some ⟨[.f32, .f32x2, .f16x4, .bf16x4], ⟨false, false, false⟩, ⟨false, false, false⟩, .lane, true, true, false⟩  -- FRSQE
  | 0x102 => some ⟨[.f32, .f32x2, .f16x4, .bf16x4], ⟨false, false, false⟩, ⟨false, false, false⟩, .lane, true, true, false⟩  -- FEX2
  | 0x103 => some ⟨[.f32, .f32x2, .f16x4, .bf16x4], ⟨false, false, false⟩, ⟨false, false, false⟩, .lane, true, true, false⟩  -- FLG2
  | 0x104 => some ⟨[.f32, .f32x2, .f16x4, .bf16x4], ⟨false, false, false⟩, ⟨false, false, false⟩, .lane, true, true, false⟩  -- FSIN
  | 0x105 => some ⟨[.f32, .f32x2, .f16x4, .bf16x4], ⟨false, false, false⟩, ⟨false, false, false⟩, .lane, true, true, false⟩  -- FCOS
  | 0x110 => some ⟨[.s32], ⟨true, false, false⟩, ⟨true, false, false⟩, .lane, true, false, false⟩  -- MMAC
  | 0x140 => some ⟨allTys, ⟨true, true, true⟩, ⟨false, false, false⟩, .lane, true, false, false⟩  -- XGET
  | 0x141 => some ⟨allTys, ⟨true, true, true⟩, ⟨false, false, false⟩, .lane, true, false, false⟩  -- XPUT
  | 0x180 => some ⟨allTys, ⟨true, true, true⟩, ⟨false, false, false⟩, .lane, true, false, false⟩  -- LD
  | 0x182 => some ⟨allTys, ⟨true, true, true⟩, ⟨false, false, false⟩, .lane, true, false, false⟩  -- LDS
  | 0x142 => some ⟨allTys, ⟨false, true, true⟩, ⟨false, false, false⟩, .lane, true, false, false⟩  -- XBCAST
  | 0x143 => some ⟨[.s32, .n32, .s64, .n64, .f32, .f64, .f32x2, .f16x4, .bf16x4], ⟨false, false, false⟩, ⟨false, false, false⟩, .lane, true, false, true⟩  -- XRED
  | 0x144 => some ⟨[.s32, .n32, .s64, .n64, .f32, .f64, .f32x2, .f16x4, .bf16x4], ⟨false, false, false⟩, ⟨false, false, false⟩, .lane, true, false, true⟩  -- XSCAN
  | 0x145 => some ⟨[.s32], ⟨false, false, false⟩, ⟨false, false, false⟩, .lane, true, false, false⟩  -- XVOTE
  | 0x188 => some ⟨[.s32], ⟨false, false, false⟩, ⟨false, false, false⟩, .lane, true, false, false⟩  -- SUBP
  | 0x189 => some ⟨[.s32], ⟨false, false, false⟩, ⟨false, false, false⟩, .lane, true, false, false⟩  -- UNSP
  | 0x18A => some ⟨[.s32], ⟨false, false, false⟩, ⟨false, false, false⟩, .lane, true, false, false⟩  -- UPGP
  | 0x181 => some ⟨allTys, ⟨true, true, true⟩, ⟨true, true, false⟩, .none, true, false, false⟩  -- ST
  | 0x183 => some ⟨allTys, ⟨true, true, true⟩, ⟨true, true, false⟩, .none, true, false, false⟩  -- STS
  | 0x184 => some ⟨[.s32, .n32, .s64, .n64, .f32, .f64, .f32x2, .f16x4, .bf16x4], ⟨true, true, true⟩, ⟨true, true, true⟩, .lane, true, false, false⟩  -- ATOM
  | 0x185 => some ⟨[.s32, .n32, .s64, .n64, .f32, .f64, .f32x2, .f16x4, .bf16x4], ⟨true, true, true⟩, ⟨false, false, false⟩, .none, true, false, false⟩  -- RED
  | 0x186 => some ⟨[.s32], ⟨true, true, true⟩, ⟨false, false, false⟩, .none, true, false, false⟩  -- PREF
  | 0x18B => some ⟨[.s32], ⟨true, true, true⟩, ⟨false, false, false⟩, .none, true, false, false⟩  -- CINV
  | 0x18C => some ⟨[.s32], ⟨true, true, true⟩, ⟨false, false, false⟩, .none, true, false, false⟩  -- CWB
  | 0x187 => some ⟨[.s32], ⟨false, true, true⟩, ⟨false, false, false⟩, .lane, true, false, false⟩  -- SDESC
  | 0x18D => some ⟨[.s32], ⟨true, true, true⟩, ⟨false, false, false⟩, .scal, true, false, false⟩  -- CDISC
  | 0x18E => some ⟨[.s32], ⟨false, false, false⟩, ⟨false, false, false⟩, .none, false, false, false⟩  -- FENCE
  | 0x27F => some ⟨[.s32], ⟨false, false, false⟩, ⟨false, false, false⟩, .none, false, false, false⟩  -- NOP
  | 0x1C0 => some ⟨[.s32], ⟨false, true, true⟩, ⟨false, false, false⟩, .scal, true, false, false⟩  -- BARA
  | 0x1C1 => some ⟨[.s32], ⟨false, true, true⟩, ⟨false, true, true⟩, .none, false, false, false⟩  -- BARW
  | 0x1C2 => some ⟨[.s32], ⟨false, true, true⟩, ⟨false, true, true⟩, .scal, true, false, false⟩  -- BARTW
  | 0x1C3 => some ⟨[.s32], ⟨false, true, true⟩, ⟨false, false, false⟩, .none, true, false, false⟩  -- QPUSH
  | 0x1C4 => some ⟨[.s32], ⟨false, true, true⟩, ⟨false, false, false⟩, .lane, false, false, false⟩  -- QPOP
  | 0x1C5 => some ⟨[.s32], ⟨false, true, false⟩, ⟨false, true, true⟩, .scal, true, false, false⟩  -- TWAIT
  | 0x1C6 => some ⟨[.s32], ⟨true, true, false⟩, ⟨true, true, true⟩, .none, false, false, false⟩  -- WAITT
  | 0x200 => some ⟨[.s32], ⟨false, true, false⟩, ⟨false, true, false⟩, .lane, false, false, false⟩  -- RAST
  | 0x201 => some ⟨[.s32], ⟨false, false, false⟩, ⟨false, true, false⟩, .lane, true, false, false⟩  -- SAMP
  | 0x202 => some ⟨[.s32], ⟨false, false, false⟩, ⟨false, true, false⟩, .lane, true, false, false⟩  -- SAMPG
  | 0x203 => some ⟨[.s32], ⟨false, false, false⟩, ⟨false, true, false⟩, .lane, true, false, false⟩  -- TRACE
  | 0x204 => some ⟨[.s32], ⟨true, true, false⟩, ⟨false, true, false⟩, .none, true, false, false⟩  -- OMRG
  | 0x240 => some ⟨allTys, ⟨false, false, false⟩, ⟨false, false, false⟩, .lane, true, false, false⟩  -- CKACC
  | 0x241 => some ⟨[.n64, .f64], ⟨true, false, false⟩, ⟨true, true, true⟩, .none, true, false, false⟩  -- CKTEST
  | 0x242 => some ⟨[.s32], ⟨false, true, false⟩, ⟨false, true, false⟩, .none, false, false, false⟩  -- IDEM
  | 0x243 => some ⟨[.s32], ⟨false, false, false⟩, ⟨false, false, false⟩, .none, true, false, false⟩  -- TRAPL
  | _ => none

/-- The row of an opcode, with the empty row for an unassigned one. -/
def infoOf (op : Nat) : OpInfo :=
  (opInfo op).getD ⟨[], ⟨false, false, false⟩, ⟨false, false, false⟩, .none, false, false, false⟩

/-- The types that each atomic operation accepts (R314). -/
def AOp.accepts (o : AOp) (t : Ty) : Bool :=
  match o with
  | .add => true
  | .swap => true
  | .cas => true
  | .min => [Ty.s32, .n32, .s64, .n64].contains t
  | .max => [Ty.s32, .n32, .s64, .n64].contains t
  | .and => [Ty.s32, .n32, .s64, .n64].contains t
  | .or => [Ty.s32, .n32, .s64, .n64].contains t
  | .xor => [Ty.s32, .n32, .s64, .n64].contains t
  | .inc => [Ty.n32, .n64].contains t
  | .dec => [Ty.n32, .n64].contains t
  | .minu => false
  | .maxu => false

/-- The checks that ATOM and RED share (R313, R383). -/
def AtomMod.ok (m : AtomMod) (t : Ty) : Bool :=
  m.aop.accepts t && (!m.spad || (m.req == .own && m.scope.spadOk))

/-- The checks on the width of LD, ST, LDS and STS (R357). -/
def MemMod.szOk (m : MemMod) (t : Ty) : Bool := m.sz == .full || t == .s32 || t == .n32

/-- The checks that LDS and STS add (R361). -/
def MemMod.spadOk (m : MemMod) : Bool := m.req == .own && m.scope.spadOk

/-- The checks of CVT on its own fields (R333). -/
def CvtMod.ok (m : CvtMod) (dt : Ty) : Bool :=
  let ns := m.st.elems
  let nd := dt.elems
  let k := min ns nd
  decide (m.part.toNat * k < max ns nd) &&
  (!m.nsat || [Ty.e4m3x8, .e5m2x8, .tf8x8, .tf6x10].contains dt) &&
  (!m.sat || (!dt.isFloat && !m.nsat))

/-- No rounding mode other than RNE in the prefix (R453). -/
def noRm (f : LaneForm) : Bool :=
  match f.pfx with
  | none => true
  | some p => p.rm == .rne

/-- RAST: N is a multiple of 8 and at least 8, and T is not 0 (R245, R381). -/
def rastOk (f : LaneForm) : Bool :=
  (match f.b with
   | .scal r => decide (8 ≤ r.toNat) && r.toNat % 8 == 0
   | _ => false) &&
  (match f.c with
   | .scal r => r != 0
   | _ => false)

/-- TR.DEC: the byte offset is a multiple of the size (R434). -/
def decSzOk (sz : DecSz) (boff : BitVec 6) : Bool :=
  match sz with
  | .byte => true
  | .half => boff.toNat % 2 == 0
  | .word => boff.toNat % 4 == 0

/-- Legality of an instruction as it stands. Events and the two pseudo-words are not encodings: an
event is always well formed. -/
def Instr.wf : Instr → Bool
  | .packageReset _ _ _ _ => true
  | .podTimeAligned _ => true
  | .governorPeriodBoundary _ _ => true
  | .governedRequestAdmit _ => true
  | .dieEnergyExhausted _ => true
  | .powerLimitExceeded => true
  | .groupBind _ _ => true
  | .laneQueueEnqueue _ => true
  | .resultReturn _ _ => true
  | .icacheFillReturn _ _ => true
  | .waitCycleProbe _ => true
  | .probeForward _ => true
  | .crewPlace _ _ => true
  | .pendingLaunchDrain _ => true
  | .crewExitComplete _ _ => true
  | .sowerDeliver _ => true
  | .memoryRequestAtHome _ => true
  | .lineRecall _ => true
  | .requestReturn _ => true
  | .accessCounterHalve => true
  | .stackCacheFillSpill _ _ => true
  | .winnowerClean _ _ => true
  | .precisionMessageQuad _ => true
  | .precisionMessageCore _ _ => true
  | .copyTransferStep _ => true
  | .copyRetire _ => true
  | .copyCmdCopy _ => true
  | .copyCmdFill _ => true
  | .copyCmdSignal _ => true
  | .tryWaitHintExpiry _ _ => true
  | .gleanerHint _ => true
  | .tload _ _ => true
  | .tstore _ _ => true
  | .tmma _ _ => true
  | .thad _ _ => true
  | .tzero _ _ => true
  | .tcvt _ _ => true
  | .tjoin _ _ => true
  | .matrixTaskRetire _ _ => true
  | .tmaskPairWriteResume _ => true
  | .rayResume _ _ => true
  | .rayStepBudgetExhausted _ => true
  | .fragmentArrival _ _ => true
  | .streamClose _ _ => true
  | .samplerResume _ => true
  | .residencyFault _ => true
  | .gleanerBatchClose _ _ => true
  | .gleanerFrameEligible _ _ _ => true
  | .gleanerEvict _ _ => true
  | .gleanerFetch _ _ => true
  | .pageResident _ _ => true
  | .handlerGroupLaunch _ _ => true
  | .timeSliceExpiry _ => true
  | .drainTimeout _ _ => true
  | .crewSave _ _ => true
  | .crewRestore _ _ _ => true
  | .softError _ => true
  | .doorbell _ => true
  | .fqheadWrite _ => true
  | .registerWrite _ _ => true
  | .qcreate => true
  | .qdestroy => true
  | .shootdown => true
  | .shootdownComplete _ => true
  | .faultans => true
  | .update => true
  | .liveUpdateSwitch => true
  | .attest => true
  | .podjoin => true
  | .packetDispatch _ => true
  | .packetPersist _ => true
  | .packetCopy _ => true
  | .packetSignal _ => true
  | .writesignal _ => true
  | .waittl _ => true
  | .packetNop _ => true
  | .priorityAging _ => true
  | .firmwareFailover => true
  | .schedulerFailover _ => true
  | .hostSnoop _ => true
  | .backInvalidateSnoop _ => true
  | .cxlPortFailure _ => true
  | .podLinkReroute _ _ => true
  | .iadd f _ => f.ok (infoOf 0x000)
  | .isub f _ => f.ok (infoOf 0x001)
  | .imul f _ => f.ok (infoOf 0x002)
  | .imulh f => f.ok (infoOf 0x003)
  | .imad f _ => f.ok (infoOf 0x004)
  | .imin f => f.ok (infoOf 0x005)
  | .imax f => f.ok (infoOf 0x006)
  | .iabs f _ => f.ok (infoOf 0x007)
  | .iaddx f _ => f.ok (infoOf 0x008)
  | .idp4 f _ => f.ok (infoOf 0x009)
  | .lop3 f _ => f.ok (infoOf 0x040)
  | .shl f => f.ok (infoOf 0x041)
  | .shr f => f.ok (infoOf 0x042)
  | .sra f => f.ok (infoOf 0x043)
  | .fshl f => f.ok (infoOf 0x044)
  | .fshr f => f.ok (infoOf 0x045)
  | .brev f => f.ok (infoOf 0x046)
  | .popc f => f.ok (infoOf 0x047)
  | .clz f => f.ok (infoOf 0x048)
  | .bfe f => f.ok (infoOf 0x049)
  | .bfi f => f.ok (infoOf 0x04A)
  | .bperm f => f.ok (infoOf 0x04B)
  | .icmp f _ => f.ok (infoOf 0x080)
  | .fcmp f _ => f.ok (infoOf 0x081)
  | .sel f _ => f.ok (infoOf 0x082)
  | .mov f => f.ok (infoOf 0x083)
  | .movi f _ => f.ok (infoOf 0x084)
  | .cvt f m => f.ok (infoOf 0x085) && m.ok f.ty
  | .pack f _ => f.ok (infoOf 0x086)
  | .unpk f _ => f.ok (infoOf 0x087)
  | .sreg f _ => f.ok (infoOf 0x088)
  | .fadd f => f.ok (infoOf 0x0C0)
  | .fsub f => f.ok (infoOf 0x0C1)
  | .fmul f => f.ok (infoOf 0x0C2)
  | .ffma f => f.ok (infoOf 0x0C3)
  | .fmin f => f.ok (infoOf 0x0C4)
  | .fmax f => f.ok (infoOf 0x0C5)
  | .frnd f => f.ok (infoOf 0x0C6)
  | .fdot2 f => f.ok (infoOf 0x0C7)
  | .frcpe f => f.ok (infoOf 0x100)
  | .frsqe f => f.ok (infoOf 0x101)
  | .fex2 f => f.ok (infoOf 0x102)
  | .flg2 f => f.ok (infoOf 0x103)
  | .fsin f => f.ok (infoOf 0x104)
  | .fcos f => f.ok (infoOf 0x105)
  | .mmac f _ => f.ok (infoOf 0x110)
  | .xget f => f.ok (infoOf 0x140)
  | .xput f => f.ok (infoOf 0x141)
  | .xbcast f => f.ok (infoOf 0x142)
  | .xred f op => f.ok (infoOf 0x143) && (f.ty.isFloat && op == .add || noRm f) && (!f.ty.isFloat || op == .add || op == .min || op == .max)
  | .xscan f op _ => f.ok (infoOf 0x144) && (f.ty.isFloat && op == .add || noRm f) && (!f.ty.isFloat || op == .add || op == .min || op == .max)
  | .xvote f mode k => f.ok (infoOf 0x145) && (mode != .eq || k == 0)
  | .ld f m => f.ok (infoOf 0x180) && m.szOk f.ty
  | .st f m => f.ok (infoOf 0x181) && m.szOk f.ty
  | .lds f m => f.ok (infoOf 0x182) && m.szOk f.ty && m.spadOk
  | .sts f m => f.ok (infoOf 0x183) && m.szOk f.ty && m.spadOk
  | .atom f m => f.ok (infoOf 0x184) && m.ok f.ty && (m.aop == .cas || f.c.unused)
  | .red f m => f.ok (infoOf 0x185) && m.ok f.ty && m.aop != .swap && m.aop != .cas
  | .pref f lvl rq => f.ok (infoOf 0x186) && rq != .nc && (lvl == .l1 || rq == .own)
  | .sdesc f _ del => f.ok (infoOf 0x187) && (!del || f.a == 0)
  | .subp f => f.ok (infoOf 0x188)
  | .unsp f => f.ok (infoOf 0x189)
  | .upgp f => f.ok (infoOf 0x18A)
  | .cinv f _ => f.ok (infoOf 0x18B)
  | .cwb f _ => f.ok (infoOf 0x18C)
  | .cdisc f _ => f.ok (infoOf 0x18D)
  | .fence f _ => f.ok (infoOf 0x18E)
  | .bara f m => f.ok (infoOf 0x1C0) && (m.inn || m.out || f.a == 0)
  | .barw f _ => f.ok (infoOf 0x1C1)
  | .bartw f _ => f.ok (infoOf 0x1C2)
  | .qpush f => f.ok (infoOf 0x1C3)
  | .qpop f => f.ok (infoOf 0x1C4)
  | .twait f _ _ _ => f.ok (infoOf 0x1C5)
  | .waitt f _ => f.ok (infoOf 0x1C6)
  | .rast f => f.ok (infoOf 0x200) && rastOk f
  | .samp f => f.ok (infoOf 0x201)
  | .sampg f => f.ok (infoOf 0x202)
  | .trace f => f.ok (infoOf 0x203)
  | .omrg f _ _ => f.ok (infoOf 0x204)
  | .ckacc f flt => f.ok (infoOf 0x240) && (!flt || f.ty.isFloat)
  | .cktest f flt => f.ok (infoOf 0x241) && (if flt then f.ty == .f64 else f.ty == .n64 && f.c.unused)
  | .idem f fin => (if fin then f.ok { infoOf 0x242 with b := ⟨false, false, false⟩, c := ⟨false, false, false⟩ } else f.ok (infoOf 0x242))
  | .trapl f => f.ok (infoOf 0x243)
  | .nop f => f.ok (infoOf 0x27F) && f.guard == none
  | .scAdd _ _ _ => true
  | .scAddImm _ _ _ => true
  | .scSub _ _ _ => true
  | .scSubImm _ _ _ => true
  | .scMul _ _ _ => true
  | .scMulImm _ _ _ => true
  | .scMulh _ _ _ => true
  | .scMulhImm _ _ _ => true
  | .scDiv _ _ _ => true
  | .scDivImm _ _ _ => true
  | .scRem _ _ _ => true
  | .scRemImm _ _ _ => true
  | .scAnd _ _ _ => true
  | .scAndImm _ _ _ => true
  | .scOr _ _ _ => true
  | .scOrImm _ _ _ => true
  | .scXor _ _ _ => true
  | .scXorImm _ _ _ => true
  | .scShl _ _ _ => true
  | .scShlImm _ _ _ => true
  | .scShr _ _ _ => true
  | .scShrImm _ _ _ => true
  | .scSra _ _ _ => true
  | .scSraImm _ _ _ => true
  | .scBitc _ _ _ => true
  | .scSet _ _ _ _ => true
  | .scSel _ _ _ _ => true
  | .scMov _ _ => true
  | .scLimm _ chunk ins imm => decide (chunk.toNat ≤ 4) && (!ins || chunk != 4 || !imm.getLsbD 12)
  | .scBr _ _ _ _ => true
  | .scJmp _ => true
  | .scCall _ => true
  | .scRet => true
  | .scLd _ _ _ _ _ => true
  | .scSt _ _ _ _ _ => true
  | .scAtom _ _ _ _ _ => true
  | .scFence _ => true
  | .scLrun _ => true
  | .scLset _ pf cnt => pf || cnt == 0
  | .scLwait => true
  | .scPush _ a _ => a != 0 && a.toNat % 8 == 0
  | .scFetch _ _ => true
  | .scYield => true
  | .scExit => true
  | .scCsrr _ _ => true
  | .scCsrw _ _ => true
  | .scTrap code => !code.getLsbD 12
  | .scTrapReturn => true
  | .scNop => true
  | .trLdn _ _ _ => true
  | .trBox _ => true
  | .trTri _ _ _ _ => true
  | .trXfm off16 back => !(off16 && back)
  | .trDec _ boff sz => decSzOk sz boff
  | .trPush _ _ => true
  | .trPop _ _ _ _ => true
  | .trSort _ _ => true
  | .trHit _ _ _ _ => true
  | .trAny _ _ _ _ => true
  | .trBr _ _ _ => true
  | .trJmp _ => true
  | .trAlu md _ mb fn => (fn != .mov || mb == 0) && (!(fn == .eq || fn == .ltu || fn == .flt) || !md.getLsbD 3)
  | .trLdi _ _ _ => true
  | .trBnd _ _ _ => true
  | .trEnd => true
  | .rootPointerInstall _ _ => true
  | .deviceBiasSet _ => true
  | .illegalScalarWord _ => true
  | .undefinedMicroOpcode _ => true
  | .scalarFetchFault => true

end Sys2Proof
end

