-- ==== Sys2Proof/Decode.lean ====
section
/-! DEFINITION. Decoding, total on any bits and rejecting what the spec calls illegal (R62 to R76), and
after it the encoder, written from the same tables. Three streams have three decoders: 96-bit lane
words with an optional prefix, 32-bit scalar words, 32-bit traversal micro-words (R62, R70, R74). -/

namespace Sys2Proof

/-! ## Fields of the lane word -/

/-- The fields of a lane word as they stand in its bits (R62). -/
structure LaneRaw where
  mod : BitVec 13
  ccls : BitVec 2
  bcls : BitVec 2
  ty : BitVec 4
  gen : BitVec 1
  ginv : BitVec 1
  gbit : BitVec 6
  g : BitVec 11
  c : BitVec 11
  b : BitVec 11
  a : BitVec 11
  d : BitVec 11
  u : BitVec 1
  s : BitVec 1
  op : BitVec 10
  deriving DecidableEq, Repr

/-- Lay the fields out, from bit 95 down (R62). -/
def LaneRaw.pack (r : LaneRaw) : LaneBits :=
  (r.mod ++ r.ccls ++ r.bcls ++ r.ty ++ r.gen ++ r.ginv ++ r.gbit ++ r.g ++ r.c ++ r.b ++ r.a ++ r.d ++
    r.u ++ r.s ++ r.op : BitVec 96)

/-- Read the fields from their places (R62). -/
def LaneRaw.unpack (w : LaneBits) : LaneRaw where
  mod := w.extractLsb' 83 13
  ccls := w.extractLsb' 81 2
  bcls := w.extractLsb' 79 2
  ty := w.extractLsb' 75 4
  gen := w.extractLsb' 74 1
  ginv := w.extractLsb' 73 1
  gbit := w.extractLsb' 67 6
  g := w.extractLsb' 56 11
  c := w.extractLsb' 45 11
  b := w.extractLsb' 34 11
  a := w.extractLsb' 23 11
  d := w.extractLsb' 12 11
  u := w.extractLsb' 11 1
  s := w.extractLsb' 10 1
  op := w.extractLsb' 0 10

/-- One bit as a Boolean, and back. -/
def bit1 (b : Bool) : BitVec 1 := if b then 1 else 0
def isSet (x : BitVec 1) : Bool := x == 1

/-- An operand from its field and class (R64); class 11 and a scalar field above 63 are illegal. -/
def decOpd (field : BitVec 11) (cls : BitVec 2) : Option Opd :=
  match cls.toNat with
  | 0 => some (.lane field)
  | 1 => if field.toNat < 64 then some (.scal (field.truncate 6)) else none
  | 2 => some (.imm field)
  | _ => none

def encOpd : Opd → BitVec 11 × BitVec 2
  | .lane r => (r, 0)
  | .scal r => (r.zeroExtend 11, 1)
  | .imm i => (i, 2)

/-- A guard from its fields; with gen = 0 the others must be 0 (R62). -/
def decGuard (gen ginv : BitVec 1) (gbit : BitVec 6) (g : BitVec 11) : Option (Option Guard) :=
  if isSet gen then some (some ⟨g, gbit, isSet ginv⟩)
  else if ginv == 0 && gbit == 0 && g == 0 then some none else none

/-- The prefix of R68: bit 31 reserved, bits [9:0] all ones. -/
def decPfx (w : Word) : Option Pfx :=
  if w.extractLsb' 0 10 == 0x3FF && w.extractLsb' 31 1 == 0 then
    (Rm.ofCode (w.extractLsb' 16 3)).map fun rm =>
      ⟨isSet (w.extractLsb' 30 1), w.extractLsb' 19 11, rm, w.extractLsb' 10 6⟩
  else none

def encPfx (p : Pfx) : Word :=
  (0#1 ++ bit1 p.mz ++ p.e ++ p.rm.code ++ p.mask ++ 0x3FF#10 : BitVec 32)

/-! ## Modifier fields, one reader and one writer for each layout -/

/-- A field that must be 0. -/
def zeroMod (m : BitVec 13) : Option Unit := if m == 0 then some () else none
/-- One flag at bit 0, the rest zero (R330, R347, R348, R351, R353, R354, R356, R449). -/
def decFlag (m : BitVec 13) : Option Bool :=
  if m.extractLsb' 1 12 == 0 then some (isSet (m.extractLsb' 0 1)) else none
def encFlag (b : Bool) : BitVec 13 := (0#12 ++ bit1 b : BitVec 13)
/-- Six bits at [5:0], the rest zero (R349, R422). -/
def decBit6 (m : BitVec 13) : Option (BitVec 6) :=
  if m.extractLsb' 6 7 == 0 then some (m.extractLsb' 0 6) else none
def encBit6 (k : BitVec 6) : BitVec 13 := (0#7 ++ k : BitVec 13)
/-- Eight bits at [7:0], the rest zero (R363). -/
def decLut (m : BitVec 13) : Option (BitVec 8) :=
  if m.extractLsb' 8 5 == 0 then some (m.extractLsb' 0 8) else none
def encLut (k : BitVec 8) : BitVec 13 := (0#5 ++ k : BitVec 13)
/-- A scope code at [2:0], the rest zero (R326, R450). -/
def decScopeMod (m : BitVec 13) : Option Scope :=
  if m.extractLsb' 3 10 == 0 then Scope.ofCode (m.extractLsb' 0 3) else none
def encScopeMod (s : Scope) : BitVec 13 := (0#10 ++ s.code : BitVec 13)
/-- A four-bit condition at [3:0], the rest zero (R337, R350). -/
def decICond (m : BitVec 13) : Option ICond :=
  if m.extractLsb' 4 9 == 0 then ICond.ofCode (m.extractLsb' 0 4) else none
def encICond (c : ICond) : BitVec 13 := (0#9 ++ c.code : BitVec 13)
def decFCond (m : BitVec 13) : Option FCond :=
  if m.extractLsb' 4 9 == 0 then FCond.ofCode (m.extractLsb' 0 4) else none
def encFCond (c : FCond) : BitVec 13 := (0#9 ++ c.code : BitVec 13)
/-- ATOM and RED (R313); the order code must be 00. -/
def decAtom (m : BitVec 13) : Option AtomMod := do
  guard (m.extractLsb' 12 1 == 0 && m.extractLsb' 3 2 == 0)
  let op ← AOp.ofCode (m.extractLsb' 8 4)
  guard (op != .minu && op != .maxu)
  let sc ← Scope.ofCode (m.extractLsb' 0 3)
  pure ⟨op, isSet (m.extractLsb' 7 1), ReqTy.ofCode (m.extractLsb' 5 2), sc⟩
def encAtom (m : AtomMod) : BitVec 13 :=
  (0#1 ++ m.aop.code ++ bit1 m.spad ++ m.req.code ++ 0#2 ++ m.scope.code : BitVec 13)
/-- Barriers (R318). -/
def decBar (m : BitVec 13) : Option BarMod :=
  if m.extractLsb' 3 10 == 0 then
    some ⟨isSet (m.extractLsb' 2 1), isSet (m.extractLsb' 1 1), isSet (m.extractLsb' 0 1)⟩
  else none
def encBar (m : BarMod) : BitVec 13 := (0#10 ++ bit1 m.out ++ bit1 m.inn ++ bit1 m.net : BitVec 13)
/-- CVT (R333). -/
def decCvt (m : BitVec 13) : Option CvtMod :=
  if m.extractLsb' 10 3 == 0 then
    some ⟨m.extractLsb' 6 4, isSet (m.extractLsb' 5 1), isSet (m.extractLsb' 4 1), Ty.ofCode (m.extractLsb' 0 4)⟩
  else none
def encCvt (m : CvtMod) : BitVec 13 :=
  (0#3 ++ m.part ++ bit1 m.nsat ++ bit1 m.sat ++ m.st.code : BitVec 13)
/-- FENCE (R340). -/
def decFence (m : BitVec 13) : Option FenceMod := do
  guard (m.extractLsb' 6 7 == 0)
  let o ← FOrd.ofCode (m.extractLsb' 3 2)
  let s ← Scope.ofCode (m.extractLsb' 0 3)
  pure ⟨isSet (m.extractLsb' 5 1), o, s⟩
def encFence (m : FenceMod) : BitVec 13 :=
  (0#7 ++ bit1 m.uo ++ m.ord.code ++ m.scope.code : BitVec 13)
/-- LD, ST, LDS and STS (R357, R361), with the order codes of a load or of a store (R139). -/
def decMem (ordOf : BitVec 2 → Option MOrd) (m : BitVec 13) : Option MemMod := do
  guard (m.extractLsb' 9 4 == 0)
  let z ← AccSz.ofCode (m.extractLsb' 7 2)
  let o ← ordOf (m.extractLsb' 3 2)
  let s ← Scope.ofCode (m.extractLsb' 0 3)
  pure ⟨z, ReqTy.ofCode (m.extractLsb' 5 2), o, s⟩
def encMem (ordCode : MOrd → BitVec 2) (m : MemMod) : BitVec 13 :=
  (0#4 ++ m.sz.code ++ m.req.code ++ ordCode m.ord ++ m.scope.code : BitVec 13)
/-- MMAC: the register of the format word at [10:0] (R364). -/
def decFreg (m : BitVec 13) : Option LReg :=
  if m.extractLsb' 11 2 == 0 then some (m.extractLsb' 0 11) else none
def encFreg (r : LReg) : BitVec 13 := (0#2 ++ r : BitVec 13)
/-- OMRG (R252): sequence register and `.close`. -/
def decOmrg (m : BitVec 13) : Option (SReg × Bool) :=
  if m.extractLsb' 7 6 == 0 then some (m.extractLsb' 0 6, isSet (m.extractLsb' 6 1)) else none
def encOmrg (r : SReg) (c : Bool) : BitVec 13 := (0#6 ++ bit1 c ++ r : BitVec 13)
/-- PACK (R373). -/
def decPack (m : BitVec 13) : Option PackMode :=
  if m.extractLsb' 2 11 == 0 then some (PackMode.ofCode (m.extractLsb' 0 2)) else none
def encPack (p : PackMode) : BitVec 13 := (0#11 ++ p.code : BitVec 13)
/-- PREF (R375). -/
def decPref (m : BitVec 13) : Option (PrefLvl × ReqTy) := do
  guard (m.extractLsb' 4 9 == 0)
  let l ← PrefLvl.ofCode (m.extractLsb' 0 2)
  pure (l, ReqTy.ofCode (m.extractLsb' 2 2))
def encPref (l : PrefLvl) (r : ReqTy) : BitVec 13 := (0#9 ++ r.code ++ l.code : BitVec 13)
/-- SDESC (R418). -/
def decSdesc (m : BitVec 13) : Option (DescKind × Bool) := do
  guard (m.extractLsb' 3 10 == 0)
  let k ← DescKind.ofCode (m.extractLsb' 0 2)
  pure (k, isSet (m.extractLsb' 2 1))
def encSdesc (k : DescKind) (del : Bool) : BitVec 13 := (0#10 ++ bit1 del ++ k.code : BitVec 13)
/-- SREG (R424). -/
def decSreg (m : BitVec 13) : Option SregSel :=
  if m.extractLsb' 5 8 == 0 then SregSel.ofCode (m.extractLsb' 0 5) else none
def encSreg (s : SregSel) : BitVec 13 := (0#8 ++ s.code : BitVec 13)
/-- TWAIT (R447). -/
def decTwait (m : BitVec 13) : Option (WCond × Bool × Scope) := do
  guard (m.extractLsb' 7 6 == 0)
  let c ← WCond.ofCode (m.extractLsb' 0 3)
  let s ← Scope.ofCode (m.extractLsb' 4 3)
  pure (c, isSet (m.extractLsb' 3 1), s)
def encTwait (c : WCond) (w32 : Bool) (s : Scope) : BitVec 13 :=
  (0#6 ++ s.code ++ bit1 w32 ++ c.code : BitVec 13)
/-- XRED and XSCAN (R453). -/
def decScan (m : BitVec 13) : Option (ROp × Bool) := do
  guard (m.extractLsb' 4 9 == 0)
  let o ← ROp.ofCode (m.extractLsb' 0 3)
  pure (o, isSet (m.extractLsb' 3 1))
def encScan (o : ROp) (e : Bool) : BitVec 13 := (0#9 ++ bit1 e ++ o.code : BitVec 13)
/-- XVOTE (R456). -/
def decVote (m : BitVec 13) : Option (VoteMode × BitVec 6) :=
  if m.extractLsb' 8 5 == 0 then some (VoteMode.ofCode (m.extractLsb' 0 2), m.extractLsb' 2 6) else none
def encVote (v : VoteMode) (k : BitVec 6) : BitVec 13 := (0#5 ++ k ++ v.code : BitVec 13)

/-- The raw number of an operand field; MOVI's b and c fields are pieces of its immediate (R75). -/
def Opd.field (o : Opd) : BitVec 11 := (encOpd o).1

/-! ## Lane instructions -/

/-- The instruction of a lane opcode, its form and its mod field (R75 and the entries); `none` for an
unassigned opcode or a modifier its entry does not define. -/
def laneOf (op : Nat) (f : LaneForm) (m : BitVec 13) : Option Instr :=
  match op with
  | 0x000 => (decFlag m).map (.iadd f)
  | 0x001 => (decFlag m).map (.isub f)
  | 0x002 => (decFlag m).map (.imul f)
  | 0x003 => (zeroMod m).map fun _ => .imulh f
  | 0x004 => (decFlag m).map (.imad f)
  | 0x005 => (zeroMod m).map fun _ => .imin f
  | 0x006 => (zeroMod m).map fun _ => .imax f
  | 0x007 => (decFlag m).map (.iabs f)
  | 0x008 => (decBit6 m).map (.iaddx f)
  | 0x009 => (decFlag m).map (.idp4 f)
  | 0x040 => (decLut m).map (.lop3 f)
  | 0x041 => (zeroMod m).map fun _ => .shl f
  | 0x042 => (zeroMod m).map fun _ => .shr f
  | 0x043 => (zeroMod m).map fun _ => .sra f
  | 0x044 => (zeroMod m).map fun _ => .fshl f
  | 0x045 => (zeroMod m).map fun _ => .fshr f
  | 0x046 => (zeroMod m).map fun _ => .brev f
  | 0x047 => (zeroMod m).map fun _ => .popc f
  | 0x048 => (zeroMod m).map fun _ => .clz f
  | 0x049 => (zeroMod m).map fun _ => .bfe f
  | 0x04A => (zeroMod m).map fun _ => .bfi f
  | 0x04B => (zeroMod m).map fun _ => .bperm f
  | 0x080 => (decICond m).map (.icmp f)
  | 0x081 => (decFCond m).map (.fcmp f)
  | 0x082 => (decBit6 m).map (.sel f)
  | 0x083 => (zeroMod m).map fun _ => .mov f
  | 0x084 =>
    if m.extractLsb' 10 3 == 0 && (encOpd f.b).2 == 0 && (encOpd f.c).2 == 0 then
      some (.movi { f with b := .lane 0, c := .lane 0 } (f.c.field ++ f.b.field ++ m.extractLsb' 0 10))
    else none
  | 0x085 => (decCvt m).map (.cvt f)
  | 0x086 => (decPack m).map (.pack f)
  | 0x087 => (decFlag m).map (.unpk f)
  | 0x088 => (decSreg m).map (.sreg f)
  | 0x0C0 => (zeroMod m).map fun _ => .fadd f
  | 0x0C1 => (zeroMod m).map fun _ => .fsub f
  | 0x0C2 => (zeroMod m).map fun _ => .fmul f
  | 0x0C3 => (zeroMod m).map fun _ => .ffma f
  | 0x0C4 => (zeroMod m).map fun _ => .fmin f
  | 0x0C5 => (zeroMod m).map fun _ => .fmax f
  | 0x0C6 => (zeroMod m).map fun _ => .frnd f
  | 0x0C7 => (zeroMod m).map fun _ => .fdot2 f
  | 0x100 => (zeroMod m).map fun _ => .frcpe f
  | 0x101 => (zeroMod m).map fun _ => .frsqe f
  | 0x102 => (zeroMod m).map fun _ => .fex2 f
  | 0x103 => (zeroMod m).map fun _ => .flg2 f
  | 0x104 => (zeroMod m).map fun _ => .fsin f
  | 0x105 => (zeroMod m).map fun _ => .fcos f
  | 0x110 => (decFreg m).map (.mmac f)
  | 0x140 => (zeroMod m).map fun _ => .xget f
  | 0x141 => (zeroMod m).map fun _ => .xput f
  | 0x142 => (zeroMod m).map fun _ => .xbcast f
  | 0x143 => (decScan m).bind fun x => if x.2 then none else some (.xred f x.1)
  | 0x144 => (decScan m).map fun x => .xscan f x.1 x.2
  | 0x145 => (decVote m).map fun x => .xvote f x.1 x.2
  | 0x180 => (decMem MOrd.ofCodeLd m).map (.ld f)
  | 0x181 => (decMem MOrd.ofCodeSt m).map (.st f)
  | 0x182 => (decMem MOrd.ofCodeLd m).map (.lds f)
  | 0x183 => (decMem MOrd.ofCodeSt m).map (.sts f)
  | 0x184 => (decAtom m).map (.atom f)
  | 0x185 => (decAtom m).map (.red f)
  | 0x186 => (decPref m).map fun x => .pref f x.1 x.2
  | 0x187 => (decSdesc m).map fun x => .sdesc f x.1 x.2
  | 0x188 => (zeroMod m).map fun _ => .subp f
  | 0x189 => (zeroMod m).map fun _ => .unsp f
  | 0x18A => (zeroMod m).map fun _ => .upgp f
  | 0x18B => (decScopeMod m).map (.cinv f)
  | 0x18C => (decScopeMod m).map (.cwb f)
  | 0x18D => (decScopeMod m).map (.cdisc f)
  | 0x18E => (decFence m).map (.fence f)
  | 0x1C0 => (decBar m).map (.bara f)
  | 0x1C1 => (decFlag m).map (.barw f)
  | 0x1C2 => (decFlag m).map (.bartw f)
  | 0x1C3 => (zeroMod m).map fun _ => .qpush f
  | 0x1C4 => (zeroMod m).map fun _ => .qpop f
  | 0x1C5 => (decTwait m).map fun x => .twait f x.1 x.2.1 x.2.2
  | 0x1C6 => (decScopeMod m).map (.waitt f)
  | 0x200 => (zeroMod m).map fun _ => .rast f
  | 0x201 => (zeroMod m).map fun _ => .samp f
  | 0x202 => (zeroMod m).map fun _ => .sampg f
  | 0x203 => (zeroMod m).map fun _ => .trace f
  | 0x204 => (decOmrg m).map fun x => .omrg f x.1 x.2
  | 0x240 => (decFlag m).map (.ckacc f)
  | 0x241 => (decFlag m).map (.cktest f)
  | 0x242 => (decFlag m).map (.idem f)
  | 0x243 => (zeroMod m).map fun _ => .trapl f
  | 0x27F => (zeroMod m).map fun _ => .nop f
  | _ => none

/-- A lane instruction from its word and its prefix, if it has one; `none` is an illegal encoding
(R62, R63, R68). A word of three zero units is illegal (R63). -/
def decodeLane (pfx : Option Word) (w : LaneBits) : Option Instr := do
  guard (w != 0)
  let p ← (match pfx with
    | none => some none
    | some x => (decPfx x).map some)
  let r := LaneRaw.unpack w
  let b ← decOpd r.b r.bcls
  let c ← decOpd r.c r.ccls
  let g ← decGuard r.gen r.ginv r.gbit r.g
  let i ← laneOf r.op.toNat ⟨p, Ty.ofCode r.ty, g, r.a, b, c, r.d, isSet r.u, isSet r.s⟩ r.mod
  guard i.wf
  pure i

/-- Opcode, form and mod field of a lane instruction (R75 and the entries). -/
def laneParts : Instr → Option (BitVec 10 × LaneForm × BitVec 13)
  | .iadd f sat => some (0x000, f, encFlag sat)
  | .isub f sat => some (0x001, f, encFlag sat)
  | .imul f sat => some (0x002, f, encFlag sat)
  | .imulh f => some (0x003, f, 0)
  | .imad f sat => some (0x004, f, encFlag sat)
  | .imin f => some (0x005, f, 0)
  | .imax f => some (0x006, f, 0)
  | .iabs f sat => some (0x007, f, encFlag sat)
  | .iaddx f cbit => some (0x008, f, encBit6 cbit)
  | .idp4 f sat => some (0x009, f, encFlag sat)
  | .lop3 f lut => some (0x040, f, encLut lut)
  | .shl f => some (0x041, f, 0)
  | .shr f => some (0x042, f, 0)
  | .sra f => some (0x043, f, 0)
  | .fshl f => some (0x044, f, 0)
  | .fshr f => some (0x045, f, 0)
  | .brev f => some (0x046, f, 0)
  | .popc f => some (0x047, f, 0)
  | .clz f => some (0x048, f, 0)
  | .bfe f => some (0x049, f, 0)
  | .bfi f => some (0x04A, f, 0)
  | .bperm f => some (0x04B, f, 0)
  | .icmp f cond => some (0x080, f, encICond cond)
  | .fcmp f cond => some (0x081, f, encFCond cond)
  | .sel f k => some (0x082, f, encBit6 k)
  | .mov f => some (0x083, f, 0)
  | .movi f imm => some (0x084, { f with b := .lane (imm.extractLsb' 10 11), c := .lane (imm.extractLsb' 21 11) },
      0#3 ++ imm.extractLsb' 0 10)
  | .cvt f m => some (0x085, f, encCvt m)
  | .pack f mode => some (0x086, f, encPack mode)
  | .unpk f hi => some (0x087, f, encFlag hi)
  | .sreg f sel => some (0x088, f, encSreg sel)
  | .fadd f => some (0x0C0, f, 0)
  | .fsub f => some (0x0C1, f, 0)
  | .fmul f => some (0x0C2, f, 0)
  | .ffma f => some (0x0C3, f, 0)
  | .fmin f => some (0x0C4, f, 0)
  | .fmax f => some (0x0C5, f, 0)
  | .frnd f => some (0x0C6, f, 0)
  | .fdot2 f => some (0x0C7, f, 0)
  | .frcpe f => some (0x100, f, 0)
  | .frsqe f => some (0x101, f, 0)
  | .fex2 f => some (0x102, f, 0)
  | .flg2 f => some (0x103, f, 0)
  | .fsin f => some (0x104, f, 0)
  | .fcos f => some (0x105, f, 0)
  | .mmac f freg => some (0x110, f, encFreg freg)
  | .xget f => some (0x140, f, 0)
  | .xput f => some (0x141, f, 0)
  | .xbcast f => some (0x142, f, 0)
  | .xred f op => some (0x143, f, encScan op false)
  | .xscan f op excl => some (0x144, f, encScan op excl)
  | .xvote f mode k => some (0x145, f, encVote mode k)
  | .ld f m => some (0x180, f, encMem MOrd.codeLd m)
  | .st f m => some (0x181, f, encMem MOrd.codeSt m)
  | .lds f m => some (0x182, f, encMem MOrd.codeLd m)
  | .sts f m => some (0x183, f, encMem MOrd.codeSt m)
  | .atom f m => some (0x184, f, encAtom m)
  | .red f m => some (0x185, f, encAtom m)
  | .pref f lvl rq => some (0x186, f, encPref lvl rq)
  | .sdesc f kind del => some (0x187, f, encSdesc kind del)
  | .subp f => some (0x188, f, 0)
  | .unsp f => some (0x189, f, 0)
  | .upgp f => some (0x18A, f, 0)
  | .cinv f scope => some (0x18B, f, encScopeMod scope)
  | .cwb f scope => some (0x18C, f, encScopeMod scope)
  | .cdisc f scope => some (0x18D, f, encScopeMod scope)
  | .fence f m => some (0x18E, f, encFence m)
  | .bara f m => some (0x1C0, f, encBar m)
  | .barw f net => some (0x1C1, f, encFlag net)
  | .bartw f net => some (0x1C2, f, encFlag net)
  | .qpush f => some (0x1C3, f, 0)
  | .qpop f => some (0x1C4, f, 0)
  | .twait f cond w32 scope => some (0x1C5, f, encTwait cond w32 scope)
  | .waitt f scope => some (0x1C6, f, encScopeMod scope)
  | .rast f => some (0x200, f, 0)
  | .samp f => some (0x201, f, 0)
  | .sampg f => some (0x202, f, 0)
  | .trace f => some (0x203, f, 0)
  | .omrg f seq close => some (0x204, f, encOmrg seq close)
  | .ckacc f flt => some (0x240, f, encFlag flt)
  | .cktest f flt => some (0x241, f, encFlag flt)
  | .idem f fin => some (0x242, f, encFlag fin)
  | .trapl f => some (0x243, f, 0)
  | .nop f => some (0x27F, f, 0)
  | _ => none

/-- The fields of a form under an opcode and a mod field (R62). -/
def rawOf (op : BitVec 10) (f : LaneForm) (m : BitVec 13) : LaneRaw where
  mod := m
  ccls := (encOpd f.c).2
  bcls := (encOpd f.b).2
  ty := f.ty.code
  gen := bit1 f.guard.isSome
  ginv := bit1 ((f.guard.map Guard.inv).getD false)
  gbit := (f.guard.map Guard.bit).getD 0
  g := (f.guard.map Guard.reg).getD 0
  c := (encOpd f.c).1
  b := (encOpd f.b).1
  a := f.a
  d := f.d
  u := bit1 f.uni
  s := bit1 f.mark
  op := op

/-- The prefix word and the lane word of a lane instruction. -/
def encodeLane (i : Instr) : Option (Option Word × LaneBits) :=
  (laneParts i).map fun x => (x.2.1.pfx.map encPfx, (rawOf x.1 x.2.1 x.2.2).pack)

/-! ## Scalar instructions (R70 to R73, R390 to R416) -/

/-- SR format: func, b, a, d over the opcode (R70). -/
def encSR (op : BitVec 7) (d a b : SReg) (func : BitVec 7) : Word := (func ++ b ++ a ++ d ++ op : BitVec 32)
/-- SI format: imm13, a, d over the opcode (R70). -/
def encSI (op : BitVec 7) (d a : SReg) (imm : BitVec 13) : Word := (imm ++ a ++ d ++ op : BitVec 32)

/-- A scalar instruction from its word; `none` is an illegal encoding, which takes ILLEGAL at itself
(R70, R71). The word 0xFFF80052 is SC.TRAP −1, the return (R273, R415). -/
def decodeScalar (w : Word) : Option Instr :=
  let d := w.extractLsb' 7 6
  let a := w.extractLsb' 13 6
  let b := w.extractLsb' 19 6
  let func := w.extractLsb' 25 7
  let imm := w.extractLsb' 19 13
  let z := fun (i : Instr) => if func == 0 then some i else none
  let bare := fun (i : Instr) => if w.extractLsb' 7 25 == 0 then some i else none
  let i : Option Instr :=
    match (w.extractLsb' 0 7).toNat with
    | 0x01 => z (.scAdd d a b)
    | 0x02 => z (.scSub d a b)
    | 0x03 => z (.scMul d a b)
    | 0x04 => z (.scMulh d a b)
    | 0x05 => z (.scDiv d a b)
    | 0x06 => z (.scRem d a b)
    | 0x07 => z (.scAnd d a b)
    | 0x08 => z (.scOr d a b)
    | 0x09 => z (.scXor d a b)
    | 0x0A => z (.scShl d a b)
    | 0x0B => z (.scShr d a b)
    | 0x0C => z (.scSra d a b)
    | 0x61 => some (.scAddImm d a imm)
    | 0x62 => some (.scSubImm d a imm)
    | 0x63 => some (.scMulImm d a imm)
    | 0x64 => some (.scMulhImm d a imm)
    | 0x65 => some (.scDivImm d a imm)
    | 0x66 => some (.scRemImm d a imm)
    | 0x67 => some (.scAndImm d a imm)
    | 0x68 => some (.scOrImm d a imm)
    | 0x69 => some (.scXorImm d a imm)
    | 0x6A => some (.scShlImm d a imm)
    | 0x6B => some (.scShrImm d a imm)
    | 0x6C => some (.scSraImm d a imm)
    | 0x0D => if b == 0 then (BitCount.ofCode func).map (.scBitc d a) else none
    | 0x0E => (SCond.ofCode func).map (.scSet d a b)
    | 0x0F => if func.extractLsb' 6 1 == 0 then some (.scSel d a b (func.extractLsb' 0 6)) else none
    | 0x10 => if b == 0 then z (.scMov d a) else none
    | 0x11 => if a.extractLsb' 0 2 == 0 then some (.scLimm d (a.extractLsb' 3 3) (isSet (a.extractLsb' 2 1)) imm) else none
    | 0x20 => some (.scBr d a (isSet (w.extractLsb' 19 1)) (w.extractLsb' 20 12))
    | 0x21 => some (.scJmp (w.extractLsb' 7 25))
    | 0x22 => some (.scCall (w.extractLsb' 7 25))
    | 0x23 => bare .scRet
    | 0x30 => do
      let o ← MOrd.ofCodeLd (imm.extractLsb' 3 2)
      let s ← Scope.ofCode (imm.extractLsb' 0 3)
      pure (.scLd d a (imm.extractLsb' 5 8) o s)
    | 0x31 => do
      let o ← MOrd.ofCodeSt (imm.extractLsb' 3 2)
      let s ← Scope.ofCode (imm.extractLsb' 0 3)
      pure (.scSt d a (imm.extractLsb' 5 8) o s)
    | 0x32 => do
      let o ← AOp.ofCode (func.extractLsb' 3 4)
      let s ← Scope.ofCode (func.extractLsb' 0 3)
      pure (.scAtom d a b o s)
    | 0x33 => do
      guard (d == 0 && a == 0 && b == 0 && func.extractLsb' 5 1 == 0)
      let o ← FOrd.ofCode (func.extractLsb' 3 2)
      let s ← Scope.ofCode (func.extractLsb' 0 3)
      pure (.scFence ⟨isSet (func.extractLsb' 6 1), o, s⟩)
    | 0x40 => if w.extractLsb' 12 20 == 0 then some (.scLrun (w.extractLsb' 7 5)) else none
    | 0x41 => some (.scLset (w.extractLsb' 13 19) (isSet (w.extractLsb' 12 1)) (w.extractLsb' 7 5))
    | 0x42 => bare .scLwait
    | 0x43 => if b == 0 && func.extractLsb' 2 5 == 0 then some (.scPush d a (func.extractLsb' 0 2)) else none
    | 0x44 => if b == 0 then z (.scFetch d a) else none
    | 0x45 => bare .scYield
    | 0x46 => bare .scExit
    | 0x50 => if a == 0 then some (.scCsrr d imm) else none
    | 0x51 => if d == 0 then some (.scCsrw a imm) else none
    | 0x52 => if d == 0 && a == 0 then (if imm == 0x1FFF then some .scTrapReturn else some (.scTrap imm)) else none
    | 0x7F => bare .scNop
    | _ => none
  i.bind fun i => if i.wf then some i else none

/-- The word of a scalar instruction, from the same tables. -/
def encodeScalar : Instr → Option Word
  | .scAdd d a b => some (encSR 0x01 d a b 0)
  | .scSub d a b => some (encSR 0x02 d a b 0)
  | .scMul d a b => some (encSR 0x03 d a b 0)
  | .scMulh d a b => some (encSR 0x04 d a b 0)
  | .scDiv d a b => some (encSR 0x05 d a b 0)
  | .scRem d a b => some (encSR 0x06 d a b 0)
  | .scAnd d a b => some (encSR 0x07 d a b 0)
  | .scOr d a b => some (encSR 0x08 d a b 0)
  | .scXor d a b => some (encSR 0x09 d a b 0)
  | .scShl d a b => some (encSR 0x0A d a b 0)
  | .scShr d a b => some (encSR 0x0B d a b 0)
  | .scSra d a b => some (encSR 0x0C d a b 0)
  | .scAddImm d a imm => some (encSI 0x61 d a imm)
  | .scSubImm d a imm => some (encSI 0x62 d a imm)
  | .scMulImm d a imm => some (encSI 0x63 d a imm)
  | .scMulhImm d a imm => some (encSI 0x64 d a imm)
  | .scDivImm d a imm => some (encSI 0x65 d a imm)
  | .scRemImm d a imm => some (encSI 0x66 d a imm)
  | .scAndImm d a imm => some (encSI 0x67 d a imm)
  | .scOrImm d a imm => some (encSI 0x68 d a imm)
  | .scXorImm d a imm => some (encSI 0x69 d a imm)
  | .scShlImm d a imm => some (encSI 0x6A d a imm)
  | .scShrImm d a imm => some (encSI 0x6B d a imm)
  | .scSraImm d a imm => some (encSI 0x6C d a imm)
  | .scBitc d a cnt => some (encSR 0x0D d a 0 cnt.code)
  | .scSet d a b cond => some (encSR 0x0E d a b cond.code)
  | .scSel d a b sel => some (encSR 0x0F d a b (0#1 ++ sel))
  | .scMov d a => some (encSR 0x10 d a 0 0)
  | .scLimm d chunk ins imm => some (encSI 0x11 d (chunk ++ bit1 ins ++ 0#2) imm)
  | .scBr r bit sense off => some (off ++ bit1 sense ++ bit ++ r ++ 0x20#7 : BitVec 32)
  | .scJmp off => some (off ++ 0x21#7 : BitVec 32)
  | .scCall off => some (off ++ 0x22#7 : BitVec 32)
  | .scRet => some 0x23
  | .scLd d a off ord scope => some (encSI 0x30 d a (off ++ ord.codeLd ++ scope.code))
  | .scSt d a off ord scope => some (encSI 0x31 d a (off ++ ord.codeSt ++ scope.code))
  | .scAtom d a b aop scope => some (encSR 0x32 d a b (aop.code ++ scope.code))
  | .scFence m => some (encSR 0x33 0 0 0 (bit1 m.uo ++ 0#1 ++ m.ord.code ++ m.scope.code))
  | .scLrun cnt => some (0#20 ++ cnt ++ 0x40#7 : BitVec 32)
  | .scLset off pf cnt => some (off ++ bit1 pf ++ cnt ++ 0x41#7 : BitVec 32)
  | .scLwait => some 0x42
  | .scPush d a q => some (encSR 0x43 d a 0 (0#5 ++ q))
  | .scFetch d a => some (encSR 0x44 d a 0 0)
  | .scYield => some 0x45
  | .scExit => some 0x46
  | .scCsrr d num => some (encSI 0x50 d 0 num)
  | .scCsrw a num => some (encSI 0x51 0 a num)
  | .scTrap code => some (encSI 0x52 0 0 code)
  | .scTrapReturn => some 0xFFF80052
  | .scNop => some 0x7F
  | _ => none

/-! ## Traversal micro-instructions (R74, R76, R428) -/

/-- A micro-instruction from its word; `none` is a word that ends the ray with BADOP (R74): an
undefined micro-opcode, a bit marked zero that holds 1, or a field value its entry gives BADOP. -/
def decodeMicro (w : Word) : Option Instr :=
  let m5 := w.extractLsb' 5 4
  let m9 := w.extractLsb' 9 4
  let m13 := w.extractLsb' 13 4
  let m17 := w.extractLsb' 17 4
  let hi := fun (n : Nat) (i : Instr) => if w.toNat < 2 ^ n then some i else none
  let i : Option Instr :=
    match (w.extractLsb' 0 5).toNat with
    | 0x01 => hi 12 (.trLdn m5 (w.extractLsb' 9 2) (isSet (w.extractLsb' 11 1)))
    | 0x02 => hi 9 (.trBox m5)
    | 0x03 => hi 16 (.trTri (w.extractLsb' 5 3) (w.extractLsb' 8 4) (w.extractLsb' 12 3) (isSet (w.extractLsb' 15 1)))
    | 0x04 => hi 7 (.trXfm (isSet (w.extractLsb' 6 1)) (isSet (w.extractLsb' 5 1)))
    | 0x05 => (DecSz.ofCode (w.extractLsb' 15 2)).bind fun z => hi 17 (.trDec m5 (w.extractLsb' 9 6) z)
    | 0x06 => hi 13 (.trPush m5 m9)
    | 0x07 => hi 17 (.trPop m5 m9 (w.extractLsb' 13 3) (isSet (w.extractLsb' 16 1)))
    | 0x08 => hi 13 (.trSort m5 m9)
    | 0x09 => hi 21 (.trHit m5 m9 m13 m17)
    | 0x0A => hi 21 (.trAny m5 m9 m13 m17)
    | 0x0B => hi 17 (.trBr (w.extractLsb' 5 3) (isSet (w.extractLsb' 8 1)) (w.extractLsb' 9 8))
    | 0x0C => hi 13 (.trJmp (w.extractLsb' 5 8))
    | 0x0D => (MFn.ofCode m17).bind fun fn => hi 21 (.trAlu m5 m9 m13 fn)
    | 0x0E => if w.extractLsb' 10 6 == 0 then some (.trLdi m5 (isSet (w.extractLsb' 9 1)) (w.extractLsb' 16 16)) else none
    | 0x0F => hi 13 (.trBnd (w.extractLsb' 5 3) (w.extractLsb' 8 4) (isSet (w.extractLsb' 12 1)))
    | 0x10 => hi 5 .trEnd
    | _ => none
  i.bind fun i => if i.wf then some i else none

/-- The word of a micro-instruction, from the same table. -/
def encodeMicro : Instr → Option Word
  | .trLdn mi win lay => some (0#20 ++ bit1 lay ++ win ++ mi ++ 0x01#5 : BitVec 32)
  | .trBox md => some (0#23 ++ md ++ 0x02#5 : BitVec 32)
  | .trTri cb mt off4 cf => some (0#16 ++ bit1 cf ++ off4 ++ mt ++ cb ++ 0x03#5 : BitVec 32)
  | .trXfm off16 back => some (0#25 ++ bit1 off16 ++ bit1 back ++ 0x04#5 : BitVec 32)
  | .trDec md boff sz => some (0#15 ++ sz.code ++ boff ++ md ++ 0x05#5 : BitVec 32)
  | .trPush ma mb => some (0#19 ++ mb ++ ma ++ 0x06#5 : BitVec 32)
  | .trPop mi mt cb cull => some (0#15 ++ bit1 cull ++ cb ++ mt ++ mi ++ 0x07#5 : BitVec 32)
  | .trSort md mn => some (0#19 ++ mn ++ md ++ 0x08#5 : BitVec 32)
  | .trHit mt mp mi mu => some (0#11 ++ mu ++ mi ++ mp ++ mt ++ 0x09#5 : BitVec 32)
  | .trAny mt mp mi mu => some (0#11 ++ mu ++ mi ++ mp ++ mt ++ 0x0A#5 : BitVec 32)
  | .trBr cb sense target => some (0#15 ++ target ++ bit1 sense ++ cb ++ 0x0B#5 : BitVec 32)
  | .trJmp target => some (0#19 ++ target ++ 0x0C#5 : BitVec 32)
  | .trAlu md ma mb fn => some (0#11 ++ fn.code ++ mb ++ ma ++ md ++ 0x0D#5 : BitVec 32)
  | .trLdi md hi imm => some (imm ++ 0#6 ++ bit1 hi ++ md ++ 0x0E#5 : BitVec 32)
  | .trBnd cb mi lay => some (0#19 ++ bit1 lay ++ mi ++ cb ++ 0x0F#5 : BitVec 32)
  | .trEnd => some 0x10
  | _ => none

/-! ## Bytes and table words -/

/-- Little-endian bytes of a word (R4). -/
def wordBytes (w : Word) : List Byte :=
  [w.extractLsb' 0 8, w.extractLsb' 8 8, w.extractLsb' 16 8, w.extractLsb' 24 8]

/-- The bytes of a lane instruction as memory holds them: the prefix if there is one, then three
little-endian units (R4, R62, R68). -/
def laneBytes (pfx : Option Word) (w : LaneBits) : List Byte :=
  (match pfx with
   | none => []
   | some x => wordBytes x) ++
  wordBytes (w.extractLsb' 0 32) ++ wordBytes (w.extractLsb' 32 32) ++ wordBytes (w.extractLsb' 64 32)

/-- The little-endian word that four bytes make, or `none` when fewer are left. -/
def takeWord : List Byte → Option (Word × List Byte)
  | b0 :: b1 :: b2 :: b3 :: rest => some ((b3 ++ b2 ++ b1 ++ b0 : BitVec 32), rest)
  | _ => none

/-- One lane instruction from bytes: a unit whose bits [9:0] are 0x3FF is a prefix (R68), and a second
prefix after it is illegal (R69) because opcode 0x3FF is unassigned. Gives the prefix word, the lane
word and the rest of the bytes. -/
def takeLane (bs : List Byte) : Option (Option Word × LaneBits × List Byte) := do
  let (u, r) ← takeWord bs
  if u.extractLsb' 0 10 == 0x3FF then
    let (u0, r) ← takeWord r
    let (u1, r) ← takeWord r
    let (u2, r) ← takeWord r
    pure (some u, (u2 ++ u1 ++ u0 : BitVec 96), r)
  else
    let (u1, r) ← takeWord r
    let (u2, r) ← takeWord r
    pure (none, (u2 ++ u1 ++ u : BitVec 96), r)

/-- Decode a lane instruction from bytes. -/
def decodeLaneBytes (bs : List Byte) : Option (Instr × List Byte) := do
  let (p, w, r) ← takeLane bs
  let i ← decodeLane p w
  pure (i, r)

/-- The streams a table word can belong to. The table gives no stream; a 32-bit word that is legal in
both 32-bit streams is read as a scalar instruction (DESIGN CHOICE, log 13). -/
inductive Stream where
  | scalar | micro | lane
  deriving DecidableEq, Repr

/-- Which stream a table word of this many bits is read in. -/
def streamOf (nbits w : Nat) : Stream :=
  if 32 < nbits then .lane
  else if (decodeScalar (BitVec.ofNat 32 w)).isSome then .scalar
  else if (decodeMicro (BitVec.ofNat 32 w)).isSome then .micro
  else .scalar

/-- The prefix and the lane word of a table number: 96 bits are a lane word, 128 bits a prefix under a
lane word, bit 0 being the least significant bit of the first unit. -/
def tableLane (w : Nat) : Option Word × LaneBits :=
  if w % 1024 = 0x3FF then (some (BitVec.ofNat 32 w), BitVec.ofNat 96 (w / 2 ^ 32))
  else (none, BitVec.ofNat 96 w)

/-- The instruction this decoder reads from a table word. -/
def decodeTableWord (nbits w : Nat) : Option Instr :=
  match streamOf nbits w with
  | .lane => (decodeLaneBytes (laneBytes (tableLane w).1 (tableLane w).2)).map Prod.fst
  | .scalar => decodeScalar (BitVec.ofNat 32 w)
  | .micro => decodeMicro (BitVec.ofNat 32 w)

end Sys2Proof
end

