-- ==== Sys2Proof/Machine/Turn.lean ====
section
/-! DEFINITION. Whose turn it is: the agents of the package and of the world outside it (log 2). -/

namespace Sys2Proof.Machine

/-- One turn of one agent. A turn whose conditions do not hold changes nothing (log 2). -/
inductive Turn where
  /-- The scalar stream of a group executes the instruction at SPC (R37). -/
  | scalar (gid : Nat)
  /-- The lane stream of a group tries to enter the head of its lane queue (R34, R50). -/
  | lane (gid : Nat)
  /-- A traversal engine executes the next micro-instruction of a ray (R222). -/
  | micro (ray : Nat)
  /-- A device, driver or environment event of the opcode table. -/
  | event (i : Instr)
  /-- The time-stamp counter advances by at most this many ticks, not past a due event (log 14). -/
  | wait (ticks : Nat)
  /-- A quad's instruction cache loses a block, and a block that SC.LSET prefetched arrives (R60, R73). -/
  | codeDrop (quad line : Nat)
  | codeArrive (quad line : Nat)
  /-- The invalidation of a stale copy arrives at its core (R124, log 47). -/
  | inval (id : Nat)
  /-- A translation cache loses an entry (R116). -/
  | tlbDrop (asid vpage : Nat)
  /-- A core's L1 evicts a line (R123). -/
  | evict (core line : Nat)
  /-- The LLC evicts a sector (R125). -/
  | sectorEvict (page : Nat)
  /-- A die scheduler makes a completion, refusal or abort add (R194, R465). -/
  | add (id : Nat)
  /-- A die scheduler reads a continuation record and submits it (R194). -/
  | cont (id : Nat)
  /-- A pod link goes down, or comes back (R307). -/
  | link (n : Nat) (down : Bool)
  /-- The driver sets its policy's drain and restart thresholds, in ticks (R279). -/
  | policy (drain restart : Nat)
  /-- The host or another package writes bytes at a pool address (R128, R305); package 0xFFFF is the host. -/
  | outWrite (who pa : Nat) (bytes : List Byte)
  /-- The host or another package reads a line at a pool address (R128, R305). -/
  | outRead (who pa : Nat)
  deriving DecidableEq, Repr, Inhabited

end Sys2Proof.Machine
end

