-- ==== Sys2Proof/Config.lean ====
section
/-! DEFINITION. What an implementation or the world outside fixes and the spec leaves open: opaque
constants, of which nothing can be proved (log 6). Each is applied to a plain counter of the state or to
the operands it depends on. -/

namespace Sys2Proof.Config

/-- Whose turn comes when the agenda lists nothing (log 2). -/
opaque freeTurn : Nat → Sys2Proof.Machine.Turn
/-- A choice that the spec leaves to the device (log 6). -/
opaque freeBool : Nat → Bool
/-- A value that the spec leaves open (log 6). -/
opaque freeWord : Nat → Dword
/-- Whether CKTEST passes two sums of zero under an infinite tolerance, by the tolerance (R110, log 6). -/
opaque zeroInf : Dword → Bool
/-- Quarters of a tick that have passed when a clk begins, by what the counter reads then: a clk is 1.25 ticks
(R7, R22, log 12). -/
opaque clkPhase : Dword → Nat
/-- SHAKE256-256 of a byte string (R301); the spec names the function and does not define it (log 11). -/
opaque shake : List Byte → BitVec 256
/-- Whether a Falcon-1024 signature verifies over a digest against the fused vendor key (R301, log 11). -/
opaque falconOk : BitVec 256 → List Byte → Bool
/-- The signature the attestation key gives a report (R302, log 11). -/
opaque attestSign : List Byte → List Byte
/-- The layout version, security version and body length that a firmware image declares (R299, R301); the
spec does not lay the image out (log 11). -/
opaque imageLayouts : BitVec 256 → List Nat
opaque imageVersion : BitVec 256 → Nat
opaque imageBytes : Dword → Nat
/-- Bytes of the signature that follows an image's body (R301, log 11). -/
opaque sigBytes : Nat
/-- Whether a package of the pod holds a position (R306, R307, log 10). -/
opaque podHeld : Nat → Bool

end Sys2Proof.Config
end

