-- ==== Sys2Proof/Machine/Cells.lean ====
section
/-! DEFINITION. Sparse maps as sorted lists of (key, value) pairs in one canonical form: keys strictly
rising and no entry equal to the value an unlisted key reads as. Memory is such a map of bytes. -/

namespace Sys2Proof.Machine

/-- A sparse map: pairs of a key and a value, keys strictly rising. -/
abbrev Cells (α : Type) := List (Nat × α)

/-- The value listed at a key. -/
def Cells.find {α : Type} : Cells α → Nat → Option α
  | [], _ => none
  | (k, v) :: r, n => if n = k then some v else Cells.find r n

/-- The value at a key, `dflt` where nothing is listed. -/
def Cells.get {α : Type} (dflt : α) (c : Cells α) (n : Nat) : α := (c.find n).getD dflt

/-- List a value at a key. -/
def Cells.put {α : Type} : Cells α → Nat → α → Cells α
  | [], n, v => [(n, v)]
  | (k, w) :: r, n, v =>
    if n = k then (k, v) :: r else if n < k then (n, v) :: (k, w) :: r else (k, w) :: Cells.put r n v

/-- Take a key off the list. -/
def Cells.drop {α : Type} : Cells α → Nat → Cells α
  | [], _ => []
  | (k, w) :: r, n => if n = k then Cells.drop r n else (k, w) :: Cells.drop r n

/-- Write a value: writing what an unlisted key reads as removes the entry. -/
def Cells.set {α : Type} [DecidableEq α] (dflt : α) (c : Cells α) (n : Nat) (v : α) : Cells α :=
  if v = dflt then c.drop n else c.put n v

/-- Keys strictly rising, all above a bound. -/
def Cells.rising {α : Type} : Nat → Cells α → Bool
  | _, [] => true
  | lo, (k, _) :: r => decide (lo ≤ k) && Cells.rising (k + 1) r

/-- The canonical form: keys strictly rising, no entry with the default value. -/
def Cells.wf {α : Type} [DecidableEq α] (dflt : α) (c : Cells α) : Bool :=
  Cells.rising 0 c && c.all (fun e => decide (e.2 ≠ dflt))

/-- Drop every key in `[lo, lo + n)`. -/
def Cells.cut {α : Type} (c : Cells α) (lo n : Nat) : Cells α :=
  c.filter fun e => !(decide (lo ≤ e.1) && decide (e.1 < lo + n))

end Sys2Proof.Machine
end

