-- ==== Sys2Proof/Machine/State.lean ====
section
/-! DEFINITION. The state of one package as plain data, the reasons a step can stop, and the state after
reset. Every piece of state the spec gives the machine is here; INVENTORY.md lists each with its rule. -/

namespace Sys2Proof.Machine

/-- The reasons a step can fault. -/
inductive Fault where
  /-- An agent outside the package named a pool address of more than 52 bits (R113, R304): such an address
  does not exist. Raised by the turns of outside agents alone. Safe. -/
  | noSuchPoolAddress (pa : Nat)
  deriving DecidableEq, Repr

/-- The reasons a step can be refused. -/
inductive Refusal where
  /-- An instruction whose meaning is not written. Raised by the dispatch alone. Safe. -/
  | notModelled (mnemonic : String)
  deriving DecidableEq, Repr

/-- The exception flags nv, dz, of, uf, nx at bits 4 to 0 (R80). -/
abbrev Flags := BitVec 5

/-! ## Groups -/

/-- An entry of the lane queue (R32, R39, R275): the address, the prefix (0 for none), the word, and the
captured values in the order of R275: b, c, mask, then those the entry names. -/
structure QEntry where
  addr : Dword
  pfx : Word
  word : LaneBits
  caps : List Dword
  deriving DecidableEq, Repr, Inhabited

/-- An agent that waits on pages or on a driver's answer (R263, R267). -/
inductive Waiter where
  | group (gid : Nat)
  | copy (id : Nat)
  | task (grid crew key half : Nat)
  | ray (id : Nat)
  | samp (gid : Nat)
  | frag (die key : Nat)
  | add (id : Nat)
  | fetch (gid : Nat) (lane : Bool)
  | packet (queue : Nat)
  | cont (id : Nat)
  | shoot (id : Nat)
  | hint
  deriving DecidableEq, Repr, Inhabited

/-- Why a group is parked (R51). -/
inductive Park where
  /-- Ready. -/
  | none
  /-- At a switch marker, until its pending set is empty (R44). -/
  | marker
  /-- At a barrier object (offset), or at a scoped barrier (network index) (R321). -/
  | barrier (off : Nat)
  | scoped (idx : Nat)
  /-- At a named queue (R377). -/
  | queue (q : Nat)
  /-- In TWAIT or WAITT (R448, R450). -/
  | word
  | timeline
  /-- At the probe or a code fetch, with the number of pages or answers still awaited (R261). -/
  | probe (left : Nat)
  /-- At CKTEST or TRAPL, with the number of handler threads still awaited, and whether a marker
  follows (R44, R277). -/
  | lanes (left : Nat) (mark : Bool)
  deriving DecidableEq, Repr, Inhabited

/-- What a group awaits for the wait-cycle probe (R58). -/
inductive Target where
  | none
  | barrier (core off : Nat)
  | scoped (idx : Nat)
  | queue (q : Nat)
  | memory
  deriving DecidableEq, Repr, Inhabited

/-- The kind of a long-latency result (R43, R40). -/
inductive ResKind where
  | load | atomic | scratch | mmac | trace | samp | rast | reduce | pop | status | cache | barrier | tryBar
  deriving DecidableEq, Repr, Inhabited

/-- A lane instruction that has entered and not retired: the rows it will write, the values known so far
(keyed 32 × row + thread), its scalar result, its flags, and the requests or rays it still awaits. -/
structure Inflight where
  id : Nat
  kind : ResKind
  addr : Dword
  rows : List Nat
  writes : Cells Dword
  sreg : Option SReg
  sval : Dword
  flags : Flags
  needs : Nat
  /-- RAST: its capture, and the active threads, so that a save can cut the scan (R250). -/
  caps : List Dword
  mask : Word
  /-- CDISC: what it discarded; try-waits: the deadline; TRACE: 1 once a ray has ended with POISON. -/
  aux : Nat
  /-- The virtual pages whose probes it passed, which a shoot-down awaits (R116). -/
  vpages : List Nat
  /-- Whether it rewrites its rows in every thread, with what it zeroed as it entered: they hold no poison then (R282). -/
  whole : Bool
  deriving DecidableEq, Repr, Inhabited

/-- An unfinished SAMP or SAMPG (R257, R258). -/
structure Samp where
  infl : Nat
  gather : Bool
  desc : Dword
  arow : Nat
  dst : Nat
  act : Word
  done : Word
  thr : Nat
  tmask : BitVec 4
  stage : List Dword
  /-- The faulting address of the record; `none` while the sampler runs. -/
  fva : Option Dword
  /-- Pages and answers awaited before it resumes, and the driver's answer trap: code, address. -/
  left : Nat
  trap : Option (Nat × Nat)
  entry : QEntry
  /-- The texture descriptor as last read. -/
  tex : BitVec 256
  /-- Whether its staged texels are poisoned engine storage (R282). -/
  bad : Bool
  deriving DecidableEq, Repr, Inhabited

/-- A fence that stands: what it orders is still held (R341, R401). -/
structure FenceRec where
  scalar : Bool
  mask : Word
  m : FenceMod
  upto : Nat
  deriving DecidableEq, Repr, Inhabited

/-- One group (R32): its architected state, its place, and what it awaits. -/
structure Group where
  gid : Nat
  grid : Nat
  crew : Nat
  idx : Nat
  core : Nat
  asid : Nat
  spc : Dword
  lpc : Dword
  sregs : Cells Dword
  lanes : Cells Dword
  near : Nat
  depth : Nat
  queue : List QEntry
  resv : BitVec 64
  /-- Rows pending, and rows held as if pending (R43, R257). -/
  pend : List Nat
  held : List Nat
  /-- The run of an SC.LRUN still to be enqueued (R38). -/
  run : List QEntry
  /-- SC.LRUN resumed at a trap return enqueues only this many (R273). -/
  lrem : Nat
  slips : Dword
  fflags : Flags
  fmtword : Dword
  trapvec : Dword
  idemspc : Dword
  idemlpc : Dword
  restarts : Nat
  stkbase : Dword
  stklimit : Dword
  replay : Dword
  /-- What the stack cache holds: bytes that the group wrote, and the rows of 256 bytes that have been fetched (R119). -/
  stack : Cells Byte
  rows : List Nat
  handler : Bool
  park : Park
  target : Target
  waitFrom : Dword
  probedAt : Dword
  carried : List (Nat × Nat)
  /-- The generation of the group's last arrival at each barrier: by object offset, or 2^21 + network index (R58). -/
  arrived : Cells Nat
  /-- Where the park happened: in the lane stream, or in the scalar stream. -/
  parkLane : Bool
  /-- The answer the driver gave to the fault it waits on (R263): the trap to take, the address and the thread. -/
  answer : Option (Nat × Dword × Nat)
  pipe : Option Nat
  part : Nat
  slot : Nat
  age : Dword
  /-- The mailbox of an outstanding SC.FETCH, and its place in the order of arrival (R196, R197). -/
  fetch : Option (Nat × Nat)
  /-- Its place in the choice of its partition (R37, R50, R61): whether it became ready by SC.YIELD, when its scalar
  stream last had a turn in which it did not complete an instruction, when its lane stream last had one, and whether the result
  of its last scalar load or atomic may still be on its way. -/
  yielded : Bool
  slow : Bool
  /-- Parked by its die's exhausted energy budget while it was ready (R30, R51). -/
  dim : Bool
  offS : Option Dword
  offL : Option Dword
  frozenS : Bool
  frozenL : Bool
  /-- The instruction-cache blocks that the streams await (R60). -/
  missS : Option Nat
  missL : Option Nat
  /-- The reservations and the scalar registers as they stood when the SC.LRUN that waits for words began (R38). -/
  begun : Option (Dword × Cells Dword)
  infl : List Inflight
  samp : Option Samp
  fences : List FenceRec
  /-- The number below which lane requests stand in the scalar stream's program order (R135). -/
  linked : Nat
  /-- An SC.CSRW that changes cr.tmask.pair and waits (R217). -/
  pairWait : Option Dword
  /-- Origin threads of a handler group, one for each of its threads (R278). -/
  origins : List (Nat × Nat)
  exiting : Bool
  ended : Bool
  deriving DecidableEq, Repr, Inhabited

/-! ## Crews, grids, queues -/

/-- A stash entry (R120): slot, range, the bytes of scratchpad that it occupies (R175), and the lines it holds: owned
bytes and dirty bytes by offset. -/
structure Stash where
  slot : Nat
  sbase : Nat
  len : Nat
  foot : Nat
  gbase : Nat
  sfmt : Nat
  obj : Nat
  /-- Lines filled (scratchpad line, pool line), scratchpad lines dirty, and whether its subscription has
  ended. -/
  filled : List (Nat × Nat)
  dirty : List Nat
  dead : Bool
  deriving DecidableEq, Repr, Inhabited

/-- A command context (R153): its timeline word's pool address, the last number accepted, the numbers
accepted and unretired, those retired, and the value last written. -/
structure Ctx where
  word : Nat
  last : Nat
  openN : List Nat
  doneN : List Nat
  bumped : Nat
  deriving DecidableEq, Repr, Inhabited

/-- What a crew is doing. -/
inductive CrewStatus where
  | running
  | draining (since : Nat)
  | saving
  | exiting
  deriving DecidableEq, Repr, Inhabited

/-- One crew on its core (R12, R48, R153). -/
structure Crew where
  grid : Nat
  num : Nat
  core : Nat
  gids : List Nat
  alloc : Nat
  size : Nat
  stash : List Stash
  copies : Ctx
  tasks : Ctx
  crewPage : Nat
  place : Placement
  status : CrewStatus
  startAt : Nat
  ran : Nat
  deriving DecidableEq, Repr, Inhabited

/-- A kernel descriptor that passed its checks (R293). -/
structure Kernel where
  addr : Nat
  trapv : Dword
  trapk : Nat
  lentry : Dword
  sentry : Dword
  scratch : Nat
  stack : Nat
  regs : Nat
  near : Nat
  raydepth : Nat
  crew : Nat
  idem : Bool
  deriving DecidableEq, Repr, Inhabited

/-- The kind of a grid (R54, R277). -/
inductive GridKind where
  | plain | cores | persist | handler
  deriving DecidableEq, Repr, Inhabited

/-- One grid: its launch record, its kernel, its crews and its completion (R12, R192 to R196). -/
structure Grid where
  id : Nat
  asid : Nat
  queue : Nat
  kind : GridKind
  sbar : Bool
  prio : Nat
  cg : Nat
  crews : Nat
  args : Dword
  ctr : Dword
  cont : Dword
  cthresh : Nat
  k : Kernel
  placed : List Nat
  exited : Nat
  runSum : Nat
  items : Nat × Nat × Nat
  /-- Items handed out from the low and from the high end of each die's share (R196). -/
  lo : List Nat
  hi : List Nat
  /-- Origins of a handler grid's threads (R277, R278). -/
  origins : List (Nat × Nat × Dword × Dword × Nat)
  done : Bool
  deriving DecidableEq, Repr, Inhabited

/-- A packet that has started and not completed (R290): its number and what it waits for. -/
inductive PktWait where
  | grid (id : Nat)
  | copy (id : Nat)
  /-- A WAITTL on a word of the queue's address space. -/
  | word (va n : Nat)
  /-- A WRITESIGNAL that has written its data: its signal's address and value. -/
  | signal (va value : Nat)
  /-- It has written all it writes, and what its writes sent is awaited (R169, R291). -/
  | sent
  /-- The packet at which the queue has stopped. -/
  | stuck
  | done
  deriving DecidableEq, Repr, Inhabited

/-- One host queue (R287 to R290, R296). -/
structure HostQueue where
  num : Nat
  asid : Nat
  prio : Nat
  slice : Nat
  lsz : Nat
  base : Nat
  stat : Nat
  tl : Nat
  head : Nat
  phase : Bool
  awake : Bool
  fetched : Nat
  /-- Pages and answers that the fetcher awaits (R263), and the number of the packet that has started for which it does so. -/
  left : Nat
  onStep : Option Nat
  pkts : List (Nat × PktWait)
  bumped : Nat
  stopped : Bool
  destroyed : Bool
  eff : Nat
  waitSince : Dword
  /-- When it last became ready: it had work to place and no crew that ran (R297). -/
  readyAt : Dword
  /-- When its slice began, and whether it has ended by then: its crews have been pre-empted, or none
  has begun (R296). -/
  sliceAt : Dword
  spent : Bool
  deriving DecidableEq, Repr, Inhabited

/-- A completion, refusal or abort add still to be made (R194, R465). -/
structure Add where
  id : Nat
  grid : Option Nat
  asid : Nat
  queue : Nat
  ctr : Dword
  delta : Dword
  cthresh : Nat
  cont : Dword
  /-- Whether the add is tested against cthresh and cont (R194). -/
  test : Bool
  die : Nat
  left : Nat
  /-- It has been made, and what its write sent is awaited (R153, R169). -/
  sent : Bool
  deriving DecidableEq, Repr, Inhabited

/-- A launch record in a group's pending-launch buffer (R55, R193). -/
structure Launch where
  gid : Nat
  asid : Nat
  queue : Nat
  die : Nat
  record : BitVec 512
  deriving DecidableEq, Repr, Inhabited

/-- A continuation record that is being read (R194). -/
structure Cont where
  id : Nat
  asid : Nat
  queue : Nat
  addr : Dword
  die : Nat
  left : Nat
  deriving DecidableEq, Repr, Inhabited

/-- A scoped barrier of one network instance, granted to a grid (R185, R186). -/
structure ScopedBar where
  grid : Nat
  net : Nat
  inst : Nat
  slot : Nat
  expct : Nat
  pend : Nat
  gen : Nat
  deriving DecidableEq, Repr, Inhabited

/-- Threads of one grid that met a lane condition, gathered by a die's compaction unit (R277): gid, core
and thread and code packed as v0 lays them out, LPC, operand. -/
structure Compact where
  die : Nat
  grid : Nat
  since : Dword
  thrs : List (Nat × Nat × Dword × Dword × Nat)
  deriving DecidableEq, Repr, Inhabited

/-- A wait-cycle probe under way (R59). -/
structure Probe where
  id : Nat
  sender : Nat
  /-- When the sender's wait began, and when the probe was sent. -/
  stamp : Dword
  sent : Dword
  dest : Nat
  chain : List Nat
  deriving DecidableEq, Repr, Inhabited

/-! ## Memory -/

/-- What an L1 line is (R122, R123, R170): registered copy, owned dirty bytes, unregistered `.si` copy of
64 bytes, a buffered `.si` store, or a registered copy that a write has made stale, until its invalidation arrives. -/
inductive L1Kind where
  | shared | owned | si | stale
  deriving DecidableEq, Repr, Inhabited

/-- A line of one core's L1, or of its buffered `.si` stores (kind `si` with `buffered`). -/
structure L1Line where
  core : Nat
  line : Nat
  kind : L1Kind
  buffered : Bool
  /-- Bytes held, by pool address: the dirty bytes of an owned line, the bytes of a `.si` copy or store, or those of a
  stale copy. -/
  bytes : Cells Byte
  deriving DecidableEq, Repr, Inhabited

/-- An access that has been performed (R134): of a group's scalar stream or of threads of its lane stream, its place in
the order in which the group made its accesses, the kind of its page, and its scope. One of a unit that works for a grid
has the unit's number and the grid's. -/
structure Access where
  gid : Nat
  grid : Nat
  scalar : Bool
  mask : Word
  id : Nat
  ok : Nat
  scope : Scope
  deriving DecidableEq, Repr, Inhabited

/-- A release fence whose obligation is met, behind which the writes of its agents still wait (R147). -/
structure Fenced where
  gid : Nat
  scalar : Bool
  mask : Word
  uo : Bool
  scope : Scope
  upto : Nat
  deriving DecidableEq, Repr, Inhabited

/-- What waits for a message or an invalidation on its way (R141, R145 to R147, R169, log 47): releases of the agents whose
accesses it concerns, releases of whole cores and of whole groups, and writes behind release fences. -/
structure Cover where
  accs : List Access
  cores : List Nat
  gids : List Nat
  fenced : List Fenced
  deriving DecidableEq, Repr, Inhabited

/-- An invalidation on its way from a line's home to a core that holds a stale copy (R124, R141, log 47). -/
structure Inval where
  id : Nat
  core : Nat
  line : Nat
  cov : Cover
  deriving DecidableEq, Repr, Inhabited

/-- What a line request does. -/
inductive ReqKind where
  | load | store | atomic | red | pref | wb | inval | discard
  deriving DecidableEq, Repr, Inhabited

/-- One thread's part of a line request: thread, element address, bytes, and what it does with them. -/
structure Part where
  thr : Nat
  va : Dword
  pa : Nat
  size : Nat
  data : Dword
  cmp : Dword
  deriving DecidableEq, Repr, Inhabited

/-- A line request (R131): its source, class, line, order, and how far it has come. -/
structure Req where
  id : Nat
  gid : Nat
  grid : Nat
  core : Nat
  scalar : Bool
  kind : ReqKind
  cls : Nat
  line : Nat
  rq : ReqTy
  ord : MOrd
  scope : Scope
  ok : Nat
  ty : Ty
  sz : AccSz
  aop : AOp
  row : Nat
  infl : Nat
  asid : Nat
  parts : List Part
  /-- A `.si` load whose line is not to be kept: an acquire of its agent came while it was in flight (R159). -/
  noKeep : Bool
  /-- Answered as poison: its port failed while it was in flight (R304). -/
  lost : Bool
  /-- Whether it has been charged: one that its L1 answers is not (R28, R132). -/
  paid : Bool
  /-- 0 waits for a budget, 1 accepted, 2 served and its slot still held (R29, R131). -/
  stage : Nat
  deriving DecidableEq, Repr, Inhabited

/-- A GDDR-7 frame in use (R126, R266). -/
structure Frame where
  num : Nat
  page : Nat
  dirty : Bool
  used : Nat
  /-- Withdrawn for eviction (R266). -/
  gone : Bool
  deriving DecidableEq, Repr, Inhabited

/-- A page in an open batch, without an eligible frame, with a victim to evict, with its fetch to be issued, or
with its fetch under way (R265 to R267). -/
inductive PageStage where
  | batch | frame | evict | fetch | coming
  deriving DecidableEq, Repr, Inhabited

/-- One page at its Gleaner. -/
structure PageJob where
  gleaner : Nat
  page : Nat
  stage : PageStage
  frame : Nat
  victim : Option Nat
  stamp : Dword
  pref : Bool
  deriving DecidableEq, Repr, Inhabited

/-- A residency fault on its way to a Gleaner, or joined to its page (R265, R267). -/
structure PageWait where
  id : Nat
  page : Nat
  stamp : Dword
  source : Nat
  waiter : Waiter
  pref : Bool
  sent : Bool
  deriving DecidableEq, Repr, Inhabited

/-- A cached translation (R116). -/
structure Tlb where
  asid : Nat
  vpage : Nat
  pte : Dword
  level : Nat
  page : Nat
  deriving DecidableEq, Repr, Inhabited

/-- A page that the firmware mapped (R153, R268, R119): its address space, addresses, rights. A page with
neither right is one of the device-only parts of a replay area (R268). -/
structure FirmMap where
  grid : Nat
  crew : Nat
  asid : Nat
  vpage : Nat
  page : Nat
  write : Bool
  read : Bool
  deriving DecidableEq, Repr, Inhabited

/-- A shoot-down under way (R116, R126): what must retire first. -/
structure Shoot where
  id : Nat
  asid : Nat
  base : Nat
  len : Nat
  upto : Nat
  full : Bool
  left : Nat
  deriving DecidableEq, Repr, Inhabited

/-! ## Precision coherence -/

/-- A live tile object (R161, R162). -/
structure Obj where
  asid : Nat
  num : Nat
  hfmt : Nat
  pitch : Nat
  cols : Nat
  rows : Nat
  base : Nat
  deriving DecidableEq, Repr, Inhabited

/-- A subscription (R166): the core, the crews it stands for, object, format, mode, and the stash slot if
the holder is a stash entry. -/
structure Sub where
  core : Nat
  crews : List (Nat × Nat)
  asid : Nat
  obj : Nat
  fmt : Nat
  update : Bool
  stash : Option Nat
  deriving DecidableEq, Repr, Inhabited

/-- One element listed in a message: its address, its old and its new bits (R168). -/
structure ElemChange where
  va : Nat
  pa : Nat
  old : Nat
  new : Nat
  deriving DecidableEq, Repr, Inhabited

/-- A message to a quad, and the cores it has been passed on to (R168). -/
structure Msg where
  id : Nat
  /-- The group whose write caused it, 2^32 + number for a queue's fetcher, 2^33 + id for a copy or an add, 2^34 (grid + 1) + crew for
  a task, or 2^32 - 1. -/
  gid : Nat
  quad : Nat
  /-- The core whose lane or scalar stream wrote, and 2^20 for any other writer (R170). -/
  core : Nat
  asid : Nat
  obj : Nat
  line : Nat
  update : Bool
  elems : List ElemChange
  cores : Option (List Nat)
  cov : Cover
  deriving DecidableEq, Repr, Inhabited

/-- An image that a core's L1 holds: one element's encoding, by the element's virtual address and its line (R169,
R177). Messages numbered below `since` were sent before it was filled (R178). -/
structure Image where
  core : Nat
  asid : Nat
  obj : Nat
  va : Nat
  vline : Nat
  bits : Nat
  since : Nat
  deriving DecidableEq, Repr, Inhabited

/-! ## Engines -/

/-- A stream slot of a core (R129, R130). -/
structure Stream where
  core : Nat
  slot : Nat
  grid : Nat
  crew : Nat
  asid : Nat
  desc : BitVec 256
  here : Option Nat
  fetched : List Nat
  arrived : List Nat
  used : List Nat
  issued : Nat
  accurate : Nat
  late : Nat
  useless : Nat
  deriving DecidableEq, Repr, Inhabited

/-- A Gleaner hint record in a core's hint queue (R189, R195). -/
structure Hint where
  id : Nat
  core : Nat
  asid : Nat
  pages : List Nat
  deriving DecidableEq, Repr, Inhabited

/-- What a copy command is doing (R191, R269). -/
inductive CopyStage where
  | queued | running | faulted (left : Nat) | suspended | finished
  deriving DecidableEq, Repr, Inhabited

/-- One copy command (R190, R269). -/
structure Copy where
  id : Nat
  grid : Nat
  crew : Nat
  queue : Option Nat
  seq : Nat
  cmd : BitVec 512
  core : Nat
  quad : Nat
  asid : Nat
  z : Nat
  y : Nat
  xoff : Nat
  moved : Nat
  stage : CopyStage
  fva : Dword
  stamp : Dword
  cause : Nat
  side : Nat
  /-- Old bytes of the positions that the command has written, where its source may hold them too (R191). -/
  held : Cells Byte
  /-- Source bytes that were read with a whole unit and are not written yet, and whether they are poisoned (R134). -/
  ahead : List Byte
  tainted : Bool
  /-- Inbound transfer steps that wait until what their bytes' writes sent has arrived (R169, R191). -/
  owed : Nat
  /-- The virtual pages whose probes it has passed since it started or was resumed (R116). -/
  vpages : List Nat
  deriving DecidableEq, Repr, Inhabited

/-- A tile shape (R79). -/
structure Shape where
  fmt : Nat
  rows : Nat
  cols : Nat
  deriving DecidableEq, Repr, Inhabited

/-- What a tile task is doing (R207, R210, R215). -/
inductive TaskStage where
  | accepted | issued | ended | retired
  deriving DecidableEq, Repr, Inhabited

/-- One tile task in the window (R203, R204). -/
structure Task where
  key : Nat
  grid : Nat
  crew : Nat
  asid : Nat
  desc : BitVec 512
  sa : Shape
  sb : Shape
  fmtw : Word
  pair : Bool
  /-- The crew that held the engine of half 1 when a paired task was accepted (R219). -/
  mate : Nat
  stage : TaskStage
  status : Nat
  flags : Flags
  /-- The progress words of the two halves (R215, R218). -/
  prog : Nat
  prog1 : Nat
  /-- Rows staged by the halves of a paired task, by 64 × half + row, each with whether it is poisoned (R218, R282). -/
  staged : List (Nat × List Byte × Bool)
  /-- Halves (2 for the status word) that await a page or an answer, one entry for each (R215). -/
  holds : List Nat
  /-- The driver answered trap for a row, or for the status word (R263). -/
  fail : Bool
  skip : Bool
  /-- The virtual pages whose probes its rows have passed (R116). -/
  vpages : List Nat
  deriving DecidableEq, Repr, Inhabited

/-- The matrix engine of one core (R199). Tiles by 8192 × t + byte, accumulators by 4096 × a + 64 × i + j. -/
structure Matrix where
  holder : Option (Nat × Nat)
  tiles : Cells Byte
  accs : Cells Word
  chains : Cells (Option (Nat × Nat))
  shapes : Cells Dword
  tmask : Dword
  window : List Task
  nextKey : Nat
  /-- Poisoned storage: word w of the tiles, and 65536 + element of the accumulators (R282). -/
  bad : List Nat
  deriving DecidableEq, Repr, Inhabited

/-- A layout descriptor that passed its checks (R227). -/
structure Layout where
  base : Nat
  bsize : Nat
  nsz : Nat
  choff : Nat
  boxoff : Nat
  cntoff : Nat
  width : Nat
  benc : Bool
  qoff : Nat
  deriving DecidableEq, Repr, Inhabited

/-- Where a ray is (R224, R237, R240). -/
inductive RayStage where
  | slot (core : Nat)
  | saved (left : Nat)
  | ready
  deriving DecidableEq, Repr, Inhabited

/-- One ray (R224), in an engine slot or in its record. -/
structure Ray where
  id : Nat
  gid : Nat
  thr : Nat
  issuer : Nat
  infl : Nat
  dst : Nat
  ctx : Dword
  prog : Dword
  asid : Nat
  lay0 : Layout
  lay1 : Option Layout
  m : List Word
  org : List Word
  dir : List Word
  tmin : Word
  tmax : Word
  inv : List Word
  wray : List Word
  ispace : Bool
  buf : List Byte
  nidx : Word
  win : Nat
  lsel : Bool
  cond : BitVec 8
  hit : List Word
  committed : Bool
  pc : BitVec 8
  steps : Nat
  budget : Nat
  stack : List Dword
  depth : Nat
  flags : BitVec 8
  stage : RayStage
  /-- The answer to the driver's fault: end with FAULT (R241). -/
  kill : Bool
  /-- Whether its slot, or its stack, is poisoned engine storage (R282). -/
  bad : Bool
  /-- The virtual pages whose probes it has passed since it took its slot (R116). -/
  vpages : List Nat
  deriving DecidableEq, Repr, Inhabited

/-- A slot of an engine's program store (R223). -/
structure ProgSlot where
  core : Nat
  asid : Nat
  addr : Dword
  words : List Word
  used : Nat
  deriving DecidableEq, Repr, Inhabited

/-- A fragment, or a close of a sequence, on its way to a die or held there (R252, R253). -/
structure Frag where
  id : Nat
  core : Nat
  grid : Nat
  asid : Nat
  merge : Nat
  q : Word
  close : Bool
  pos : Dword
  val : Dword
  /-- The merge record as the OMRG read it. -/
  info : BitVec 512
  /-- Pages and answers awaited, and whether the driver answered trap (R372). -/
  left : Nat
  drop : Bool
  deriving DecidableEq, Repr, Inhabited

/-- A stream at a die's merge unit (R253, R255). -/
structure MergeStream where
  grid : Nat
  asid : Nat
  merge : Nat
  next : Word
  closed : List Word
  held : List Frag
  deriving DecidableEq, Repr, Inhabited

/-- The merge unit of a die: streams it has met and traffic on its way there. -/
structure MergeUnit where
  die : Nat
  streams : List MergeStream
  transit : List Frag
  deriving DecidableEq, Repr, Inhabited

/-! ## Faults, firmware, driver -/

/-- A fault that goes to the driver, parked until it is answered (R263, R264). -/
structure FaultRec where
  id : Nat
  kind : Nat
  acc : Nat
  asid : Nat
  source : Nat
  gid : Nat
  stamp : Dword
  va : Dword
  detail : List Dword
  waiter : Option Waiter
  /-- The grid that owns the faulting work, for the answer end. -/
  grid : Option Nat
  die : Nat
  /-- The lowest thread that met it. -/
  thr : Nat
  /-- The index of its entry once it has been appended. -/
  index : Option Nat
  deriving DecidableEq, Repr, Inhabited

/-- An entry of the firmware event log (R21, R24, R298). -/
structure LogEntry where
  stamp : Dword
  source : Nat
  cause : Nat
  deriving DecidableEq, Repr, Inhabited

/-- The firmware complexes (R298 to R302). -/
structure Firmware where
  active : Nat
  images : List (BitVec 256)
  floor : Nat
  /-- The image that the standby has booted and not yet switched to (R299). -/
  update : Option (BitVec 256)
  beat : Dword
  log : List LogEntry
  adopted : List (Nat × Nat)
  deriving DecidableEq, Repr, Inhabited

/-- The driver register block (R306). -/
structure Regs where
  fqbase : Dword
  fqsize : Dword
  fqtail : Word
  fqhead : Word
  podhbase : Dword
  podhlen : Dword
  cmd : BitVec 512
  /-- The command area as it stood at the write to GO, while the command waits until it can read its operands (R23). -/
  held : Option (BitVec 512)
  cdone : Bool
  cresult : BitVec 24
  cstatus : Byte
  deriving DecidableEq, Repr, Inhabited

/-- The package as the accepted part descriptor enables it (R18 to R23). -/
structure Pkg where
  up : Bool
  dies : List Nat
  /-- Enabled quads in logical order, as 32 × physical die + physical quad. -/
  quads : List Nat
  chans : List Nat
  ports : List Nat
  links : List Nat
  nframes : Nat
  digest : BitVec 256
  time : Dword
  /-- Its position in a pod, and whether its counter agrees with the pod's (R23, R306). -/
  podPos : Option Nat
  podTraffic : Bool
  /-- The home position of each 64 KiB region that the package has used since it joined (R307). -/
  homes : Cells Nat
  /-- The logical numbers of the ports that have failed since the reset (R21, R304). -/
  portsDown : List Nat
  /-- The link for each destination that has one, and the regions of host memory in device bias (R305, R307). -/
  routes : List (Nat × Nat)
  /-- The links that are down, each with the time since when (R307). -/
  linksDown : List (Nat × Dword)
  bias : List Nat
  deriving DecidableEq, Repr, Inhabited

/-- Whose request waits at a resource of the governor (R29): of a group, the instruction of its scalar or lane stream at
an address. -/
inductive Asker where
  | scalar (gid : Nat) (spc : Dword)
  | lane (gid : Nat) (addr : Dword)
  | req (id : Nat)
  | task (core key half : Nat)
  | copy (id : Nat)
  | ray (id : Nat)
  | samp (gid : Nat)
  | page (page : Nat)
  | evict (page : Nat)
  | frag (id : Nat)
  | clean (frame : Bool) (unit : Nat)
  | spill (gid : Nat)
  | stash (grid crew : Nat)
  | add (id : Nat)
  | pod (who pa : Nat)
  | l1 (core line : Nat)
  | sector (page : Nat)
  | device (id : Nat)
  deriving DecidableEq, Repr, Inhabited

/-- A request that waits for a budget: whose it is, its class, and its resources (R29). -/
structure GovWait where
  who : Asker
  cls : Nat
  res : List Nat
  deriving DecidableEq, Repr, Inhabited

/-- The activity governor (R26 to R31, R309). -/
structure Governor where
  /-- Bytes left and bytes given, keyed 8 × resource + class. -/
  left : Cells Nat
  given : Cells Nat
  /-- Requests that wait for a budget, in the order of their arrival (R29). -/
  waiting : List GovWait
  energy : Cells Nat
  stopped : List Nat
  periods : Nat
  /-- Whether the firmware halves the dies' budgets (R309), and how often the access counters were halved (R128). -/
  overLimit : Bool
  halved : Nat
  deriving DecidableEq, Repr, Inhabited

/-- A block of a quad's instruction cache, by its pool line: arrived, or still on its way (R60, R73). -/
structure CodeBlock where
  quad : Nat
  line : Nat
  here : Bool
  deriving DecidableEq, Repr, Inhabited

/-- Memory behind translation: pool bytes, dirty copies, frames, sectors, marks (R122 to R128, R282). -/
structure Mem where
  pool : Cells Byte
  loc : Cells Byte
  llc : Cells Byte
  /-- The values that writes have given each byte so far: what a CDISC may leave there (R328). -/
  past : Cells (List Byte)
  frames : List Frame
  /-- LLC sectors, the one touched last first. -/
  sectors : List Nat
  l1 : List L1Line
  invals : List Inval
  /-- The quads' instruction caches, the block fetched last first. -/
  icache : List CodeBlock
  /-- Pages that a leaf pins: address space, virtual page, pool page (R126). -/
  pinned : List (Nat × Nat × Nat)
  own : Cells Nat
  far : Cells Nat
  farBy : List (Nat × Nat × Nat)
  posted : List Nat
  /-- Regions that have posted a migration request (R305). -/
  asked : List Nat
  /-- Writes of the device itself that wait for a way to another package, the oldest first (R23, R307). -/
  outbox : List (Nat × List Byte)
  /-- Lines that units of the device have read in this step, for their home slices to count as it ends (R125, R128). -/
  touched : List Nat
  poison : List Nat
  quar : List Nat
  deriving DecidableEq, Repr, Inhabited

/-- Translation state (R111 to R116). -/
structure Xlate where
  roots : Cells Nat
  tlb : List Tlb
  firm : List FirmMap
  afflags : Cells Dword
  shoots : List Shoot
  deriving DecidableEq, Repr, Inhabited

/-- Precision-coherence state (R161 to R178). -/
structure Coh where
  objs : List Obj
  subs : List Sub
  msgs : List Msg
  images : List Image
  deriving DecidableEq, Repr, Inhabited

/-- A crew that has been saved (R280): the crew, its groups, its scratchpad allocation with its poisoned words, its
engine, its subscriptions, and the other crew of its pair when it was half of one (R219). -/
structure Saved where
  crew : Crew
  groups : List Group
  spad : Cells Byte
  bad : List Nat
  engine : Option Matrix
  subs : List Sub
  partner : Option Nat
  quad : Nat
  /-- The header's stamp, size and layout version. -/
  stamp : Dword
  size : Nat
  version : Nat
  deriving DecidableEq, Repr, Inhabited

/-- The driver's policy for pre-emption: the drain and the restart threshold, in ticks (R279). -/
structure Policy where
  drain : Nat
  restart : Nat
  deriving DecidableEq, Repr, Inhabited

/-- The state of the package. -/
structure State where
  /-- Whose turn comes next (log 2); `turns` and `draws` count free values (log 6). -/
  agenda : List Turn
  turns : Nat
  draws : Nat
  /-- The group, or the ray, whose instruction the step runs (log 2). -/
  cur : Nat
  curRay : Nat
  /-- The next unused identifier of requests, faults, rays and other records. -/
  nextId : Nat
  nextGid : Nat
  pkg : Pkg
  gov : Governor
  mem : Mem
  reqs : List Req
  xl : Xlate
  coh : Coh
  groups : List Group
  crews : List Crew
  grids : List Grid
  queues : List HostQueue
  /-- By effective priority, the number from which queues of that priority are served in turn (R296). -/
  rr : Cells Nat
  policy : Policy
  saved : List Saved
  adds : List Add
  conts : List Cont
  launches : List Launch
  sbars : List ScopedBar
  compacts : List Compact
  probes : List Probe
  /-- Scratchpads, keyed 2^21 × core + offset; poisoned scratchpad words and register rows. -/
  spad : Cells Byte
  poisonSpad : List (Nat × Nat)
  poisonRows : List (Nat × Nat)
  streams : List Stream
  hints : List Hint
  copies : List Copy
  engines : List (Nat × Matrix)
  rays : List Ray
  progs : List ProgSlot
  merges : List MergeUnit
  jobs : List PageJob
  /-- When each Gleaner's open batch opened. -/
  batches : List (Nat × Dword)
  waits : List PageWait
  faults : List FaultRec
  fw : Firmware
  regs : Regs
  deriving DecidableEq, Repr, Inhabited

/-- The package right after reset (R21, R22): in bring-up, no unit enabled, the counter at 0, no work.
Registers the spec gives no reset value for hold 0, and CSTAT holds done (log 5). -/
def State.reset : State where
  agenda := []
  turns := 0
  draws := 0
  cur := 0
  curRay := 0
  nextId := 1
  nextGid := 0
  pkg := { up := false, dies := [], quads := [], chans := [], ports := [], links := [], nframes := 0, digest := 0,
           time := 0, podPos := none, podTraffic := false, homes := [], portsDown := [], routes := [],
           linksDown := [], bias := [] }
  gov := { left := [], given := [], waiting := [], energy := [], stopped := [], periods := 0, overLimit := false, halved := 0 }
  mem := { pool := [], loc := [], llc := [], past := [], frames := [], sectors := [], l1 := [], invals := [], icache := [], pinned := [], own := [],
           far := [], farBy := [], posted := [], asked := [], outbox := [], touched := [], poison := [], quar := [] }
  reqs := []
  xl := { roots := [], tlb := [], firm := [], afflags := [], shoots := [] }
  coh := { objs := [], subs := [], msgs := [], images := [] }
  groups := []
  crews := []
  grids := []
  queues := []
  rr := []
  policy := { drain := 20000, restart := 10000 }
  saved := []
  adds := []
  conts := []
  launches := []
  sbars := []
  compacts := []
  probes := []
  spad := []
  poisonSpad := []
  poisonRows := []
  streams := []
  hints := []
  copies := []
  engines := []
  rays := []
  progs := []
  merges := []
  jobs := []
  batches := []
  waits := []
  faults := []
  fw := { active := 0, images := [], floor := 0, update := none, beat := 0, log := [], adopted := [] }
  regs := { fqbase := 0, fqsize := 0, fqtail := 0, fqhead := 0, podhbase := 0, podhlen := 0, cmd := 0,
            held := none, cdone := true, cresult := 0, cstatus := 0 }

end Sys2Proof.Machine
end

