-- ==== Sys2Proof/Machine/Find.lean ====
section
/-! DEFINITION. Finding and replacing the records of State: groups, crews, grids, queues and engines. -/

namespace Sys2Proof.Machine

def findGroup (gs : List Group) (gid : Nat) : Option Group := gs.find? fun g => g.gid == gid
def putGroup (gs : List Group) (g : Group) : List Group := gs.map fun x => if x.gid = g.gid then g else x
/-- The group whose instruction the step runs. -/
def curG (s : State) : Option Group := findGroup s.groups s.cur
def setG (s : State) (g : Group) : State := { s with groups := putGroup s.groups g }
def findCrew (s : State) (grid num : Nat) : Option Crew := s.crews.find? fun c => c.grid == grid && c.num == num
def setCrew (s : State) (c : Crew) : State :=
  { s with crews := s.crews.map fun x => if x.grid = c.grid ∧ x.num = c.num then c else x }
def findGrid (s : State) (id : Nat) : Option Grid := s.grids.find? fun r => r.id == id
def setGrid (s : State) (r : Grid) : State := { s with grids := s.grids.map fun x => if x.id = r.id then r else x }
def crewOf (s : State) (g : Group) : Option Crew := findCrew s g.grid g.crew
def gridOf (s : State) (g : Group) : Option Grid := findGrid s g.grid
def findQueue (s : State) (n : Nat) : Option HostQueue := s.queues.find? fun q => q.num == n
def setQueue (s : State) (q : HostQueue) : State := { s with queues := s.queues.map fun x => if x.num = q.num then q else x }
def engineOf (s : State) (core : Nat) : Matrix :=
  ((s.engines.find? fun e => e.1 == core).map Prod.snd).getD default
def setEngine (s : State) (core : Nat) (m : Matrix) : State :=
  { s with engines := (core, m) :: s.engines.filter fun e => e.1 ≠ core }

end Sys2Proof.Machine
end

