-- ==== Sys2Proof/Machine/Mem.lean ====
section
/-! DEFINITION. Named operations over memory behind translation: the home's value of a byte, the coherent
value, recalls, write-backs, the page cache, and the marks of poison (R122 to R127, R282, R304, R305). -/

namespace Sys2Proof.Machine

/-- Read one byte at its home: a dirty LLC line, else a dirty GDDR-7 frame, else the pool (R122). -/
def homeByte (m : Mem) (pa : Nat) : Byte :=
  match m.llc.find pa with
  | some b => b
  | none => match m.loc.find pa with
    | some b => b
    | none => m.pool.get 0 pa

/-- The values that writes have given a byte, with one more (R328). -/
def pastPut (c : Cells (List Byte)) (pa : Nat) (b : Byte) : Cells (List Byte) :=
  let old := (c.find pa).getD []
  if old.contains b then c else c.put pa (b :: old)

/-- Note what a write gives the bytes from an address on. -/
def notePast (m : Mem) (pa : Nat) (bs : List Byte) : Mem :=
  { m with past := bs.zipIdx.foldl (fun c b => pastPut c (pa + b.2) b.1) m.past }

/-- Write one byte at its home slice, where it is dirty until written back (R124, R125). -/
def homePut (m : Mem) (pa : Nat) (b : Byte) : Mem := { m with llc := m.llc.put pa b, past := pastPut m.past pa b }

/-- Write bytes at successive addresses of the home. -/
def homePuts : Mem → Nat → List Byte → Mem
  | m, _, [] => m
  | m, pa, b :: r => homePuts (homePut m pa b) (pa + 1) r

/-- Write one byte of pool or host memory itself. -/
def poolPut (m : Mem) (pa : Nat) (b : Byte) : Mem := { m with pool := m.pool.set 0 pa b }

/-- The dirty byte that an L1 line owned by some core holds (R123). -/
def ownedByte : List L1Line → Nat → Option Byte
  | [], _ => none
  | l :: r, pa =>
    if l.kind = .owned then
      match l.bytes.find pa with
      | some b => some b
      | none => ownedByte r pa
    else ownedByte r pa

/-- The dirty byte that a stash entry of a crew holds in its core's scratchpad (R121). -/
def stashByte (s : State) (pa : Nat) : Option Byte :=
  let hit := s.crews.findSome? fun c => c.stash.findSome? fun e =>
    if e.sfmt = 0 then
      e.filled.findSome? fun f =>
        if f.2 = pa / 64 ∧ e.dirty.contains f.1 then some (c.core, 64 * f.1 + pa % 64) else none
    else none
  hit.map fun x => s.spad.get 0 (2 ^ 21 * x.1 + x.2)

/-- The coherent value of a byte: an owned dirty copy in an L1 or a stash, else the home's (R121 to R123). -/
def cohByte (s : State) (pa : Nat) : Byte :=
  match ownedByte s.mem.l1 pa with
  | some b => b
  | none => match stashByte s pa with
    | some b => b
    | none => homeByte s.mem pa

/-- The coherent value of `n` bytes, as a number. -/
def cohNat (s : State) (pa n : Nat) : Nat := leNat (tab n fun i => cohByte s (pa + i))

/-- Every byte of a cell list written at the home. -/
def mergeHome (m : Mem) (bytes : Cells Byte) : Mem := bytes.foldl (fun m e => homePut m e.1 e.2) m

/-- The pool lines that `n` bytes at an address touch. -/
def linesOf (pa n : Nat) : List Nat :=
  (List.range (n / 64 + 2)).filterMap fun i =>
    if n ≠ 0 ∧ pa / 64 + i ≤ (pa + n - 1) / 64 then some (pa / 64 + i) else none

/-- The device page (4 KiB) that a pool address lies in. -/
def pageOf (pa : Nat) : Nat := pa / 4096

/-- The home slice of a pool page (R125). -/
def homeSlice (s : State) (page : Nat) : Nat :=
  ((page ^^^ (page >>> 9)) ^^^ (page >>> 18)) % max 1 s.pkg.quads.length

/-! ## The pod (R307) -/

/-- The home position of a region of 64 KiB: the byte that the package read at its first use of the region, or would
read now; 0 beyond the pod home table (R307). -/
def podByte (s : State) (region : Nat) : Nat :=
  match s.pkg.homes.find region with
  | some b => b
  | none =>
    if region < s.regs.podhlen.toNat then (cohByte s ((s.regs.podhbase.toNat + region) % 2 ^ 52)).toNat else 0

/-- The pod position that homes a pool line, for a package that has joined a pod; host memory has none (R307). -/
def podHome (s : State) (line : Nat) : Option Nat :=
  if s.pkg.podPos.isNone || (64 * line).testBit 51 then none else some (podByte s (line / 1024))

/-- A package uses a line's region: it keeps the region's home position until its next reset (R307). -/
def useHome (s : State) (line : Nat) : State :=
  match podHome s line, s.pkg.homes.find (line / 1024) with
  | some h, none => { s with pkg := { s.pkg with homes := s.pkg.homes.put (line / 1024) h } }
  | _, _ => s

/-- Whether a line's home is another package, and whether no package of the pod holds that position (R307). -/
def remote (s : State) (line : Nat) : Bool :=
  match podHome s line with
  | none => false
  | some h => some h != s.pkg.podPos
def podLost (s : State) (line : Nat) : Bool :=
  match podHome s line with
  | none => false
  | some h => some h != s.pkg.podPos && (decide (31 < h) || !Config.podHeld h)

/-! ## Resources and budgets -/

/-- Resources of the governor: LLC slices, GDDR-7 channels, and the two directions of each port (R28). -/
def resSlice (q : Nat) : Nat := q
def resChan (c : Nat) : Nat := 4096 + c
def resPort (p dir : Nat) : Nat := 8192 + 2 * p + dir

/-- Traffic classes (R27). -/
def clsDemand : Nat := 0
def clsPrefetch : Nat := 1
def clsMigration : Nat := 2
def clsCleaning : Nat := 3
def clsCopy : Nat := 4
def clsPod : Nat := 5

/-- Bytes left of a class's budget at a resource (R28). -/
def budgetLeft (s : State) (res cls : Nat) : Nat := s.gov.left.get 0 (8 * res + cls)

/-- Charge bytes to a budget. -/
def charge (s : State) (res cls n : Nat) : State :=
  { s with gov := { s.gov with left := s.gov.left.set 0 (8 * res + cls) (budgetLeft s res cls - n) } }

/-- The channel of the frame that holds a page (R126). -/
def chanOf (s : State) (page : Nat) : Option Nat :=
  (s.mem.frames.find? fun f => f.page == page).map fun f => f.num % max 1 s.pkg.chans.length

/-- The ports that are enabled and have not failed, by their logical numbers, which stand until the next package reset (R21,
R304). -/
def livePorts (s : State) : List Nat := (List.range s.pkg.ports.length).filter fun p => !s.pkg.portsDown.contains p

/-- The logical port that a pool address is routed to (R304): of the pool ports that remain, in the order of their numbers,
the one at which f mod their count stands (DESIGN CHOICE, log 54). -/
def portOf (s : State) (pa : Nat) : Nat :=
  match (livePorts s).filter fun p => p ≠ 0 with
  | [] => 0
  | p :: r => if pa.testBit 51 then 0 else (p :: r).getD (pageOf pa % (r.length + 1)) 0

/-- What lies behind a home slice for a line of a page (dir 0 read, 1 written): the channel of its frame, else its port,
and nothing for a page that the firmware maps (R28, R126; log 9). -/
def behindSlice (s : State) (page dir : Nat) : List Nat :=
  match chanOf s page with
  | some c => [resChan c]
  | none => if s.xl.firm.any fun f => f.page == page then [] else [resPort (portOf s (4096 * page)) dir]

/-- The resources that a line request needs: its home slice, and what lies behind it when the sector is not in the LLC
(R28, R125). A request to another package is charged there (R27). -/
def reqResources (s : State) (line : Nat) : List Nat :=
  let page := line / 64
  if remote s line then []
  else resSlice (homeSlice s page) :: (if s.mem.sectors.contains page then [] else behindSlice s page 0)

/-- The resources that the write-back of a line to its home needs (R28). -/
def wbResources (s : State) (line : Nat) : List Nat := if remote s line then [] else [resSlice (homeSlice s (line / 64))]

/-! ## The governor's order of arrival (R26 to R31) -/

/-- Ticks of a governor period (R26), and when the next period begins. -/
def periodTicks : Nat := 4000
def nextPeriod (s : State) : Nat := periodTicks * s.gov.periods

/-- Charge `n` bytes to each of a list of resources, as often as it stands there, if every whole charge fits (R29). From
the tick of a boundary on, nothing is charged until the new period has begun (R31, log 48). -/
def chargeAll (s : State) (cls n : Nat) (rs : List Nat) : Option State :=
  if decide (s.pkg.time.toNat < nextPeriod s) && rs.all fun r => decide (n * rs.count r ≤ budgetLeft s r cls) then
    some (rs.foldl (fun s r => charge s r cls n) s)
  else none

/-- Who asks for an instruction of a group's scalar stream, and for the entry at the head of its lane queue. -/
def scalarWho (g : Group) : Asker := .scalar g.gid g.spc
def laneWho (g : Group) : Asker := .lane g.gid ((g.queue.head?.map (·.addr)).getD 0)

/-- Whether a group that is ready may issue: its crew runs. -/
def standing (s : State) (g : Group) : Bool :=
  !g.ended && g.park == .none && (match crewOf s g with | some c => c.status == .running | none => false)

/-- Whether a unit that waits for a budget still stands there (R29). -/
def asks (s : State) (w : GovWait) : Bool :=
  match w.who with
  | .scalar gid pc => s.groups.any fun x => x.gid == gid && x.spc == pc && standing s x
  | .lane gid pc => s.groups.any fun x => x.gid == gid && standing s x && laneWho x == .lane gid pc
  | .samp g => s.groups.any fun x => x.gid == g && x.samp.any fun m => m.left == 0
  | .spill g => s.groups.any fun x => x.gid == g
  | .stash grid num => (findCrew s grid num).isSome
  | .req id => s.reqs.any fun r => r.id == id && decide (r.stage < 2)
  | .task c k h => s.engines.any fun e => e.1 == c && e.2.window.any fun t =>
      t.key == k && !t.holds.contains h && (if h = 2 then t.stage == .ended else t.stage == .issued)
  | .copy id => s.copies.any fun c => c.id == id && (match c.stage with | .running => true | .queued => true | _ => false)
  | .ray id => s.rays.any fun r => r.id == id && (match r.stage with | .saved _ => false | _ => true)
  | .page p => s.jobs.any fun j => j.page == p
  | .evict p => s.jobs.any fun j => j.page == p
  | .frag id => s.merges.any fun m => m.streams.any fun t => t.held.any fun x => x.id == id
  | .add id => s.adds.any (fun a => a.id == id) || s.conts.any fun c => c.id == id
  | .clean true n => s.mem.frames.any fun f => f.num == n && !f.gone
  | .clean false l => s.mem.llc.any fun e => e.1 / 64 == l
  | .device _ => true
  | .pod _ _ => true
  | .l1 core line => s.mem.l1.any fun l => l.core == core && l.line == line && (l.kind == .owned || l.buffered)
  | .sector p => s.mem.sectors.contains p

/-- The requests that still wait, and those among them that wait ahead of a unit's in its class, at one of its resources
(R29). -/
def waitingNow (s : State) : List GovWait := s.gov.waiting.filter (asks s)
def aheadOf (s : State) (who : Asker) (cls : Nat) (rs : List Nat) : Bool :=
  ((waitingNow s).takeWhile fun w => w.who != who).any fun w => w.cls == cls && w.res.any rs.contains

/-- A request takes its place in the order of arrival, or keeps the one it has. -/
def joinWait (s : State) (w : GovWait) : State :=
  let now := waitingNow s
  let q := if now.any (fun x => x.who == w.who) then now.map fun x => if x.who = w.who then w else x else now ++ [w]
  { s with gov := { s.gov with waiting := q } }

/-- What no longer waits leaves the order of arrival. -/
def leaveWait (s : State) (who : Asker) : State :=
  { s with gov := { s.gov with waiting := s.gov.waiting.filter fun w => w.who ≠ who } }

/-- Charge a request of a unit if its whole charge fits and none of its class waits ahead of it; else it waits (R29). -/
def claim (s : State) (who : Asker) (cls n : Nat) (rs : List Nat) : State × Bool :=
  match (if aheadOf s who cls rs then none else chargeAll s cls n rs) with
  | some t => (leaveWait t who, true)
  | none => (joinWait s { who := who, cls := cls, res := rs }, false)

/-- Traffic of the device that stands in no row of R27: it is demand traffic, charged as it is made. What does not fit takes its
place in the order of arrival and is charged as room comes, and demand traffic behind it waits (R27 to R29; DESIGN CHOICE,
log 48). -/
def owe (s : State) (rs : List Nat) : State :=
  if rs = [] then s else (claim { s with nextId := s.nextId + 1 } (.device s.nextId) clsDemand 64 rs).1

/-- What the device owes is charged, in order, as far as it fits. -/
def payOwed (s : State) : State :=
  (waitingNow s).foldl (fun s w => match w.who with
    | .device _ => (claim s w.who w.cls 64 w.res).1
    | _ => s) s

/-! ## Dirty copies -/

/-- Bytes `[64 l, 64 l + 64)` of a core's scratchpad line, as pairs for pool line `pl` (R121). -/
def stashBytes (s : State) (core sl pl : Nat) : Cells Byte :=
  tab 64 fun i => (64 * pl + i, s.spad.get 0 (2 ^ 21 * core + 64 * sl + i))

/-- Mark a line, or take its mark away (R282). -/
def setMark (m : Mem) (line : Nat) (bad : Bool) : Mem :=
  let rest := m.poison.filter (· ≠ line)
  { m with poison := if bad then line :: rest else rest }

/-- Write a scratchpad line of a stash range home, with the marks of its words (R121, R282). -/
def putStash (s : State) (m : Mem) (core sl pl : Nat) : Mem :=
  setMark (mergeHome m (stashBytes s core sl pl)) pl (s.poisonSpad.any fun p => p.1 == core && p.2 / 16 == sl)

/-- The dirty stash copies of a pool line: core and scratchpad line (R121). -/
def stashDirty (s : State) (pl : Nat) : List (Nat × Nat) :=
  s.crews.flatMap fun c => c.stash.flatMap fun e =>
    e.filled.filterMap fun f => if f.2 = pl ∧ e.dirty.contains f.1 ∧ e.sfmt = 0 then some (c.core, f.1) else none

/-- How many copies of a line are dirty in other holders than one L1 or quad unit: each is written back when the line is
recalled (R124). -/
def dirtyCount (s : State) (keep line : Nat) : Nat :=
  (s.mem.l1.filter fun l => l.line == line && l.kind == .owned && l.core != keep).length + (stashDirty s line).length

/-- The resources that an access of a line at its home needs, with those of the write-backs that it makes (R28, R124). -/
def accessResources (s : State) (keep line : Nat) : List Nat :=
  reqResources s line ++ (List.replicate (dirtyCount s keep line) (wbResources s line)).flatten

/-- Write back the dirty stash copies of a pool line; with `drop`, invalidate every stash copy (R121). -/
def recallStash (s : State) (pl : Nat) (drop : Bool) : State :=
  let mem := (stashDirty s pl).foldl (fun m d => putStash s m d.1 d.2 pl) s.mem
  let clean := fun (e : Stash) =>
    let mine := (e.filled.filter fun f => f.2 = pl).map Prod.fst
    if e.sfmt = 0 then
      { e with dirty := e.dirty.filter fun l => !mine.contains l
               filled := if drop then e.filled.filter fun f => f.2 ≠ pl else e.filled }
    else e
  { s with mem := mem, crews := s.crews.map fun c => { c with stash := c.stash.map clean } }

/-- Write back the owned dirty copies of a line in the L1s, and drop the registered copies that `keep` does
not keep (R123, R124). -/
def recallL1 (m : Mem) (line : Nat) (keep : L1Line → Bool) : Mem :=
  let owned := m.l1.filter fun l => l.line = line ∧ l.kind = .owned
  let m' := owned.foldl (fun m l => mergeHome m l.bytes) m
  { m' with l1 := m.l1.filter fun l => l.line != line || l.kind == .si || (l.kind != .owned && keep l) }

/-- The dirty bytes of a line in the LLC and its frame go to the pool or the host itself. -/
def lineToPool (m : Mem) (line : Nat) : Mem :=
  let mine := fun (c : Cells Byte) => c.filter fun e => e.1 / 64 = line
  let put := fun (m : Mem) (c : Cells Byte) => c.foldl (fun m e => poolPut m e.1 e.2) m
  let m := put (put m (mine m.loc)) (mine m.llc)
  { m with llc := m.llc.filter fun e => e.1 / 64 ≠ line, loc := m.loc.filter fun e => e.1 / 64 ≠ line }

/-- A line whose home is another package is held dirty by no slice of this one (R307). -/
def sendHome (s : State) (line : Nat) : State := if remote s line then { s with mem := lineToPool s.mem line } else s

/-- Recall a line from every owner and registered sharer on the package (R124, R305). -/
def recallLine (s : State) (line : Nat) : State :=
  let s := recallStash s line true
  let m := recallL1 s.mem line fun _ => false
  sendHome { s with mem := { m with invals := m.invals.filter fun i => i.line ≠ line } } line

/-- Write back the owned copies of a line and leave registered copies in place, before a read at the
home. -/
def cleanLine (s : State) (line : Nat) : State :=
  let s := recallStash s line false
  sendHome { s with mem := recallL1 s.mem line fun _ => true } line

/-- Whether a pool page has a frame that is not withdrawn (R126, R266). Pages that the firmware maps are
always resident (log 9). -/
def resident (s : State) (page : Nat) : Bool :=
  s.mem.frames.any (fun f => f.page == page && !f.gone) || s.xl.firm.any (fun f => f.page == page)

/-- Mark a frame dirty and used now (R126, R266). -/
def touchFrame (s : State) (page : Nat) (dirty : Bool) : State :=
  { s with mem := { s.mem with frames := s.mem.frames.map fun f =>
      if f.page = page ∧ !f.gone then { f with dirty := f.dirty || dirty, used := s.pkg.time.toNat } else f } }

/-- Write back the dirty LLC bytes of a page to its frame, or to the pool when it has none (R125, R126). -/
def flushLlc (s : State) (page : Nat) : State :=
  let mine := s.mem.llc.filter fun e => pageOf e.1 = page
  let m := { s.mem with llc := s.mem.llc.filter fun e => pageOf e.1 ≠ page }
  if s.mem.frames.any (fun f => f.page == page) then
    { s with mem := { m with
        loc := mine.foldl (fun c e => c.put e.1 e.2) m.loc
        frames := m.frames.map fun f => if f.page = page ∧ mine ≠ [] then { f with dirty := true } else f } }
  else { s with mem := mine.foldl (fun m e => poolPut m e.1 e.2) m }

/-- Write back the dirty frame bytes of a page to the pool (R126). -/
def flushFrame (s : State) (page : Nat) : State :=
  let mine := s.mem.loc.filter fun e => pageOf e.1 = page
  let m := { s.mem with loc := s.mem.loc.filter fun e => pageOf e.1 ≠ page }
  { s with mem := { (mine.foldl (fun m e => poolPut m e.1 e.2) m) with
      frames := s.mem.frames.map fun f => if f.page = page then { f with dirty := false } else f } }

/-- Recall every line of a page from every holder (R266, R305). -/
def recallPage (s : State) (page : Nat) : State :=
  (List.range 64).foldl (fun s i => recallLine s (64 * page + i)) s

/-! ## Sectors of the LLC (R125) -/

/-- Sectors of 4 KiB that a slice of 32 MiB holds (R122). -/
def sliceSectors : Nat := 8192

/-- Whether a stream descriptor prefetches into the L1, into the LLC, or as hints: its lvl field (R129). -/
def sdLvl (d : BitVec 256) : Nat := (d.extractLsb' 34 2).toNat

/-- A line that leaves a cache counts as useless for a stream that fetched it and has not used it (R130). -/
def streamLoses (line : Nat) (p : Stream → Bool) (t : Stream) : Stream :=
  if p t && t.arrived.contains line && !t.used.contains line then
    { t with used := line :: t.used, useless := min (2 ^ 32 - 1) (t.useless + 1) }
  else t

/-- The streams lose the lines of a sector that leaves the LLC. -/
def sectorLoses (s : State) (page : Nat) : State :=
  { s with streams := s.streams.map fun t =>
      (List.range 64).foldl (fun t k => streamLoses (64 * page + k) (fun t => sdLvl t.desc == 1) t) t }

/-- The LLC evicts a sector: its cached copies are recalled and its dirty lines written back (R125). -/
def evictSector (s : State) (page : Nat) : State :=
  let s := sectorLoses (flushLlc (recallPage s page) page) page
  { s with mem := { s.mem with sectors := s.mem.sectors.filter fun p => p ≠ page } }

/-- Whether a page's slice has room for one more sector (R122). -/
def sectorFits (s : State) (page : Nat) : Bool :=
  s.mem.sectors.contains page || decide ((s.mem.sectors.filter fun p => homeSlice s p == homeSlice s page).length < sliceSectors)

/-- Room for one more sector in a page's slice. A charged access waits until a turn has made room (R133); a write of the
device that nothing charges takes the place of a sector of the device's choice (DESIGN CHOICE, log 44). -/
def sectorRoom (s : State) (page : Nat) : State :=
  let mine := s.mem.sectors.filter fun p => homeSlice s p == homeSlice s page
  if mine.length < sliceSectors then s
  else evictSector { s with draws := s.draws + 1 } (mine.getD ((Config.freeWord s.draws).toNat % max 1 mine.length) 0)

/-- An access of a line's home: its sector is allocated on its first miss, and is now the one touched last (R125). -/
def touchSector (s : State) (line : Nat) : State :=
  let page := line / 64
  if s.mem.sectors.head? = some page ∨ remote s line then s
  else if s.mem.sectors.contains page then
    { s with mem := { s.mem with sectors := page :: s.mem.sectors.filter fun p => p ≠ page } }
  else
    let s := sectorRoom s page
    touchFrame { s with mem := { s.mem with sectors := page :: s.mem.sectors } } page false

/-! ## Accesses at the home slice (R125, R128, R307) -/

/-- A region posts no further migration request until its far counter has fallen to own or below (R128). -/
def settlePosted (m : Mem) : Mem :=
  { m with posted := m.posted.filter fun k => decide (m.own.get 0 k < m.far.get 0 k) }

/-- Count an access by the region's home package (R128). -/
def countOwn (s : State) (line : Nat) : State :=
  let k := line / 1024
  if remote s line then s
  else { s with mem := settlePosted { s.mem with own := s.mem.own.set 0 k (min 255 (s.mem.own.get 0 k + 1)) } }

/-- An access of a line reaches its home slice, which counts it (R125, R128, R307). -/
def atSlice (s : State) (line : Nat) : State := countOwn (touchSector (useHome s line) line) line

/-- An access of a line by a unit of the device that stands in no row of R27: its home slice counts it, and it is charged as
demand traffic (R27, R128; log 48). -/
def deviceAt (s : State) (line : Nat) : State := atSlice (owe s (reqResources s line)) line

/-- A unit of the device reads lines, by no request of a core: page tables, code, packets, descriptors. Their home slices
count the accesses as the step ends, and they are charged then (R125, R128). -/
def noteReads (s : State) (lines : List Nat) : State := { s with mem := { s.mem with touched := s.mem.touched ++ lines } }
def countReads (s : State) : State :=
  if s.mem.touched = [] then s else s.mem.touched.foldl deviceAt { s with mem := { s.mem with touched := [] } }

/-- Whether every home of a list of lines can be reached: no pod traffic is sent until the counter agrees with the
pod's (R23). An access that is answered as poison, since no package holds its home's position, is not sent (R307). -/
def inReach (s : State) (lines : List Nat) : Bool := s.pkg.podTraffic || lines.all fun l => !remote s l || podLost s l

/-- The link over which traffic for a destination goes, once it has one (R307). -/
def routeOf (s : State) (dest : Nat) : Option Nat := (s.pkg.routes.find? fun r => r.1 == dest).map Prod.snd

/-- Since when a link has been down, and whether the traffic to a line's home has a link, which is up (R307, log 10). -/
def downSince (s : State) (link : Nat) : Option Nat := (s.pkg.linksDown.find? fun d => d.1 == link).map fun d => d.2.toNat
def linked (s : State) (line : Nat) : Bool :=
  !remote s line || podLost s line || (match (podHome s line).bind (routeOf s) with
    | none => false
    | some l => (downSince s l).isNone)

/-- Whether the homes of some lines can be reached now, over links where they are remote (R23, R307). -/
def reachable (s : State) (lines : List Nat) : Bool := inReach s lines && lines.all (linked s)

/-- Whether new traffic to some lines can be sent: their homes are reached over links, and their slices have room (R23,
R122, R133, R307). -/
def sendable (s : State) (lines : List Nat) : Bool :=
  reachable s lines && lines.all fun l => remote s l || sectorFits s (l / 64)

/-! ## Writes at the home -/

/-- The writer of bytes: the group it works for (or another agent's number), the core of a lane or scalar stream,
whether the invalidations of other cores' copies may arrive later than the write (R124, log 47), what waits for what the
write sends (R141, R169), and the address space and virtual address by which it names the bytes, where it has one. -/
structure Writer where
  gid : Nat
  core : Nat
  late : Bool
  cov : Cover
  via : Option (Nat × Nat)
  deriving DecidableEq, Repr, Inhabited

/-- The group number of an entry that has none (R264), and of a writer that is no group; the core of a writer that
is no lane or scalar stream. -/
def noGid : Nat := 0xFFFFFFFF
def noCore : Nat := 2 ^ 20

/-- A device unit as a writer: invalidations have arrived when its write is done. -/
def device (gid : Nat) : Writer := { gid := gid, core := noCore, late := false, cov := default, via := none }

/-- A unit as a writer for a grid: what its write sends is the grid's (R194). -/
def worker (gid grid : Nat) : Writer :=
  { device gid with cov := { accs := [{ gid := gid, grid := grid, scalar := true, mask := 0, id := 0, ok := 0, scope := .pkg }]
                             cores := [], gids := [], fenced := [] } }

/-- Two covers at once. -/
def Cover.join (a b : Cover) : Cover :=
  { accs := a.accs ++ b.accs.filter fun x => !a.accs.contains x
    cores := a.cores ++ b.cores.filter fun x => !a.cores.contains x
    gids := a.gids ++ b.gids.filter fun x => !a.gids.contains x
    fenced := a.fenced ++ b.fenced.filter fun x => !a.fenced.contains x }

/-- The registered copies that other cores hold of a line become stale, each until its invalidation arrives; owned
dirty copies are recalled (R124). The writer's own core keeps its registered copy (R123). -/
def recallLate (s : State) (w : Writer) (line : Nat) : State :=
  let s := recallStash s line true
  let bytes := tab 64 fun i => (64 * line + i, cohByte s (64 * line + i))
  let sharers := s.mem.l1.filter fun l => l.line = line ∧ l.kind = .shared ∧ l.core ≠ w.core
  let m := recallL1 s.mem line fun l => l.kind == .shared || l.core != w.core
  let age := fun (l : L1Line) => if sharers.contains l then { l with kind := .stale, bytes := bytes } else l
  let more := fun (i : Inval) => if i.line = line then { i with cov := i.cov.join w.cov } else i
  let fresh := sharers.zipIdx.map fun x => ({ id := s.nextId + x.2, core := x.1.core, line := line, cov := w.cov } : Inval)
  { s with
    nextId := s.nextId + fresh.length
    mem := { m with l1 := m.l1.map age
                    invals := (m.invals.filter fun i => !(i.line == line && i.core == w.core)).map more ++ fresh } }

/-- The same, with every invalidation delivered at once. -/
def recallNow (s : State) (w : Writer) (line : Nat) : State :=
  let s := recallStash s line true
  let m := recallL1 s.mem line fun l => l.kind == .shared && l.core == w.core
  { s with mem := { m with invals := m.invals.filter fun i => i.line ≠ line } }

/-- A line's other copies before a write (R124). -/
def recallBy (s : State) (w : Writer) (line : Nat) : State := if w.late then recallLate s w line else recallNow s w line

/-- Write bytes at the home after recalling their lines from other holders, by the byte mask (R124, R125). -/
def homeStore (s : State) (w : Writer) (pa : Nat) (bs : List Byte) : State :=
  let s := (linesOf pa bs.length).foldl (fun s l => recallBy (touchSector s l) w l) s
  sendHome { s with mem := homePuts s.mem pa bs } (pa / 64)

/-- The cores that a message still goes to (R168). -/
def Msg.targets (m : Msg) : List Nat := m.cores.getD (tab 4 fun k => 4 * m.quad + k)

/-- Whether a message is about a line: of the pool, or of the virtual addresses of an address space, which a move of the page
leaves as they are (R168, R177). -/
def Msg.names (m : Msg) (asid vline : Nat) : Bool := m.asid == asid && m.elems.any fun c => c.va / 64 == vline
def Msg.about (m : Msg) (line asid vline : Nat) : Bool := m.line == line || m.names asid vline

/-- Whether a message of a core's own write of a line is on its way (R170). -/
def ownMsg (s : State) (core line asid vline : Nat) : Bool := s.coh.msgs.any fun m => m.core == core && m.about line asid vline

/-- The messages and invalidations on their way, each with the cores that it goes to. -/
def underway (s : State) : List (Cover × List Nat) :=
  s.mem.invals.map (fun i => (i.cov, [i.core])) ++ s.coh.msgs.map fun m => (m.cov, m.targets)

/-- Recall a line from every copy on the package, the unregistered ones included, and write its dirty data back to the
pool or the host (R305). A subscribing stash line of it is discarded. -/
def recallCopies (s : State) (line : Nat) : State :=
  let s := recallLine s line
  let m := lineToPool { s.mem with l1 := s.mem.l1.filter fun l => l.line ≠ line ∨ l.buffered } line
  let strip := fun (e : Stash) => { e with filled := e.filled.filter fun f => f.2 ≠ line }
  { s with mem := m, crews := s.crews.map fun c => { c with stash := c.stash.map strip } }

/-- An invalidation arrives (R124). -/
def invalArrives (s : State) (id : Nat) : State :=
  match s.mem.invals.find? fun i => i.id == id with
  | none => s
  | some i =>
    { s with mem := { s.mem with
        l1 := s.mem.l1.filter fun l => !(l.core == i.core && l.line == i.line && l.kind == .stale)
        invals := s.mem.invals.filter fun x => x.id ≠ id } }

/-! ## Poison (R282) -/

/-- Whether any line that bytes `[pa, pa + n)` touch is poisoned, or is answered as poison (R282, R307). -/
def poisoned (s : State) (pa n : Nat) : Bool :=
  (linesOf pa n).any fun l => s.mem.poison.contains l || podLost s l

/-- Mark a pool line as poison (R282). -/
def markPoison (s : State) (line : Nat) : State :=
  { s with mem := { s.mem with poison := if s.mem.poison.contains line then s.mem.poison else line :: s.mem.poison } }

/-- Carry the mark with copied data: the destination of poisoned data is poisoned (R282); a line written
over whole with clean data is clean again. -/
def carryPoison (s : State) (src : Option (Nat × Nat)) (dst n : Nat) : State :=
  match src with
  | some (a, k) => if poisoned s a k then markPoison s (dst / 64) else s
  | none =>
    if dst % 64 = 0 ∧ n = 64 then { s with mem := { s.mem with poison := s.mem.poison.filter fun l => l ≠ dst / 64 } }
    else s

/-! ## Places -/

/-- The logical die of a logical quad (R18). -/
def dieOfQuad (s : State) (q : Nat) : Nat :=
  (s.pkg.dies.idxOf (s.pkg.quads.getD q 0 / 32))

/-- The die of the home slice of a pool address. -/
def homeDie (s : State) (pa : Nat) : Nat := dieOfQuad s (homeSlice s (pageOf pa))

/-- The logical quad and die of a logical core (R18). -/
def quadOf (core : Nat) : Nat := core / 4
def dieOf (s : State) (core : Nat) : Nat := dieOfQuad s (quadOf core)

/-- Bytes of a core's scratchpad (R117). -/
def spadByte (s : State) (core off : Nat) : Byte := s.spad.get 0 (2 ^ 21 * core + off)
def spadNat (s : State) (core off n : Nat) : Nat := leNat (tab n fun i => spadByte s core (off + i))
def spadPuts : Cells Byte → Nat → List Byte → Cells Byte
  | c, _, [] => c
  | c, k, b :: r => spadPuts (c.set 0 k b) (k + 1) r
def spadWrite (s : State) (core off : Nat) (bs : List Byte) : State :=
  { s with spad := spadPuts s.spad (2 ^ 21 * core + off) bs }

end Sys2Proof.Machine
end

