-- ==== Sys2Proof/Machine/Xlate.lean ====
section
/-! DEFINITION. Translation: the five-level walk, the translation caches, the pages that the firmware maps,
and the checks of the probe on one page (R111 to R116, R261). -/

namespace Sys2Proof.Machine

/-- What an access needs of its leaf (R115). -/
structure Need where
  rd : Bool := false
  w : Bool := false
  x : Bool := false
  suba : Bool := false
  deriving DecidableEq, Repr, Inhabited

/-- The `acc` byte of a fault-queue entry for an access (R264). -/
def Need.acc (n : Need) : Nat :=
  (if n.rd then 1 else 0) + (if n.w then 2 else 0) + (if n.x then 4 else 0) +
  (if n.rd && n.w then 8 else 0) + (if n.suba then 16 else 0)

def needLoad : Need := { rd := true }
def needStore : Need := { w := true }
def needAtomic : Need := { rd := true, w := true }
def needFetch : Need := { x := true }
def needSub : Need := { rd := true, suba := true }

/-- What a walk finds: a failed entry with its level, or a leaf with its level. -/
inductive Leaf where
  | bad (level : Nat) (entry : Nat)
  | leaf (level : Nat) (pte : Nat)
  deriving DecidableEq, Repr, Inhabited

/-- Fields of a table entry (R113). -/
def pteV (e : Nat) : Bool := e.testBit 0
def pteRd (e : Nat) : Bool := e.testBit 1
def pteW (e : Nat) : Bool := e.testBit 2
def pteX (e : Nat) : Bool := e.testBit 3
def pteL (e : Nat) : Bool := e.testBit 4
def pteFrame (e : Nat) : Nat := nbits e 12 40 * 4096
def pteC64 (e : Nat) : Bool := e.testBit 57
def pteOk (e : Nat) : Nat := nbits e 58 2
def pteDsc (e : Nat) : Bool := e.testBit 60
def pteSuba (e : Nat) : Bool := e.testBit 61
def ptePin (e : Nat) : Bool := e.testBit 62
def ptePq (e : Nat) : Bool := e.testBit 63

/-- The ordering kinds of a page (R113). -/
def kindSo : Nat := 0
def kindRc : Nat := 1
def kindUo : Nat := 2

/-- The size of the page that a leaf maps (R112, R114). -/
def leafSize (level e : Nat) : Nat := if level = 0 ∧ pteC64 e then 65536 else 4096 * 512 ^ level

/-- Whether a valid entry is malformed at its level (R112, R113). -/
def malformed (level e : Nat) : Bool :=
  let leaf := pteL e
  decide (nbits e 52 5 ≠ 0) || (pteC64 e && !(leaf && level == 0)) ||
  (if leaf then decide (2 < level) || pteOk e == 3 || decide (pteFrame e % leafSize level e ≠ 0)
   else level == 0)

/-- Index into the table of a level (R112). -/
def tableIndex (va level : Nat) : Nat := nbits va (12 + 9 * level) 9

/-- Read a table entry from coherent memory. -/
def readEntry (s : State) (table idx : Nat) : Nat := cohNat s (table + 8 * idx) 8

/-- A level-0 entry, or the first of its 16 where the two disagree on a 64 KiB page (R114). -/
def entry0 (s : State) (table va : Nat) : Nat :=
  let i := tableIndex va 0
  let own := readEntry s table i
  let head := readEntry s table (i - i % 16)
  if (pteC64 own || pteC64 head) && own != head && Config.freeBool s.draws then head else own

/-- Walk the tables from a level down (R112). -/
def walkFrom (s : State) (va : Nat) : Nat → Nat → Leaf
  | 0, table =>
    let e := entry0 s table va
    if pteV e ∧ !malformed 0 e then .leaf 0 e else .bad 0 e
  | l + 1, table =>
    let e := readEntry s table (tableIndex va (l + 1))
    if !pteV e || malformed (l + 1) e then .bad (l + 1) e
    else if pteL e then .leaf (l + 1) e
    else walkFrom s va l (pteFrame e)

/-- The page that the firmware maps at a virtual page, if any (R153, R268). -/
def firmFind (s : State) (asid va : Nat) : Option FirmMap :=
  s.xl.firm.find? fun f => f.asid = asid ∧ f.vpage = va / 4096

/-- The leaf that a firmware mapping acts as: valid, rc (log 9). -/
def firmPte (f : FirmMap) : Nat :=
  2 ^ 58 + f.page * 4096 + 16 + (if f.write then 4 else 0) + (if f.read then 2 else 0) + 1

/-- A cached translation of a virtual page (R116). -/
def tlbFind (s : State) (asid va : Nat) : Option Tlb :=
  s.xl.tlb.find? fun t => t.asid = asid ∧ t.vpage = va / 4096

/-- The leaf that the tables give an address (R112). -/
def walkOf (s : State) (asid va : Nat) : Leaf :=
  match s.xl.roots.find asid with
  | some root => walkFrom s va 4 root
  | none => .bad 5 0

/-- The leaf of an address: a firmware mapping, a cached translation, or the tables (R111, R112). An address
with bits [63:57], or an address space with no root, has no entry: level 5 and entry 0 (R264). -/
def leafOf (s : State) (asid va : Nat) : Leaf :=
  if 2 ^ 57 ≤ va then .bad 5 0
  else match firmFind s asid va with
    | some f => .leaf 0 (firmPte f)
    | none => match tlbFind s asid va with
      | some t => .leaf t.level t.pte.toNat
      | none => walkOf s asid va

/-- The pool address that a leaf gives a virtual address (R112, R114). -/
def leafPa (va level e : Nat) : Nat := pteFrame e + va % leafSize level e

/-- The kind of the page of an address (R139). -/
def kindAt (s : State) (asid va : Nat) : Nat :=
  match leafOf s asid va with
  | .leaf _ e => pteOk e
  | .bad _ _ => kindRc

/-- The lines of the table entries that a walk reads from a level down (R112, R114). -/
def walkLines (s : State) (va : Nat) : Nat → Nat → List Nat
  | 0, table =>
    let i := tableIndex va 0
    [(table + 8 * i) / 64, (table + 8 * (i - i % 16)) / 64].eraseDups
  | l + 1, table =>
    let e := readEntry s table (tableIndex va (l + 1))
    let line := (table + 8 * tableIndex va (l + 1)) / 64
    if !pteV e || malformed (l + 1) e || pteL e then [line] else line :: walkLines s va l (pteFrame e)

/-- Whether an address can be translated now: by a cached translation or a mapping of the firmware, or by tables whose entries
can be reached (R23, R307). -/
def walkOpen (s : State) (asid va : Nat) : Bool :=
  s.pkg.podPos.isNone || decide (2 ^ 57 ≤ va) || (firmFind s asid va).isSome || (tlbFind s asid va).isSome ||
  (match s.xl.roots.find asid with
   | some root => reachable s (walkLines s va 4 root)
   | none => true)

/-- The walk for an address that no cached translation and no page of the firmware answers reads its entries (R112, R125). -/
def walked (s : State) (asid va : Nat) : State :=
  if decide (2 ^ 57 ≤ va) || (firmFind s asid va).isSome || (tlbFind s asid va).isSome then s
  else match s.xl.roots.find asid with
    | some root => noteReads s (walkLines s va 4 root)
    | none => s

/-- Keep a translation that a walk found (R116). The entries of a 64 KiB page that disagree are chosen by the draw that stands
(R114). -/
def keepXlate (s : State) (asid va : Nat) : State :=
  if (firmFind s asid va).isSome || (tlbFind s asid va).isSome then s
  else match leafOf s asid va with
    | .bad _ _ => s
    | .leaf l e =>
      let t : Tlb := { asid := asid, vpage := va / 4096, pte := dw e, level := l, page := pageOf (leafPa va l e) }
      let s := walked s asid va
      { s with xl := { s.xl with tlb := t :: s.xl.tlb } }

/-- Keep the translations of one access: all of them by one draw. -/
def learnEach (s : State) (asid : Nat) (vas : List Nat) : State :=
  if vas = [] then s
  else
    let t := vas.foldl (fun s va => keepXlate s asid va) s
    { t with draws := s.draws + 1 }
def learn (s : State) (asid va : Nat) : State := learnEach s asid [va]

/-- Whether the cached translation of a page is not what the tables say now. -/
def staleTlb (s : State) (asid va : Nat) : Bool :=
  match tlbFind s asid va with
  | some t => walkOf s asid va != .leaf t.level t.pte.toNat
  | none => false

/-- The probe of one instruction uses the old translation for all its pages or the new one for all: where some page of it
has an old cached translation and another has not, the old ones are dropped (R116). -/
def oneXlate (s : State) (asid : Nat) (vas : List Nat) : State :=
  match (vas.map (· / 4096)).eraseDups with
  | [] => s
  | [_] => s
  | ps =>
    let old := ps.filter fun p => staleTlb s asid (4096 * p)
    if old.length = ps.length then s
    else old.foldl (fun s p =>
      { s with xl := { s.xl with tlb := s.xl.tlb.filter fun t => !(t.asid == asid && t.vpage == p) } }) s

/-- What the probe finds at one address (R261, after alignment). -/
inductive Hit where
  /-- Every check passes: the pool address and the leaf. -/
  | ok (pa : Nat) (pte : Nat)
  /-- A translation fault: level and entry (R264). -/
  | xlate (level entry : Nat)
  /-- A protection fault: the leaf. -/
  | prot (pte : Nat)
  /-- A device-only part of a replay area (R268). -/
  | devOnly
  /-- A quarantined page: consumption of poison (R282, R285). -/
  | quar (pa : Nat)
  /-- A page that is not resident (R126). -/
  | absent (pa : Nat)
  /-- An entry of the tables cannot be reached yet: the access waits (R23, R307). -/
  | far
  deriving DecidableEq, Repr, Inhabited

/-- Whether a leaf grants what an access needs (R115). -/
def grants (n : Need) (e : Nat) : Bool :=
  (!n.rd || pteRd e) && (!n.w || pteW e) && (!n.x || pteX e) && (!n.suba || pteSuba e)

/-- Probe one address: translation, permissions, quarantine, residency, in this order (R261). -/
def look (s : State) (asid va : Nat) (n : Need) : Hit :=
  if !walkOpen s asid va then .far else
  match leafOf s asid va with
  | .bad l e => .xlate l e
  | .leaf l e =>
    let pa := leafPa va l e
    if !grants n e then
      (match firmFind s asid va with
       | some f => if !f.read && !f.write then .devOnly else .prot e
       | none => .prot e)
    else if ptePq e || s.mem.quar.contains (pageOf pa) then .quar pa
    else if resident s (pageOf pa) then .ok pa e
    else .absent pa

/-- Probe as a Gleaner hint or a prefetch does: the pool address when translation and permission pass. -/
def lookPage (s : State) (asid va : Nat) (n : Need) : Option Nat :=
  match look s asid va n with
  | .ok pa _ => some pa
  | .absent pa => some pa
  | _ => none

/-- The pool address of a page that the firmware maps, with the offset (R268, R153). -/
def firmPa (s : State) (asid va : Nat) : Nat :=
  match firmFind s asid va with
  | some f => f.page * 4096 + va % 4096
  | none => 0

/-- Drop a cached translation (R116). -/
def tlbDrop (s : State) (asid vpage : Nat) : State :=
  { s with xl := { s.xl with tlb := s.xl.tlb.filter fun t => !(t.asid == asid && t.vpage == vpage) } }

end Sys2Proof.Machine
end

