-- ==== Sys2Proof/Machine/Coherence.lean ====
section
/-! DEFINITION. Precision-scoped coherence: tile objects, subscriptions, sharer entries, the comparison at
the home, the messages and the images (R161 to R178). -/

namespace Sys2Proof.Machine

/-- Bytes of an element of a home format (R162). -/
def hfmtSize (hfmt : Nat) : Nat := if hfmt = 4 then 4 else 2

/-- The encoding of an element at a subscribed format: enc(f, dec(hfmt, bits)) (R168). -/
def image (f hfmt bits : Nat) : Nat :=
  enc ((fmtCode f).getD .f32) (dec ((fmtCode hfmt).getD .f32) bits)

/-- The home-format pattern of an image: dec(f, image), written exactly (R170). -/
def imageHome (f hfmt bits : Nat) : Nat :=
  enc ((fmtCode hfmt).getD .f32) (dec ((fmtCode f).getD .f32) bits)

/-- Whether a home format admits a subscribed format (R165). -/
def admits (hfmt f : Nat) : Bool :=
  match hfmt with
  | 4 => [4, 7, 6, 12, 13, 14].contains f
  | 7 => [4, 7, 12, 13, 14].contains f
  | 6 => [4, 6, 12, 13, 14].contains f
  | _ => false

/-- The live object of a slot (R161). -/
def findObj (s : State) (asid num : Nat) : Option Obj := s.coh.objs.find? fun o => o.asid = asid ∧ o.num = num

/-- The element of an object that a virtual address lies in, by the address of its first byte (R162). -/
def objElem (o : Obj) (va : Nat) : Option Nat :=
  let h := hfmtSize o.hfmt
  let k := (va - o.base) % o.pitch
  if o.base ≤ va ∧ (va - o.base) / o.pitch < o.rows ∧ k / h < o.cols then some (va - k % h) else none

/-- The object of an address space that has an element at an address. -/
def objAt (s : State) (asid va : Nat) : Option (Obj × Nat) :=
  s.coh.objs.findSome? fun o => if o.asid = asid then (objElem o va).map fun e => (o, e) else none

/-- The subscription that a core's L1 holds to an object (R166). -/
def l1Sub (s : State) (core asid obj : Nat) : Option Sub :=
  s.coh.subs.find? fun b => b.core = core ∧ b.asid = asid ∧ b.obj = obj ∧ b.stash.isNone

/-- The format that an entry over a list of formats carries: none, the common one, or mixed, which means the
home format (R167). -/
def entryFmt (hfmt : Nat) (fmts : List Nat) : Option Nat :=
  match fmts with
  | [] => none
  | f :: r => if r.all (· == f) then some f else some hfmt

/-- The subscriptions below a quad, and below a core (R167). -/
def quadSubs (s : State) (asid obj quad : Nat) : List Sub :=
  s.coh.subs.filter fun b => b.asid = asid ∧ b.obj = obj ∧ b.core / 4 = quad
def coreSubs (s : State) (asid obj core : Nat) : List Sub :=
  s.coh.subs.filter fun b => b.asid = asid ∧ b.obj = obj ∧ b.core = core

/-- Whether an element's encoding changes at a format (R168). -/
def changes (f hfmt : Nat) (c : ElemChange) : Bool := image f hfmt c.new != image f hfmt c.old

/-- The elements of live objects that `n` bytes at a virtual address touch, by first address, ascending. -/
def elemsTouched (s : State) (asid va n : Nat) : List (Obj × Nat) :=
  ((List.range n).filterMap fun i => objAt s asid (va + i)).eraseDups

/-! ## Elements by pool address (R168, R111) -/

/-- Bytes of a row of elements. -/
def rowBytes (o : Obj) : Nat := o.cols * hfmtSize o.hfmt

/-- Whether a range of addresses meets a row of an object. -/
def rangeHits (o : Obj) (lo hi : Nat) : Bool :=
  -- the first row that ends above lo
  let j := if lo < o.base + rowBytes o then 0 else (lo - o.base - rowBytes o) / o.pitch + 1
  decide (j < o.rows) && decide (o.base + j * o.pitch < hi)

/-- The virtual pages that an object's elements span. -/
def objVpages (o : Obj) : List Nat :=
  let last := (o.base + (o.rows - 1) * o.pitch + rowBytes o - 1) / 4096
  ((List.range (last + 1 - o.base / 4096)).map (o.base / 4096 + ·)).filter fun p => rangeHits o (4096 * p) (4096 * p + 4096)

/-- The virtual pages of an object that translate to a pool page. -/
def objVpagesAt (s : State) (o : Obj) (page : Nat) : List Nat :=
  (objVpages o).filter fun p =>
    match leafOf s o.asid (4096 * p) with
    | .leaf l e => pageOf (leafPa (4096 * p) l e) == page
    | .bad _ _ => false

/-- The elements of live objects that bytes of one pool line hold, by first address, ascending for each object: of every
address space that maps the line (R111, R168). -/
def elemsAt (s : State) (pa n : Nat) : List (Obj × Nat) :=
  s.coh.objs.flatMap fun o => (objVpagesAt s o (pageOf pa)).flatMap fun p =>
    ((List.range n).filterMap fun i => (objElem o (4096 * p + (pa + i) % 4096)).map fun e => (o, e)).eraseDups

/-- Messages of one write: one for each quad with a listed element (R168). -/
def messagesOf (s : State) (w : Writer) (line : Nat) (o : Obj) (cs : List ElemChange) (id : Nat) : List Msg :=
  ((s.coh.subs.filter fun b => b.asid = o.asid ∧ b.obj = o.num).map fun b => b.core / 4).eraseDups.zipIdx.filterMap
    fun qi =>
      let subs := quadSubs s o.asid o.num qi.1
      match entryFmt o.hfmt (subs.map (·.fmt)) with
      | none => none
      | some f =>
        match cs.filter (changes f o.hfmt) with
        | [] => none
        | l => some { id := id + qi.2, gid := w.gid, core := w.core, quad := qi.1, asid := o.asid, obj := o.num
                      line := line, update := subs.any (·.update), elems := l, cores := none, cov := w.cov }

/-- The bits of an element, read from the coherent bytes at its pool address. -/
def elemBits (s : State) (o : Obj) (pa : Nat) : Nat := cohNat s pa (hfmtSize o.hfmt)

/-- The elements that bytes of one line hold: those that its address spaces map there now, and those that the writer's
own virtual address names, whose translation may be the one from before a move (R111, R168, R177). -/
def elemsOf (s : State) (via : Option (Nat × Nat)) (pa n : Nat) : List (Obj × Nat) :=
  match via with
  | none => elemsAt s pa n
  | some v => (elemsAt s pa n ++ elemsTouched s v.1 v.2 n).eraseDups

/-- Write bytes of one line at the home and compare the elements of live objects that they touch, one message for each
quad with an element whose encoding changed (R124, R168, R176). -/
def writeLine (s : State) (w : Writer) (pa : Nat) (bs : List Byte) : State :=
  let s1 := homeStore s w pa bs
  match elemsOf s w.via pa bs.length with
  | [] => s1
  | es =>
    let at' := fun (e : Nat) => 4096 * pageOf pa + e % 4096
    let change := fun (x : Obj × Nat) =>
      { va := x.2, pa := at' x.2, old := elemBits s x.1 (at' x.2), new := elemBits s1 x.1 (at' x.2) : ElemChange }
    let byObj := (es.map Prod.fst).eraseDups
    byObj.foldl (fun s1 o =>
      let cs := (es.filter fun x => x.1 = o).map change
      let ms := messagesOf s1 w (pa / 64) o cs s1.nextId
      { s1 with nextId := s1.nextId + ms.length + 512, coh := { s1.coh with msgs := s1.coh.msgs ++ ms } }) s1

/-- Write bytes at the home, one line at a time in ascending order. -/
def writeLines (s : State) (w : Writer) (pa : Nat) : List Byte → Nat → State
  | [], _ => s
  | _, 0 => s
  | bs, fuel + 1 =>
    let n := 64 - pa % 64
    let next := { w with via := w.via.map fun v => (v.1, v.2 + n) }
    writeLines (writeLine s w pa (bs.take n)) next (pa + n) (bs.drop n) fuel

/-- Write bytes at the home (R124, R168). -/
def writeBy (s : State) (w : Writer) (pa : Nat) (bs : List Byte) : State := writeLines s w pa bs (bs.length / 64 + 2)

/-- A device unit that works for no group writes bytes at the home. -/
def homeWrite (s : State) (pa : Nat) (bs : List Byte) : State := writeBy s (device noGid) pa bs

/-- The same, counted at its home slice and charged: a timeline, a status word, a fault entry, a trap's record (R27, R128). -/
def sliceWrite (s : State) (pa : Nat) (bs : List Byte) : State :=
  homeWrite ((linesOf pa bs.length).foldl deviceAt s) pa bs

/-- Whether a write of the device can be sent to its home now (R23, R307). -/
def wayOpen (s : State) (pa n : Nat) : Bool :=
  let ls := linesOf pa n
  inReach s ls && ls.all (linked s)

/-- Send what waits in the outbox, in order, as far as it can be sent. -/
def sendOut (s : State) : List (Nat × List Byte) → State
  | [] => { s with mem := { s.mem with outbox := [] } }
  | x :: r => if wayOpen s x.1 x.2.length then sendOut (sliceWrite s x.1 x.2) r else { s with mem := { s.mem with outbox := x :: r } }

/-- What the outbox holds goes, once it can be sent. -/
def sendOutbox (s : State) : State := if s.mem.outbox = [] then s else sendOut s s.mem.outbox

/-- A write of the device itself. One that cannot be sent yet waits, and those after it wait behind it (R23, R153, R307). -/
def devWrite (s : State) (pa : Nat) (bs : List Byte) : State :=
  if s.mem.outbox = [] ∧ wayOpen s pa bs.length then sliceWrite s pa bs
  else { s with mem := { s.mem with outbox := s.mem.outbox ++ [(pa, bs)] } }

/-! ## Fresh copies (R136) -/

/-- Drop the images, and the lines of subscribing stash entries, that some messages on their way to a core will change. -/
def dropOld (s : State) (core : Nat) (ms : List Msg) : State :=
  if ms = [] then s
  else
    let old := fun (i : Image) => i.core == core && ms.any fun m =>
      m.asid == i.asid && m.obj == i.obj && m.elems.any fun c => c.va / 64 == i.vline
    let strip := fun (e : Stash) =>
      if e.sfmt ≠ 0 then { e with filled := e.filled.filter fun f => !(ms.any fun m => m.line == f.2) } else e
    { s with
      coh := { s.coh with images := s.coh.images.filter fun i => !old i }
      crews := s.crews.map fun c => if c.core = core then { c with stash := c.stash.map strip } else c }

/-- Drop the old images of a pool line at a core: what its agents read next of the line is the home value (R136, R140,
R148). A message from before a move names the elements by their virtual addresses (R177). -/
def freshImages (s : State) (core line : Nat) : State :=
  match s.coh.msgs.filter fun m => m.targets.contains core with
  | [] => s
  | ms =>
    let es := elemsAt s (64 * line) 64
    dropOld s core (ms.filter fun m => m.line == line || es.any fun x => m.names x.1.asid (x.2 / 64))

/-- Drop a core's unregistered and stale copies of a line: what its agents read of it now is not older than what any
of them has read (R136). -/
def freshLine (s : State) (core line : Nat) : State :=
  let s := freshImages s core line
  { s with mem := { s.mem with
      l1 := s.mem.l1.filter fun l => !(l.core == core && l.line == line && !l.buffered && (l.kind == .si || l.kind == .stale))
      invals := s.mem.invals.filter fun i => !(i.core == core && i.line == line) } }

/-- Drop every unregistered and stale copy of a core, and every old image. -/
def freshCore (s : State) (core : Nat) : State :=
  let s := dropOld s core (s.coh.msgs.filter fun m => m.targets.contains core)
  { s with mem := { s.mem with
      l1 := s.mem.l1.filter fun l => !(l.core == core && !l.buffered && (l.kind == .si || l.kind == .stale))
      invals := s.mem.invals.filter fun i => i.core ≠ core } }

/-! ## Images (R169, R170) -/

/-- Fill the images of a line for the L1 subscription of a core (R170). -/
def fillImages (s : State) (core asid : Nat) (b : Sub) (o : Obj) (va pa : Nat) : State :=
  let v0 := va - va % 64
  let p0 := pa - pa % 64
  let els := ((List.range 64).filterMap fun i => objElem o (v0 + i)).eraseDups
  let imgs := els.map fun e =>
    ({ core := core, asid := asid, obj := o.num, va := e, vline := v0 / 64
       bits := image b.fmt o.hfmt (elemBits s o (p0 + e - v0)), since := s.nextId } : Image)
  { s with coh := { s.coh with images := imgs ++ s.coh.images } }

/-- The image that a core holds of an element. -/
def findImage (s : State) (core asid obj va : Nat) : Option Image :=
  s.coh.images.find? fun i => i.core = core ∧ i.asid = asid ∧ i.obj = obj ∧ i.va = va

/-- Drop the images of an object that a core holds, or those of one line. -/
def dropImages (s : State) (core asid obj : Nat) (vline : Option Nat) : State :=
  { s with coh := { s.coh with images := s.coh.images.filter fun i =>
      !(i.core == core && i.asid == asid && i.obj == obj && (match vline with | none => true | some l => i.vline == l)) } }

/-- The byte of the decoded image that an agent on a core reads at an address, where its L1 subscribes to the element
there (R170). The images of the line must have been filled. -/
def imageByte (s : State) (core asid va : Nat) : Option Byte :=
  match objAt s asid va with
  | none => none
  | some (o, e) =>
    match l1Sub s core asid o.num, findImage s core asid o.num e with
    | some b, some i => some (BitVec.ofNat 8 (imageHome b.fmt o.hfmt i.bits >>> (8 * (va - e))))
    | _, _ => none

/-- Fill the images that a read at an address needs (R170); what else the core keeps of the line is then not older
(R136). -/
def needImages (s : State) (core asid va pa n : Nat) : State :=
  (elemsTouched s asid va n).foldl (fun s x =>
    match l1Sub s core asid x.1.num with
    | none => s
    | some b =>
      if (findImage s core asid x.1.num x.2).isSome then s
      else fillImages (freshImages s core (pa / 64)) core asid b x.1 x.2 (pa + x.2 - va)) s

/-- Drop the images of the elements that a pool line holds. -/
def dropLineImages (s : State) (line : Nat) : State :=
  let es := elemsAt s (64 * line) 64
  { s with coh := { s.coh with images := s.coh.images.filter fun i =>
      !(es.any fun x => x.1.asid == i.asid && x.1.num == i.obj && x.2 / 64 == i.vline) } }

/-- Recall a line from every copy on the package, the images included (R305). -/
def recallOut (s : State) (line : Nat) : State := recallCopies (dropLineImages s line) line

/-- What answering a snoop of a line from outside writes back: each dirty copy to its slice, and the dirty line to its port (R28,
R305). -/
def snoopResources (s : State) (line : Nat) : List Nat :=
  let n := dirtyCount s noCore line
  (List.replicate n (wbResources s line)).flatten ++
  (if n ≠ 0 ∨ s.mem.llc.any (fun e => e.1 / 64 == line) ∨ s.mem.loc.any (fun e => e.1 / 64 == line) then
     [resPort (portOf s (64 * line)) 1] else [])

/-- A snoop from outside recalls a line, and its write-backs are charged as demand traffic (R27, R305; log 48). -/
def snooped (s : State) (line : Nat) : State := recallOut (owe s (snoopResources s line)) line

/-- Bytes of a subscribed encoding of a stash entry. -/
def sfmtSize (sfmt : Nat) : Nat := match sfmt with | 4 => 4 | 6 => 2 | 7 => 2 | _ => 1

/-- The row stride of a subscribing stash entry (R175). -/
def stashStride (o : Obj) (sfmt : Nat) : Nat := (o.cols * sfmtSize sfmt + 63) / 64 * 64

/-- The elements that a scratchpad line of a subscribing entry holds: (offset in the line, element address)
(R175). -/
def stashElems (o : Obj) (e : Stash) (line : Nat) : List (Nat × Nat) :=
  let st := max 1 (stashStride o e.sfmt)
  let z := sfmtSize e.sfmt
  (List.range (64 / z)).filterMap fun k =>
    let at' := 64 * line - e.sbase + k * z
    let col := at' % st / z
    if col < o.cols then some (k * z, e.gbase + at' / st * o.pitch + col * hfmtSize o.hfmt) else none

/-- Drop the scratchpad lines of a subscribing stash entry that hold elements of listed home lines, by their virtual
addresses (R168, R175). -/
def dropStashLines (o : Obj) (e : Stash) (vlines : List Nat) : Stash :=
  { e with filled := e.filled.filter fun f => !((stashElems o e f.1).any fun x => vlines.contains (x.2 / 64)) }

/-- End one subscription: its images are discarded and its slot is freed; a stash entry whose subscription
has ended traps on every access (R174). What the core's L1 holds beside the images may be older than they were, and is
dropped (R136). -/
def endSub (s : State) (b : Sub) : State :=
  let s1 := { s with coh := { s.coh with subs := s.coh.subs.filter fun x => x ≠ b } }
  match b.stash with
  | none => dropImages (freshCore s1 b.core) b.core b.asid b.obj none
  | some k =>
    let kill := fun (e : Stash) =>
      if e.slot = k ∧ e.obj = b.obj ∧ e.sfmt ≠ 0 then { e with dead := true, filled := [] } else e
    { s1 with crews := s1.crews.map fun c =>
        if b.crews.contains (c.grid, c.num) then { c with stash := c.stash.map kill } else c }

/-- End every subscription to an object (R163, R174). -/
def endSubs (s : State) (asid obj : Nat) : State :=
  (s.coh.subs.filter fun b => b.asid = asid ∧ b.obj = obj).foldl endSub s

/-- A crew leaves its subscriptions; one that its core's L1 shares with another crew stays for that crew
(R166, R177). -/
def leaveSubs (s : State) (grid crew : Nat) : State :=
  s.coh.subs.foldl (fun s b =>
    if !b.crews.contains (grid, crew) then s
    else if b.crews.all (· == (grid, crew)) then endSub s b
    else { s with coh := { s.coh with subs := s.coh.subs.map fun x =>
             if x = b then { x with crews := x.crews.filter (· != (grid, crew)) } else x } }) s

/-- Apply the part of a message that reached a core: each of its holders whose encoding changed discards its
line or writes the new encodings into it (R168). An image that was filled after the message was sent already holds
its value or a later one (R178). -/
def applyMsg (s : State) (m : Msg) (core : Nat) : State :=
  match findObj s m.asid m.obj with
  | none => s
  | some o =>
    let s1 := match l1Sub s core m.asid m.obj with
      | none => s
      | some b =>
        match m.elems.filter (changes b.fmt o.hfmt) with
        | [] => s
        | cs =>
          if b.update then
            let renew := fun (i : Image) =>
              match List.find? (fun (c : ElemChange) => c.va = i.va) cs with
              | some c => if i.core = core ∧ i.asid = m.asid ∧ i.obj = m.obj ∧ i.since ≤ m.id
                  then { i with bits := image b.fmt o.hfmt c.new } else i
              | none => i
            { s with coh := { s.coh with images := s.coh.images.map renew } }
          else cs.foldl (fun s (c : ElemChange) => dropImages s core m.asid m.obj (some (c.va / 64))) s
    let hits := fun (e : Stash) => e.sfmt ≠ 0 ∧ e.obj = m.obj ∧ m.elems.any (changes e.sfmt o.hfmt)
    let strip := fun (e : Stash) => if hits e then dropStashLines o e ((m.elems.map fun c => c.va / 64).eraseDups) else e
    let one := fun (c : Crew) => if c.core = core then { c with stash := c.stash.map strip } else c
    { s1 with crews := s1.crews.map one }

/-! ## Buffered `.si` stores (R123) -/

/-- Consecutive bytes of a cell list, each run with its first address. -/
def runsOf (c : Cells Byte) : List (Nat × List Byte) :=
  c.foldr (fun e rs =>
    match rs with
    | (a, bs) :: t => if e.1 + 1 = a then (e.1, e.2 :: bs) :: t else (e.1, [e.2]) :: rs
    | [] => [(e.1, [e.2])]) []

/-- The buffered `.si` stores of a core, all of them or those of one line. -/
def bufferedSi (s : State) (core : Nat) (line : Option Nat) : List L1Line :=
  s.mem.l1.filter fun l => l.core == core && l.buffered && (match line with | none => true | some n => l.line == n)

/-- The grid of a resident group; 0, which is none, for another number. -/
def gidGrid (s : State) (gid : Nat) : Nat := ((s.groups.find? fun g => g.gid == gid).map (·.grid)).getD 0

/-- The writer of a core's buffered stores: releases of all its agents cover them. -/
def flusher (s : State) (gid core : Nat) : Writer :=
  let w := worker gid (gidGrid s gid)
  { w with core := core, cov := { w.cov with cores := [core] } }

/-- A `.si` copy takes the bytes that its core stored. -/
def mergeCopy (mine : List L1Line) (l : L1Line) : L1Line :=
  match mine.find? fun b => b.core == l.core && b.line == l.line with
  | some b => if l.kind = .si ∧ !l.buffered then { l with bytes := b.bytes.foldl (fun c e => Cells.put c e.1 e.2) l.bytes } else l
  | none => l

/-- Send the buffered `.si` stores of a core home, all of them or those of one line, for a group (R123, R168). The core's
`.si` copies of their lines hold them too (R136). -/
def flushSi (s : State) (gid core : Nat) (line : Option Nat) : State :=
  let mine := bufferedSi s core line
  if mine = [] then s
  else
    let w := flusher s gid core
    let s := { s with mem := { s.mem with l1 := (s.mem.l1.filter fun l => !mine.contains l).map (mergeCopy mine) } }
    (mine.flatMap fun l => runsOf l.bytes).foldl (fun s x => writeBy s w x.1 x.2) s

end Sys2Proof.Machine
end

