-- ==== Sys2Proof/Machine/Faults.lean ====
section
/-! DEFINITION. Fault records, their fault-queue entries and the order in which they are appended, the
records that wait for a Gleaner, and the firmware event log (R21, R24, R25, R264, R265, R306). -/

namespace Sys2Proof.Machine

/-- A source number: the kind of the unit and its index (R24). -/
def srcNo (kind index : Nat) : Nat := 2048 * kind + index

def srcCore (core : Nat) : Nat := srcNo 0 core
def srcEngine (core : Nat) : Nat := srcNo 1 core
def srcTraversal (core : Nat) : Nat := srcNo 2 core
def srcSampler (core : Nat) : Nat := srcNo 3 core
def srcCopy (quad : Nat) : Nat := srcNo 5 quad
def srcSched (die : Nat) : Nat := srcNo 9 die
/-- The die scheduler that serves a die: its own, or the one that adopted its work (R300). -/
def schedDie (s : State) (die : Nat) : Nat := ((s.fw.adopted.find? fun a => a.1 == die).map Prod.snd).getD die
def srcFirmware : Nat := srcNo 0x0A 0
def srcSlice (q : Nat) : Nat := srcNo 0x0B q
def srcGovernor : Nat := srcNo 0x0F 0
def srcMerge (die : Nat) : Nat := srcNo 0x10 die

/-- Append a record to the firmware event log (R24). -/
def logEvent (s : State) (source cause : Nat) : State :=
  { s with fw := { s.fw with log := s.fw.log ++ [{ stamp := s.pkg.time, source := source, cause := cause }] } }

/-- Causes of the firmware event log, numbered by the model: the spec states that a cause is recorded and
gives no code (log 16). -/
def causeSignature : Nat := 1
def causeUnitMap : Nat := 2
def causePower : Nat := 3
def causeFailover : Nat := 4

/-- Record a fault that the driver will read (R263, R264). -/
def addFault (s : State) (kind acc asid source gid va : Nat) (detail : List Nat) (waiter : Option Waiter)
    (grid : Option Nat) (die : Nat) (thr : Nat := 0) : State :=
  let f : FaultRec :=
    { id := s.nextId, kind := kind, acc := acc, asid := asid, source := source, gid := gid
      stamp := s.pkg.time, va := dw va, detail := detail.map dw, waiter := waiter, grid := grid, die := die
      thr := thr, index := none }
  { s with nextId := s.nextId + 1, faults := s.faults ++ [f] }

/-- The 64 bytes of a fault-queue entry (R264). -/
def faultBytes (f : FaultRec) : List Byte :=
  leBytes 8 (f.kind % 256 + 256 * (f.acc % 256)) ++ leBytes 8 ((f.asid % 4096) * 16 + (f.source % 65536) * 65536 + (f.gid % 2 ^ 32) * 2 ^ 32) ++
  leBytes 8 f.stamp.toNat ++ leBytes 8 f.va.toNat ++
  (tab 4 fun i => leBytes 8 (f.detail.getD i 0).toNat).flatten

/-- The order of two records: stamp, then source, then the order of emission (R25). -/
def faultBefore (x y : FaultRec) : Bool :=
  if x.stamp ≠ y.stamp then decide (x.stamp.toNat < y.stamp.toNat)
  else if x.source ≠ y.source then decide (x.source < y.source)
  else decide (x.id ≤ y.id)

/-- Whether FQSIZE holds a size that the register may hold, a power of two from 64 to 65536 (R306). -/
def sizeOk (n : Nat) : Bool := [64, 128, 256, 512, 1024, 2048, 4096, 8192, 16384, 32768, 65536].contains n

/-- Whether the fault queue has room for an entry (R306); with a size that the register may not hold, it has
none (DESIGN CHOICE, log 17). -/
def queueRoom (r : Regs) : Bool :=
  sizeOk r.fqsize.toNat && decide ((r.fqtail - r.fqhead).toNat < r.fqsize.toNat)

/-- Where the next entry goes, and whether it can be written there now (R23). -/
def nextEntry (r : Regs) : Nat := (r.fqbase.toNat + 64 * (r.fqtail.toNat % max 1 r.fqsize.toNat)) % 2 ^ 52
def entryOpen (s : State) : Bool := s.mem.outbox == [] && wayOpen s (nextEntry s.regs) 64

/-- Write one entry and count it; an entry that needs no answer is then forgotten (R264, R306). -/
def appendFault (s : State) (f : FaultRec) : State :=
  let s1 := devWrite s (nextEntry s.regs) (faultBytes f)
  { s1 with
    regs := { s.regs with fqtail := s.regs.fqtail + 1 }
    faults := if 3 < f.kind then s.faults.filter fun x => x.id ≠ f.id
      else s.faults.map fun x => if x.id = f.id then { x with index := some s.regs.fqtail.toNat } else x }

/-- Append records in key order while the queue has room and can be reached (R264). -/
def appendAll (s : State) : List FaultRec → State
  | [] => s
  | f :: r => if queueRoom s.regs && entryOpen s then appendAll (appendFault s f) r else s

/-- Append every record whose stamp has passed: no record with a lower key can still arise (R25, R264). -/
def flushFaults (s : State) : State :=
  appendAll s ((s.faults.filter fun f => f.index.isNone && decide (f.stamp.toNat < s.pkg.time.toNat)).mergeSort
    faultBefore)

/-- Record a residency fault that is on its way to its Gleaner (R265). -/
def addPageWait (s : State) (page source : Nat) (waiter : Waiter) (pref : Bool) : State :=
  let w : PageWait :=
    { id := s.nextId, page := page, stamp := s.pkg.time, source := source, waiter := waiter, pref := pref
      sent := false }
  { s with nextId := s.nextId + 1, waits := s.waits ++ [w] }

/-- The Gleaner of a page (R265). -/
def gleanerOf (page : Nat) : Nat := page % 4

/-- Report one failing page of a probe; `true` when it was reported (R261). -/
def report (s : State) (asid source gid va : Nat) (n : Need) (h : Hit) (w : Waiter) (grid : Option Nat)
    (die : Nat) (thr : Nat := 0) : State :=
  let s := walked s asid va
  match h with
  | .ok _ _ => s
  | .devOnly => s
  | .quar _ => s
  | .far => s
  | .absent pa => addPageWait s (pageOf pa) source w false
  | .xlate l e => addFault s 1 n.acc asid source gid va [l, e, 0, 0] (some w) grid die thr
  | .prot e => addFault s 2 n.acc asid source gid va [e, 0, 0, 0] (some w) grid die thr

/-- Whether a hit is one that is reported and then settled. -/
def Hit.waits : Hit → Bool
  | .absent _ => true
  | .xlate _ _ => true
  | .prot _ => true
  | _ => false

end Sys2Proof.Machine
end

