-- ==== Sys2Proof/Machine/Ops.lean ====
section
/-! DEFINITION. The named operations over groups, crews and grids: register access, completion adds, command
contexts, grid aborts, traps and the consumption of poison (R32, R48, R153, R194, R272 to R276, R283). -/

namespace Sys2Proof.Machine

/-- Run an operation on the group whose turn it is; with no such group nothing changes (log 2). -/
def onG (s : State) (f : Group → State) : State :=
  match curG s with
  | none => s
  | some g => f g

/-! ## Registers -/

/-- Read a scalar register: s0 reads 0 (R32). -/
def scal (g : Group) (n : Nat) : Dword := if n = 0 then 0 else g.sregs.get 0 n
/-- Write a scalar register: a write to s0 is discarded (R32). -/
def setScal (g : Group) (n : Nat) (v : Dword) : Group := if n = 0 then g else { g with sregs := g.sregs.set 0 n v }
/-- A thread's element of a lane register row (R46). -/
def lane (g : Group) (row t : Nat) : Dword := g.lanes.get 0 (32 * row + t)
def setLane (c : Cells Dword) (row t : Nat) (v : Dword) : Cells Dword := c.set 0 (32 * row + t) v
/-- Whether a scalar register is reserved (R40). -/
def reserved (g : Group) (n : Nat) : Bool := g.resv.getLsbD n
/-- The bit of a scalar register in the reservations. -/
def resvBit (n : Nat) : Dword := 1 <<< n

/-! ## Contexts and timelines -/

/-- A command number is accepted into a context (R153). -/
def Ctx.accept (c : Ctx) (n : Nat) : Ctx := { c with last := n, openN := n :: c.openN }

/-- A command number retires. -/
def Ctx.retire (c : Ctx) (n : Nat) : Ctx := { c with openN := c.openN.filter (· ≠ n), doneN := n :: c.doneN }

/-- The greatest number up to which every accepted command has retired (R153). -/
def Ctx.value (c : Ctx) : Nat :=
  (c.doneN.filter fun n => c.openN.all fun o => n < o).foldl max c.bumped

/-- Write the timeline word when it advances (R153). -/
def bumpCtx (s : State) (c : Ctx) : State × Ctx :=
  if c.bumped < c.value then
    (devWrite s c.word (leBytes 8 c.value), { c with bumped := c.value, doneN := c.doneN.filter fun n => c.value < n })
  else (s, c)

/-- A crew wherever it is: on its core, or saved (R153). -/
def anyCrew (s : State) (grid num : Nat) : Option Crew :=
  match findCrew s grid num with
  | some c => some c
  | none => (s.saved.find? fun v => v.crew.grid == grid && v.crew.num == num).map (·.crew)
def setAnyCrew (s : State) (c : Crew) : State :=
  { setCrew s c with saved := s.saved.map fun v => if v.crew.grid = c.grid ∧ v.crew.num = c.num then { v with crew := c } else v }

/-- Retire a command of a crew's copy context, or of its matrix context (R153). -/
def retireCopyNo (s : State) (grid crew n : Nat) : State :=
  match anyCrew s grid crew with
  | none => s
  | some c => let r := bumpCtx s (c.copies.retire n); setAnyCrew r.1 { c with copies := r.2 }
def retireTaskNo (s : State) (grid crew n : Nat) : State :=
  match anyCrew s grid crew with
  | none => s
  | some c => let r := bumpCtx s (c.tasks.retire n); setAnyCrew r.1 { c with tasks := r.2 }

/-! ## Packets and the completion of grids -/

/-- The number of packets 1 to n that have all completed (R290). -/
def HostQueue.value (q : HostQueue) : Nat :=
  (q.pkts.filter fun p => p.2 ≠ .done).foldl (fun n p => min n (p.1 - 1)) q.fetched

/-- Write a queue's timeline word when it advances (R290). -/
def bumpQueue (s : State) (num : Nat) : State :=
  match findQueue s num with
  | none => s
  | some q =>
    let n := q.value
    let q1 := { q with pkts := q.pkts.filter fun p => p.2 ≠ .done, bumped := n }
    if q.bumped < n then setQueue (devWrite s q.tl (leBytes 8 n)) q1 else setQueue s q1

/-- Whether a packet that has started has steps left that its fetcher does, a write that is not yet performed among them (R169,
R291, R292). -/
def PktWait.steps : PktWait → Bool
  | .word _ _ => true
  | .signal _ _ => true
  | .sent => true
  | _ => false

/-- A queue stops, and those of its started packets that a test selects are stuck at the steps that they have left, but for
writes that they have made, which are performed (R284, R290). -/
def HostQueue.stick (q : HostQueue) (which : Nat → Bool) : HostQueue :=
  let one := fun (p : Nat × PktWait) => if which p.1 && p.2.steps && p.2 != .sent then (p.1, PktWait.stuck) else p
  { q with stopped := true, left := 0, onStep := none, pkts := q.pkts.map one }

/-- A packet that waited for something completes (R290, R291). -/
def packetDone (s : State) (queue : Nat) (w : PktWait) : State :=
  match findQueue s queue with
  | none => s
  | some q =>
    bumpQueue (setQueue s { q with pkts := q.pkts.map fun p => if p.2 = w then (p.1, .done) else p }) queue

/-- A grid is complete: its packet completes and its record goes (R194, R291). -/
def gridComplete (s : State) (id queue : Nat) : State :=
  { packetDone s queue (.grid id) with grids := s.grids.filter fun x => x.id ≠ id }

/-- Whether every access of a grid has been performed: its requests, and the messages and invalidations of its writes
(R153, R194). -/
def gridQuiet (s : State) (id : Nat) : Bool :=
  (s.reqs.all fun r => !(r.grid == id && r.kind != .pref && decide (r.stage < 2))) &&
  (underway s).all fun x => x.1.accs.all fun y => y.grid != id

/-- Record an add to a completion counter, to be made once every access of the grid has been performed; with no counter,
the grid completes then (R194, R465). -/
def pushAdd (s : State) (grid : Option Nat) (asid queue : Nat) (ctr delta : Dword) (cthresh : Nat) (cont : Dword)
    (test : Bool) (die : Nat) : State :=
  if ctr == 0 && (match grid with | none => true | some id => gridQuiet s id) then
    (match grid with | none => s | some id => gridComplete s id queue)
  else
    let a : Add := { id := s.nextId, grid := grid, asid := asid, queue := queue, ctr := ctr, delta := delta
                     cthresh := cthresh, cont := cont, test := test, die := die, left := 0, sent := false }
    { s with nextId := s.nextId + 1, adds := s.adds ++ [a] }

/-- What a refusal or an abort adds to a counter (R193, R276). -/
def badDelta : Dword := 0x0000000100000001

/-! ## Ending crews and grids -/

/-- Write back one scratchpad line of a stash range (R121). -/
def putStashLine (core : Nat) (s : State) (f : Nat × Nat) : State :=
  sendHome { s with mem := putStash s s.mem core f.1 f.2 } f.2

/-- The dirty lines of a stash entry: scratchpad line and pool line. -/
def dirtyStash (e : Stash) : List (Nat × Nat) := if e.sfmt ≠ 0 then [] else e.filled.filter fun f => e.dirty.contains f.1

/-- Write back the dirty lines of a stash entry (R121). -/
def flushStashEntry (s : State) (core : Nat) (e : Stash) : State := (dirtyStash e).foldl (putStashLine core) s

/-- An engine in the state of R202: everything 0, every chain open and unbound, the window empty. -/
def resetMatrix (holder : Option (Nat × Nat)) : Matrix :=
  { holder := holder, tiles := [], accs := [], chains := [], shapes := [], tmask := 0, window := [], nextKey := 1, bad := [] }

/-- Free the engine that a crew holds (R202). -/
def freeEngine (s : State) (grid crew : Nat) : State :=
  { s with engines := s.engines.map fun e =>
      if e.2.holder = some (grid, crew) then (e.1, resetMatrix none) else e }

/-- Unmap the pages that the firmware mapped for a crew and its groups (R153, R268). -/
def unmapCrew (s : State) (grid crew : Nat) : State :=
  { s with xl := { s.xl with firm := s.xl.firm.filter fun f => !(f.grid == grid && f.crew == crew) } }

/-- The groups of a crew that are resident. -/
def crewGroups (s : State) (grid num : Nat) : List Group := s.groups.filter fun g => g.grid == grid && g.crew == num

/-- Forget what waits for pages or answers among some waiters: nothing is released for them any more. -/
def dropWaiters (s : State) (p : Waiter → Bool) : State :=
  { s with
    waits := s.waits.filter fun w => !p w.waiter
    faults := s.faults.map fun f => match f.waiter with
      | some w => if p w then { f with waiter := none } else f
      | none => f }

/-- Whether a waiter belongs to one of a list of groups. -/
def waiterIn (s : State) (gids : List Nat) (w : Waiter) : Bool :=
  match w with
  | .group g => gids.contains g
  | .samp g => gids.contains g
  | .fetch g _ => gids.contains g
  | .ray id => s.rays.any fun r => r.id == id && gids.contains r.gid
  | _ => false

/-- Whether a waiter is a tile task of a crew. -/
def waitsTask (grid crew : Nat) (w : Waiter) : Bool :=
  match w with
  | .task g c _ _ => g == grid && c == crew
  | _ => false

/-- Take a crew off its core: its groups, its rays, its samples, its stream slots, its subscriptions, its
engine and its firmware pages go (R276, R284, R400). -/
def removeCrew (s : State) (c : Crew) : State :=
  let gs := crewGroups s c.grid c.num
  let gids := gs.map (·.gid)
  let s := dropWaiters s fun w => waiterIn s gids w || waitsTask c.grid c.num w
  let s := unmapCrew (freeEngine (leaveSubs s c.grid c.num) c.grid c.num) c.grid c.num
  { s with
    groups := s.groups.filter fun g => !(g.grid == c.grid && g.crew == c.num)
    crews := s.crews.filter fun x => !(x.grid == c.grid && x.num == c.num)
    rays := s.rays.filter fun r => !gids.contains r.gid
    streams := s.streams.filter fun t => !(t.grid == c.grid && t.crew == c.num) }

/-- Discard the unretired copies and tasks of a crew: their timelines advance past them (R276). -/
def discardCommands (s : State) (c : Crew) : State :=
  let done := fun (x : Ctx) => { x with openN := [], doneN := x.openN ++ x.doneN }
  let a := bumpCtx s (done c.copies)
  let b := bumpCtx a.1 (done c.tasks)
  { setCrew b.1 { c with copies := a.2, tasks := b.2 } with
    copies := s.copies.filter fun x => !(x.queue.isNone && x.grid == c.grid && x.crew == c.num) }

/-- Bytes that a core holds of a line go home now, counted there and charged as demand traffic; those whose home cannot be
reached wait with the device's own writes (R23, R27, R29; log 48). -/
def backNow (s : State) (line : Nat) (bytes : Cells Byte) (put : State → State) : State :=
  if wayOpen s (64 * line) 64 then put (atSlice (owe s (wbResources s line)) line)
  else bytes.foldl (fun s e => devWrite s e.1 [e.2]) s

/-- A dirty line of a stash goes home now, and the buffered stores of a core. -/
def stashNow (core : Nat) (s : State) (f : Nat × Nat) : State :=
  backNow s f.2 (stashBytes s core f.1 f.2) fun s => putStashLine core s f
def siNow (s : State) (gid core : Nat) : State :=
  let s := (bufferedSi s core none).foldl (fun s l => backNow s l.line l.bytes fun s => flushSi s gid core (some l.line)) s
  { s with mem := { s.mem with l1 := s.mem.l1.filter fun l => !(l.core == core && l.buffered) } }

/-- Stop a crew with no save: what it has written goes home as it stops (R276, log 48). -/
def stopCrew (s : State) (c : Crew) : State :=
  let s := (c.stash.flatMap dirtyStash).foldl (stashNow c.core) (siNow s (c.gids.headD noGid) c.core)
  let s := discardCommands s c
  removeCrew s c

/-- Stop a saved crew: its commands are discarded, its timelines advance, and its rays and pages go (R276). -/
def stopSaved (s : State) (v : Saved) : State :=
  let c := v.crew
  let done := fun (x : Ctx) => { x with openN := [], doneN := x.openN ++ x.doneN }
  let a := bumpCtx s (done c.copies)
  let b := bumpCtx a.1 (done c.tasks)
  let s := unmapCrew (dropWaiters b.1 fun w => waiterIn b.1 c.gids w || waitsTask c.grid c.num w) c.grid c.num
  { s with
    copies := s.copies.filter fun x => !(x.queue.isNone && x.grid == c.grid && x.crew == c.num)
    rays := s.rays.filter fun r => !c.gids.contains r.gid }

/-- A merge unit without the fragments of a grid and the streams that it named; what these hold of other grids
arrives anew (R255). -/
def dropFrags (id : Nat) (m : MergeUnit) : MergeUnit :=
  let held := (m.streams.filter fun t => t.grid = id).flatMap (·.held)
  { m with
    streams := (m.streams.filter fun t => t.grid ≠ id).map fun t => { t with held := t.held.filter fun f => f.grid ≠ id }
    transit := (held ++ m.transit).filter fun f => f.grid ≠ id }

/-- Abort a grid: its crews stop, its counter receives the abort add, and an entry of kind 0x07 is made with
the source of the die scheduler of a die (R276). -/
def abortGrid (s : State) (id : Nat) (cause : Nat) (die : Nat) : State :=
  match findGrid s id with
  | none => s
  | some r =>
    if r.done then s else
    let s := (s.crews.filter fun c => c.grid = id).foldl stopCrew s
    let s := (s.saved.filter fun v => v.crew.grid = id).foldl stopSaved s
    let s := { s with
      saved := s.saved.filter fun v => v.crew.grid ≠ id
      sbars := s.sbars.filter fun b => b.grid ≠ id
      compacts := s.compacts.filter fun c => c.grid ≠ id
      merges := s.merges.map (dropFrags id) }
    let s := setGrid s { r with done := true, placed := [] }
    let s := addFault s 7 0 r.asid (srcSched (schedDie s die)) noGid 0 [id, cause, 0, 0] none none die
    pushAdd s (some id) r.asid r.queue r.ctr badDelta r.cthresh r.cont true die

/-- The cause of an abort by a trap code, and by a fault-queue kind (R276). -/
def causeTrap (code : Nat) : Nat := code
def causeKind (kind : Nat) : Nat := 256 + kind

/-! ## Traps -/

/-- A trap: its code, its info, its stream, thread, lane address and chain (R271, R274). -/
structure TrapInfo where
  code : Nat
  info : Nat
  lane : Bool := false
  thr : Nat := 0
  tlpc : Dword := 0
  chain : List Nat := []
  deriving DecidableEq, Repr, Inhabited

/-- The 256 bytes of the trap header (R274). -/
def headerBytes (s : State) (g : Group) (t : TrapInfo) : List Byte :=
  let lrem := if t.lane then (if g.run = [] then g.lrem else g.run.length) else 0
  let d3 := t.code % 256 + (if t.lane then 2 ^ 10 else 0) + 2 ^ 11 * (g.queue.length % 32) +
    2 ^ 16 * (g.core % 2048) + 2 ^ 27 * (t.thr % 32) + 2 ^ 32 * (g.gid % 2 ^ 32)
  leBytes 8 lrem ++ leBytes 8 t.tlpc.toNat ++ leBytes 8 g.resv.toNat ++ leBytes 8 d3 ++
  leBytes 8 s.pkg.time.toNat ++ leBytes 8 g.spc.toNat ++ leBytes 8 g.lpc.toNat ++ leBytes 8 t.info ++
  (tab 8 fun k => leBytes 8 (scal g (56 + k)).toNat).flatten ++
  (tab 32 fun k => leBytes 4 (t.chain.getD k 0xFFFFFFFF)).flatten

/-- The 128 bytes of a queue-image entry (R275). -/
def imageBytes (q : QEntry) : List Byte :=
  leBytes 4 q.pfx.toNat ++ leBytes 12 q.word.toNat ++ (tab 13 fun k => leBytes 8 (q.caps.getD k 0).toNat).flatten ++
  leBytes 8 q.addr.toNat

/-- The reservations of the lane instructions that have entered and not retired (R40). -/
def resvEntered (g : Group) : Dword :=
  g.infl.foldl (fun r i => match i.sreg with | some n => if i.sreg = some 0 then r else r ||| resvBit n.toNat | none => r) 0

/-- A group becomes ready: its age is the time (R50). -/
def readyG (time : Dword) (g : Group) : Group :=
  { g with age := time, yielded := false, slow := false, dim := false, offS := none, offL := none }

/-- The trap vector: bits [1:0] of cr.trapvec are ignored (R78). -/
def vector (g : Group) : Dword := g.trapvec &&& ~~~3#64

/-- Take a trap (R272): the header and the queue image are written, the queue is emptied with its
reservations, the group enters handler mode and SPC becomes cr.trapvec. In handler mode, or with no vector,
the grid is aborted instead (R273). A parked group becomes ready (R50). -/
def takeTrap (s : State) (g : Group) (t : TrapInfo) : State :=
  if g.handler ∨ vector g = 0 then abortGrid s g.grid (causeTrap t.code) (dieOf s g.core)
  else
    let pa := firmPa s g.asid g.replay.toNat
    let s := sliceWrite s pa (headerBytes s g t)
    let s := sliceWrite s (pa + 256) (g.queue.flatMap imageBytes)
    let g := if g.park = .none then g else readyG s.pkg.time g
    setG s { g with
      queue := [], run := [], lrem := 0, resv := resvEntered g, handler := true
      spc := vector g, offS := none, park := .none, target := .none, answer := none, pairWait := none
      exiting := false, frozenS := false, frozenL := false, missS := none, missL := none, begun := none }

/-- A trap of the scalar stream, and of the lane instruction at the head of the queue (R52). -/
def trapScalar (s : State) (g : Group) (code info : Nat) : State := takeTrap s g { code := code, info := info }
def trapLane (s : State) (g : Group) (code info thr : Nat) : State :=
  takeTrap s g { code := code, info := info, lane := true, thr := thr
                 tlpc := (g.queue.head?.map (·.addr)).getD 0 }

def tIllegal : Nat := 1
def tHazard : Nat := 2
def tPriv : Nat := 3
def tAlign : Nat := 4
def tScratch : Nat := 5
def tStack : Nat := 6
def tSyncobj : Nat := 7
def tFmtdiv : Nat := 8
def tWaitcycle : Nat := 9
def tXlate : Nat := 10
def tProt : Nat := 11
def tIfetch : Nat := 12
def tSwtrap : Nat := 13
def tCheck : Nat := 0x10
def tTrapl : Nat := 0x11

/-! ## Parking and waking -/

/-- A group parks at the instruction of one of its streams, and leaves its pipe (R51). -/
def parkG (s : State) (g : Group) (p : Park) (t : Target) (lane : Bool) : State :=
  setG s { g with park := p, target := t, parkLane := lane, pipe := none
                  waitFrom := if g.target = t ∧ g.target ≠ .none then g.waitFrom else s.pkg.time
                  probedAt := if g.target = t ∧ g.target ≠ .none then g.probedAt else s.pkg.time }

/-- A parked group becomes ready, with a new age (R50). The wait it published ends when its instruction
completes. -/
def wakeG (s : State) (g : Group) : Group := readyG s.pkg.time { g with park := .none }

/-- The wait that a group published is over (R58). -/
def waitOver (g : Group) : Group := { g with target := .none, carried := [] }

/-! ## Poison -/

/-- Restart a group at its idempotent region; a parked one becomes ready (R50, R283). -/
def restartG (time : Dword) (g : Group) : Group :=
  { (if g.park = .none then g else readyG time g) with
    pend := [], held := [], infl := [], samp := none, queue := [], run := [], lrem := 0, resv := 0
    handler := false, spc := g.idemspc, lpc := g.idemlpc, offS := none, restarts := g.restarts + 1, park := .none
    target := .none, answer := none, pairWait := none, exiting := false, frozenS := false, frozenL := false
    missS := none, missL := none, begun := none }

/-- The verdicts of a group's handler threads are discarded: its threads leave the compaction units, and those that
already run belong to no group (R286). -/
def dropVerdicts (s : State) (gid : Nat) : State :=
  let one := fun (x : Nat × Nat) => if x.1 = gid then (noGid, x.2) else x
  let other := fun (x : Nat × Nat × Dword × Dword × Nat) => if x.1 = gid then (noGid, x.2) else x
  let units := s.compacts.map fun c => { c with thrs := c.thrs.filter fun x => x.1 ≠ gid }
  { s with
    compacts := units.filter fun c => c.thrs ≠ []
    groups := s.groups.map fun g => { g with origins := g.origins.map one }
    grids := s.grids.map fun r => { r with origins := r.origins.map other } }

/-- The rays of a group are discarded, with its verdicts, and nothing is released for it any more. -/
def dropRays (s : State) (gid : Nat) : State :=
  let s := dropVerdicts (dropWaiters s (waiterIn s [gid])) gid
  { s with rays := s.rays.filter fun r => r.gid ≠ gid }

/-- A group consumed poison, or the unit that works for it did: it restarts inside an idempotent region, up to three times,
and else its grid is aborted; an entry of kind 0x04 is made, with the unit's source and the access that met the poison, 0
where no access to memory did (R24, R264, R283). -/
def consumeAt (s : State) (g : Group) (source cause pa va : Nat) (acc : Nat := 0) : State :=
  let again := g.idemspc ≠ 0 ∧ g.restarts < 3
  let n := if again then g.restarts + 1 else g.restarts
  let s := addFault s 4 acc g.asid source g.gid va [pa, cause, n, 0] none none (dieOf s g.core)
  if again then setG (dropRays s g.gid) (restartG s.pkg.time g)
  else abortGrid s g.grid (causeKind 4) (dieOf s g.core)

/-- A group's instruction consumed poison (R283): by its pool and its virtual address, each 0 where it has none. -/
def consume (s : State) (g : Group) (cause pa va : Nat) (acc : Nat := 0) : State :=
  consumeAt s g (srcCore g.core) cause pa va acc

/-- Whether every group of a list is in an idempotent region and may restart again (R283). -/
def allIdem (gs : List Group) : Bool := gs.all fun g => g.idemspc ≠ 0 && decide (g.restarts < 3)

/-- Several groups consume poison as one unit: all restart, or every grid among them is aborted (R283). -/
def consumeAll (s : State) (gs : List Group) (source cause pa va asid : Nat) (die : Nat) (acc : Nat := 0) : State :=
  let n := gs.foldl (fun n g => max n (if allIdem gs then g.restarts + 1 else g.restarts)) 0
  let s := addFault s 4 acc asid source noGid va [pa, cause, n, 0] none none die
  if allIdem gs then gs.foldl (fun s g => setG (dropRays s g.gid) (restartG s.pkg.time g)) s
  else ((gs.map (·.grid)).eraseDups).foldl (fun s id => abortGrid s id (causeKind 4) die) s

end Sys2Proof.Machine
end

