-- ==== Sys2Proof/Machine/Flags.lean ====
section
/-! DEFINITION. The exception flags: cr.fflags of a group and cr.afflags of an address space (R80, R152). -/

namespace Sys2Proof.Machine

/-- cr.fflags as a 64-bit value (R80). -/
def flagsWord (f : Flags) : Dword := f.setWidth 64

/-- OR flags into a group's cr.fflags, as a lane instruction does when it retires (R80). -/
def orFlags (g : Group) (f : Flags) : Group := { g with fflags := g.fflags ||| f }

/-- cr.afflags of an address space (R48). -/
def afflagsOf (s : State) (asid : Nat) : Dword := s.xl.afflags.get 0 asid

/-- Write cr.afflags (R152). -/
def setAfflags (s : State) (asid : Nat) (v : Dword) : State :=
  { s with xl := { s.xl with afflags := s.xl.afflags.set 0 asid v } }

/-- A RED ORs its flags into cr.afflags when it is performed (R152). -/
def orAfflags (s : State) (asid : Nat) (f : Flags) : State :=
  if f = 0 then s else setAfflags s asid (afflagsOf s asid ||| flagsWord f)

/-- The flags of a list of results. -/
def unionFlags (fs : List Flags) : Flags := fs.foldl (· ||| ·) 0

end Sys2Proof.Machine
end

