-- ==== Sys2Proof/Machine/Operands.lean ====
section
/-! DEFINITION. The operand forms of the three streams, and the one operation through which each kind of
instruction runs: the lane pass, and the scalar instruction (R34 to R44, R64 to R70, R119, R310). -/

namespace Sys2Proof.Machine

/-! ## Lane operands -/

/-- A captured value of a queue entry (R39, R275). -/
def capOf (q : QEntry) (i : Nat) : Dword := q.caps.getD i 0
/-- The execution mask that an entry captured (R67). -/
def entryMask (q : QEntry) : Word := (capOf q 2).setWidth 32

/-- Operand b or c of a thread (R64); `i` is its place among the captured values. -/
def operand (g : Group) (q : QEntry) (t : Ty) (i : Nat) (o : Opd) (thr : Nat) : Dword :=
  match o with
  | .lane r => lane g r.toNat thr
  | .scal _ => capOf q i
  | .imm v => immOperand t v

def opA (g : Group) (f : LaneForm) (t : Nat) : Dword := lane g f.a.toNat t
def opB (g : Group) (q : QEntry) (f : LaneForm) (t : Nat) : Dword := operand g q f.ty 0 f.b t
def opC (g : Group) (q : QEntry) (f : LaneForm) (t : Nat) : Dword := operand g q f.ty 1 f.c t

/-- Whether a thread passes the mask and the guard (R67). -/
def passes (g : Group) (q : QEntry) (f : LaneForm) (t : Nat) : Bool :=
  (entryMask q).getLsbD t &&
  (match f.guard with
   | none => true
   | some x => xor ((lane g x.reg.toNat t).getLsbD x.bit.toNat) x.inv)

/-- The active threads, ascending (R8, R67). -/
def actives (g : Group) (q : QEntry) (f : LaneForm) : List Nat := (List.range 32).filter (passes g q f)

/-- The rows that a lane instruction reads as operands and guard (R44); an unused operand reads none. -/
def readRows (k : OpInfo) (f : LaneForm) : List Nat :=
  let used := fun (c : Classes) (o : Opd) =>
    match o with
    | .lane r => if c.lane || c.scal || c.imm then [r.toNat] else []
    | _ => []
  (if k.a then [f.a.toNat] else []) ++ used k.b f.b ++ used k.c f.c ++
  (match f.guard with
   | none => []
   | some x => [x.reg.toNat])

/-- The lane row that a lane instruction writes. -/
def writeRows (k : OpInfo) (f : LaneForm) : List Nat := if k.d = .lane then [f.d.toNat] else []

/-- Whether inactive threads' destination rows are zeroed (R68). -/
def zeroing (f : LaneForm) : Bool :=
  match f.pfx with
  | none => false
  | some p => p.mz

/-- The rounding mode of a lane instruction (R69). -/
def roundOf (f : LaneForm) : Rm :=
  match f.pfx with
  | none => .rne
  | some p => p.rm

/-! ## Issue -/

/-- What the checks at issue find (R44, R282). -/
inductive Gate where
  | go
  | hazard (row : Nat)
  | poison (row : Nat)
  deriving DecidableEq, Repr, Inhabited

/-- The pending rule over every row an instruction reads or writes, and poison in the rows it reads. -/
def gate (s : State) (g : Group) (reads writes : List Nat) : Gate :=
  match (reads ++ writes).find? fun r => g.pend.contains r || g.held.contains r with
  | some r => .hazard r
  | none =>
    match reads.find? fun r => s.poisonRows.contains (g.gid, r) with
    | some r => .poison r
    | none => .go

/-- The head of the queue has entered: it leaves the queue, and a marked instruction parks the group unless
the pending set is empty (R44, R464). -/
def entered (g : Group) (f : LaneForm) : Group :=
  let g := { g with queue := g.queue.tail, target := .none, carried := [] }
  if f.mark ∧ g.pend ≠ [] then { g with park := .marker, parkLane := true, pipe := none } else g

/-- Write destination rows in a pass: each active thread gets its values, row by row; under mz an inactive
thread's rows are zeroed (R34, R35, R68). -/
def passRows (c : Cells Dword) (rows : List Nat) (mz : Bool) (act : List Nat) (val : Nat → List Dword) :
    Cells Dword :=
  (List.range 32).foldl (fun c t =>
    if act.contains t then (rows.zip (val t)).foldl (fun c rv => setLane c rv.1 t rv.2) c
    else if mz then rows.foldl (fun c r => setLane c r t 0) c
    else c) c

/-- The thread whose operands a thread uses: its own, or the lowest active one when uniform (R35). -/
def srcThr (f : LaneForm) (act : List Nat) (t : Nat) : Nat := if f.uni then act.headD 0 else t

/-- A row written in every thread holds no poison (R282). -/
def cleanRows (s : State) (g : Group) (f : LaneForm) (act rows : List Nat) : State :=
  if act.length = 32 ∨ zeroing f then
    { s with poisonRows := s.poisonRows.filter fun p => !(p.1 == g.gid && rows.contains p.2) }
  else s

/-- Run a lane instruction at the head of its group's queue: the checks at issue, then the effect. -/
def laneIssue (s : State) (reads writes : List Nat) (body : Group → QEntry → State) : State :=
  onG s fun g =>
    match g.queue with
    | [] => s
    | q :: _ =>
      match gate s g reads writes with
      | .hazard r => trapLane s g tHazard (0x800 + r) 0
      | .poison _ => consume s g 1 0 0
      | .go => body g q

/-- The effect of an in-pipe lane instruction: its rows are written, its flags are ORed into cr.fflags when it
retires, and it has entered (R34, R80). `k` gives a thread's results, one for each row, and its flags. -/
def lanePass (s : State) (f : LaneForm) (rows : List Nat) (k : Group → QEntry → Nat → List Dword × Flags)
    (g : Group) (q : QEntry) : State :=
  let act := actives g q f
  let out := fun t => k g q (srcThr f act t)
  let lanes := passRows g.lanes rows (zeroing f) act fun t => (out t).1
  let fl := unionFlags (act.map fun t => (out t).2)
  setG (cleanRows s g f act rows) (entered { orFlags g fl with lanes := lanes } f)

/-! ## Scalar instructions -/

/-- The first reserved register among those an instruction reads or writes (R40). -/
def scalarHazard (g : Group) (regs : List SReg) : Option SReg := regs.find? fun r => reserved g r.toNat

/-- Whether a value of s63 lies outside the private stack (R119). -/
def stackBad (g : Group) (v : Dword) : Bool := decide (v < g.stklimit) || decide (g.stkbase < v)

/-- Run a scalar instruction: HAZARD on a reserved register first (R40), then the effect. -/
def scalarIssue (s : State) (regs : List SReg) (body : Group → State) : State :=
  onG s fun g =>
    match scalarHazard g regs with
    | some r => trapScalar s g tHazard r.toNat
    | none => body g

/-- SPC goes to the next instruction (R37). -/
def nextSpc (g : Group) : Group := { g with spc := g.spc + 4, offS := none, target := .none, carried := [] }

/-- Write a scalar result and go on; a value outside the stack for s63 takes STACK (R119). -/
def scalarDone (s : State) (g : Group) (d : SReg) (v : Dword) : State :=
  if d = 63 ∧ stackBad g v then trapScalar s g tStack v.toNat
  else setG s (nextSpc (setScal g d.toNat v))

/-- Write the result of a scalar instruction whose other effects are in `new`: STACK leaves `old`, in which it has had
none (R9, R119). -/
def scalarDoneElse (old new : State) (g : Group) (d : SReg) (v : Dword) : State :=
  if d = 63 ∧ stackBad g v then onG old fun g => trapScalar old g tStack v.toNat
  else setG new (nextSpc (setScal g d.toNat v))

/-- A scalar instruction that computes one register from others. -/
def scalarOp (s : State) (d : SReg) (srcs : List SReg) (v : Group → Dword) : State :=
  scalarIssue s (srcs ++ [d]) fun g => scalarDone s g d (v g)

/-- A 13-bit immediate sign-extended to 64 bits (R71). -/
def imm13 (i : BitVec 13) : Dword := i.signExtend 64

/-! ## Micro-instructions -/

/-- A traversal micro register (R224). -/
def micro (r : Ray) (m : MReg) : Word := r.m.getD m.toNat 0
def setMicro (r : Ray) (m : Nat) (v : Word) : Ray := { r with m := r.m.set m v }

end Sys2Proof.Machine
end

