-- ==== Sys2Proof/Machine/Capture.lean ====
section
/-! DEFINITION. What an instruction of the lane stream names: its rows, the scalar registers it captures and
the one it writes, and the checks of SC.LRUN on them (R38, R39, R40, R45, R63). -/

namespace Sys2Proof.Machine

/-- The shared fields of a lane instruction, with its opcode; `none` for every other instruction. -/
def laneForm (i : Instr) : Option (Nat × LaneForm) := (laneParts i).map fun p => (p.1.toNat, p.2.1)

/-- Consecutive rows. -/
def rowsFrom (r n : Nat) : List Nat := tab n fun k => r + k

/-- The guard row. -/
def guardRows (f : LaneForm) : List Nat :=
  match f.guard with
  | none => []
  | some x => [x.reg.toNat]

/-- The row of an operand of class 00. -/
def opdRows (o : Opd) (n : Nat) : List Nat :=
  match o with
  | .lane r => rowsFrom r.toNat n
  | _ => []

/-- The rows that a lane instruction reads, and the rows that it writes (R44). -/
def laneRows (i : Instr) : List Nat × List Nat :=
  match i with
  | .movi f _ => ([] ++ guardRows f, [f.d.toNat])
  | .ckacc f flt =>
    let d := rowsFrom f.d.toNat (if flt then 2 else 1)
    (f.a.toNat :: guardRows f ++ d, d)
  | .cktest f flt =>
    let n := if flt then 2 else 1
    (rowsFrom f.a.toNat n ++ opdRows f.b n ++ (if flt then opdRows f.c 1 else []) ++ guardRows f, [])
  | .iaddx f _ =>
    ((readRows (infoOf 0x008) f), rowsFrom f.d.toNat (if f.ty = .n64 then 2 else 1))
  | .cvt f _ => (f.a.toNat :: guardRows f ++ [f.d.toNat], [f.d.toNat])
  | .mmac f fr =>
    (rowsFrom f.a.toNat 2 ++ opdRows f.b 2 ++ opdRows f.c 4 ++ [fr.toNat] ++ guardRows f, rowsFrom f.d.toNat 4)
  | .trace f => (rowsFrom f.a.toNat 5 ++ guardRows f, rowsFrom f.d.toNat 4)
  | .rast f => (guardRows f, rowsFrom f.d.toNat 3)
  | .samp f => (f.a.toNat :: guardRows f, rowsFrom f.d.toNat 2)
  | .sampg f => (f.a.toNat :: guardRows f, rowsFrom f.d.toNat 2)
  | .bara f m => ((if m.inn || m.out then [f.a.toNat] else []) ++ guardRows f, [])
  | .atom f m =>
    (f.a.toNat :: opdRows f.b 1 ++ (if m.aop = .cas then opdRows f.c 1 else []) ++ guardRows f, [f.d.toNat])
  | .sdesc f _ del => ((if del then [] else [f.a.toNat]) ++ guardRows f, [f.d.toNat])
  | i =>
    match laneForm i with
    | none => ([], [])
    | some (op, f) => (readRows (infoOf op) f, writeRows (infoOf op) f)

/-- The scalar registers captured after b, c and the mask, in the order of the entry (R275). -/
def extraScalars (i : Instr) : List SReg :=
  match i with
  | .rast f =>
    match f.b with
    | .scal n => tab 7 fun k => n + 1 + BitVec.ofNat 6 k
    | _ => []
  | .omrg _ sq _ => [sq]
  | _ => []

/-- The scalar register that a lane instruction writes; s0 is never reserved (R40, R389). -/
def scalarDest (i : Instr) : Option SReg :=
  let r : Option SReg := match i with
    | .bara f _ => some (f.d.setWidth 6)
    | .bartw f _ => some (f.d.setWidth 6)
    | .twait f _ _ _ => some (f.d.setWidth 6)
    | .cdisc f _ => some (f.d.setWidth 6)
    | .rast f =>
      match f.c with
      | .scal n => some n
      | _ => none
    | _ => none
  if r = some 0 then none else r

/-- The register that holds the execution mask: the prefix's, or em (R67, R69). -/
def maskReg (f : LaneForm) : SReg :=
  match f.pfx with
  | none => 61
  | some p => if p.mask = 0 then 61 else p.mask

/-- The scalar registers that an instruction names, the destination last (R38). -/
def namedScalars (i : Instr) (f : LaneForm) : List SReg :=
  let opd := fun (o : Opd) => match o with | .scal r => [r] | _ => []
  opd f.b ++ opd f.c ++ [maskReg f] ++ extraScalars i ++ (scalarDest i).toList

/-- The values that an entry captures: b, c, the mask, then the others (R39, R275). -/
def captures (g : Group) (i : Instr) (f : LaneForm) : List Dword :=
  let opd := fun (o : Opd) => match o with | .scal r => scal g r.toNat | _ => 0
  [opd f.b, opd f.c, scal g (maskReg f).toNat] ++ (extraScalars i).map fun r => scal g r.toNat

/-- A register name that exists for a group (R45). -/
def rowExists (k : Kernel) (r : Nat) : Bool := decide (r < k.near) || (decide (64 ≤ r) && decide (r < k.regs))

/-- The signed value of operand b or c, whatever the type (R318, R358). -/
def opdInt (g : Group) (q : QEntry) (i : Nat) (o : Opd) (t : Nat) : Int :=
  match o with
  | .lane r => (lane g r.toNat t).toInt
  | .scal _ => (capOf q i).toInt
  | .imm v => v.toInt

/-- Operand b or c as a 64-bit address or displacement: an immediate is sign-extended to 64 bits, whatever
the type (R326, R358). -/
def opdDword (g : Group) (q : QEntry) (i : Nat) (o : Opd) (t : Nat) : Dword := BitVec.ofInt 64 (opdInt g q i o t)

/-- A captured or immediate operand as an unsigned value; it names no thread. -/
def opdNat (caps : List Dword) (i : Nat) (o : Opd) : Nat :=
  match o with
  | .lane _ => 0
  | .scal _ => (caps.getD i 0).toNat
  | .imm v => (BitVec.ofInt 64 v.toInt : Dword).toNat

/-- The checks of SC.LRUN on captured and immediate values (R318, R351, R377, R418). -/
def valuesOk (i : Instr) (f : LaneForm) (caps : List Dword) : Bool :=
  let b := opdNat caps 0 f.b
  match i with
  | .bara _ m => !m.net || nbits b 4 2 == 0
  | .barw _ net => !net || nbits b 4 2 == 0
  | .bartw _ net => !net || nbits b 4 2 == 0
  | .qpush _ => decide (b < 16)
  | .qpop _ => decide (b < 16)
  | .sdesc _ k _ =>
    match k with
    | .stream => decide (b < 16)
    | .stash => decide (b < 8)
    | .obj => decide (b < 4096)
  | .idem _ fin => fin || (b % 4 == 0 && opdNat caps 1 f.c % 4 == 0)
  | _ => true

/-- Every row that an instruction names exists for the group (R45). -/
def rowsOk (k : Kernel) (i : Instr) : Bool := ((laneRows i).1 ++ (laneRows i).2).all (rowExists k)

/-- Run a lane instruction at the head of its group's queue: the checks at issue, then the effect (R44). -/
def laneExec (s : State) (i : Instr) (body : Group → QEntry → State) : State :=
  laneIssue s (laneRows i).1 (laneRows i).2 body

/-- A register-only lane instruction with one destination row (R312, R345). -/
def laneOp (s : State) (i : Instr) (f : LaneForm) (k : Group → QEntry → Nat → Dword × Flags) : State :=
  laneExec s i (lanePass s f (laneRows i).2 fun g q t => let r := k g q t; ([r.1], r.2))

/-- A lane instruction that works element by element on a, b and c (R66, R310). -/
def laneElems (s : State) (i : Instr) (f : LaneForm) (k : Nat → Nat → Nat → Nat × Flags) : State :=
  laneOp s i f fun g q t =>
    let a := opA g f t
    let b := opB g q f t
    let c := opC g q f t
    let rs := tab (elemCount f.ty) fun i => k (elem f.ty a i) (elem f.ty b i) (elem f.ty c i)
    (rowElems f.ty (rs.map Prod.fst), unionFlags (rs.map Prod.snd))

end Sys2Proof.Machine
end

