-- ==== Sys2Proof/Machine/Fetch.lean ====
section
/-! DEFINITION. The instruction caches, fetching the words of the three streams, the checks of SC.LRUN over a run, and the placing of a
word where the next step fetches it (R38, R60, R63, R73, R406). -/

namespace Sys2Proof.Machine

/-! ## The instruction cache of a quad (R60, R73) -/

/-- Blocks of 64 bytes that a quad's instruction cache of 512 KiB holds (R14). -/
def codeBlocks : Nat := 8192

/-- Whether the instruction cache that serves a core holds a block. -/
def codeHeld (s : State) (core line : Nat) : Bool :=
  s.mem.icache.any fun b => b.quad == quadOf core && b.line == line && b.here

/-- Room for one more block in a quad's cache: a full one loses a block of the device's choice (DESIGN CHOICE, log 44). -/
def codeRoom (s : State) (quad : Nat) : State :=
  let mine := s.mem.icache.filter fun b => b.quad == quad
  if mine.length < codeBlocks then s
  else
    let out := mine.getD ((Config.freeWord s.draws).toNat % max 1 mine.length) default
    { s with draws := s.draws + 1, mem := { s.mem with icache := s.mem.icache.filter fun b => b ≠ out } }

/-- A block comes into the cache that serves a core, or is on its way there. -/
def codePut (s : State) (core line : Nat) (here : Bool) : State :=
  let q := quadOf core
  let same := fun (b : CodeBlock) => b.quad == q && b.line == line
  if s.mem.icache.any same then
    { s with mem := { s.mem with icache := s.mem.icache.map fun b => if same b then { b with here := b.here || here } else b } }
  else
    let s := codeRoom s q
    { s with mem := { s.mem with icache := { quad := q, line := line, here := here } :: s.mem.icache } }

/-! ## Fetching -/

/-- What a fetch of one 32-bit unit finds. -/
inductive Unit32 where
  | word (w : Word)
  /-- The instruction cache does not hold its block (R60). -/
  | miss (line : Nat)
  /-- Mapped with x and not resident: handled as a miss (R60, R406). -/
  | away (pa : Nat)
  /-- Unmapped or without x: an instruction-fetch fault (R262). -/
  | bad (entry : Nat)
  /-- On a page that no program may reach (R268). -/
  | prot
  /-- Its page's tables cannot be read yet (R23). -/
  | far
  | quar (pa : Nat)
  deriving DecidableEq, Repr, Inhabited

/-- Fetch one unit at a code address for a core (R60, R111, R115, R262). A fault names the leaf entry that refused it, or 0
(R264). -/
def fetchUnit (s : State) (core asid va : Nat) : Unit32 :=
  match look s asid va needFetch with
  | .ok pa _ => if !codeHeld s core (pa / 64) then .miss (pa / 64) else .word (BitVec.ofNat 32 (cohNat s pa 4))
  | .absent pa => .away pa
  | .quar pa => .quar pa
  | .prot e => .bad e
  | .xlate _ e => .bad (if pteL e then e else 0)
  | .devOnly => .prot
  | .far => .far

/-- What a fetch of one lane instruction finds. -/
inductive LaneFetch where
  | got (pfx : Option Word) (w : LaneBits) (size : Nat)
  | miss (line : Nat)
  | wait (pa : Nat)
  | bad (va entry : Nat)
  | prot (va : Nat)
  | far
  | quar (va pa : Nat)
  deriving DecidableEq, Repr, Inhabited

/-- Fetch `n` successive units. -/
def fetchUnits (s : State) (core asid : Nat) : Nat → Nat → List Word → List Word ⊕ LaneFetch
  | _, 0, acc => .inl acc
  | va, n + 1, acc =>
    match fetchUnit s core asid va with
    | .word w => fetchUnits s core asid (va + 4) n (acc ++ [w])
    | .miss l => .inr (.miss l)
    | .away pa => .inr (.wait pa)
    | .bad e => .inr (.bad va e)
    | .prot => .inr (.prot va)
    | .far => .inr .far
    | .quar pa => .inr (.quar va pa)

/-- Three units as a lane word (R4). -/
def laneWord (us : List Word) : LaneBits := (us.getD 2 0 ++ us.getD 1 0 ++ us.getD 0 0 : BitVec 96)

/-- Fetch the lane instruction at an address: a prefix and its word are one instruction (R68). All its units are fetched
before it is judged: what stops the fetch of a later unit comes before the ILLEGAL of a second prefix (DESIGN CHOICE,
log 45). -/
def fetchLane (s : State) (core asid va : Nat) : LaneFetch :=
  match fetchUnits s core asid va 1 [] with
  | .inr x => x
  | .inl us =>
    let u := us.getD 0 0
    if u.extractLsb' 0 10 = 0x3FF then
      match fetchUnits s core asid (va + 4) 3 [] with
      | .inr x => x
      | .inl r => .got (some u) (laneWord r) 16
    else
      match fetchUnits s core asid (va + 4) 2 [u] with
      | .inr x => x
      | .inl r => .got none (laneWord r) 12

/-- The end of the first loop of SC.LRUN (R38). -/
inductive RunCheck where
  | ok (entries : List QEntry)
  | illegal (pc : Nat)
  | hazard (r : SReg) (pc : Nat)
  | miss (line : Nat)
  | wait (pa : Nat)
  | bad (va entry : Nat)
  | prot (va : Nat)
  | far
  | quar (va pa : Nat)
  deriving DecidableEq, Repr, Inhabited

/-- The instruction of a fetched word, where its encoding is legal and its rows exist for the group (R38, R45, R63). -/
def legalLane (k : Kernel) (pfx : Option Word) (w : LaneBits) : Option (Instr × LaneForm) :=
  match decodeLane pfx w with
  | none => none
  | some i =>
    match laneForm i with
    | none => none
    | some (_, f) => if rowsOk k i then some (i, f) else none

/-- Whether a register is set in a set of reservations; s0 never is (R389). -/
def inResv (res : Dword) (r : SReg) : Bool := r != 0 && res.getLsbD r.toNat

/-- A group as it stood when its SC.LRUN began: what the first loop reads (R38). -/
def startG (g : Group) : Group :=
  match g.begun with
  | none => g
  | some b => { g with resv := b.1, sregs := b.2 }

/-- The first loop of SC.LRUN over `n` instructions from an address: of each instruction the encoding, then HAZARD, then
the values that it captures (R38). -/
def checkRun (s : State) (g : Group) (k : Kernel) : Nat → Nat → Dword → List QEntry → RunCheck
  | 0, _, _, acc => .ok acc
  | n + 1, pc, res, acc =>
    match fetchLane s g.core g.asid pc with
    | .miss l => .miss l
    | .wait pa => .wait pa
    | .bad va e => .bad va e
    | .prot va => .prot va
    | .far => .far
    | .quar va pa => .quar va pa
    | .got pfx w size =>
      match legalLane k pfx w with
      | none => .illegal pc
      | some (i, f) =>
        match (namedScalars i f).find? (inResv res) with
        | some r => .hazard r pc
        | none =>
          if !valuesOk i f (captures g i f) then .illegal pc else
          let res' := match scalarDest i with | some d => res ||| resvBit d.toNat | none => res
          checkRun s g k n (pc + size) res'
            (acc ++ [{ addr := dw pc, pfx := pfx.getD 0, word := w, caps := captures g i f }])

/-- Bytes of an entry's instruction (R33). -/
def entrySize (q : QEntry) : Nat := if q.pfx = 0 then 12 else 16

/-- The instruction of a queue entry. -/
def entryInstr (q : QEntry) : Option Instr := decodeLane (if q.pfx = 0 then none else some q.pfx) q.word

/-- Entries of a lane queue (R32), and whether it has room: an unfinished sample keeps its entry, at which a trap
may still be taken (R258, R388). -/
def queueCap : Nat := 16
def queueFree (g : Group) : Bool := decide (g.queue.length + (if g.samp.isSome then 1 else 0) < queueCap)

/-- Enqueue the next instruction of a run: its scalar destination is reserved and LPC advances (R38). -/
def enqueueOne (g : Group) (q : QEntry) : Group :=
  let d := match entryInstr q with | some i => scalarDest i | none => none
  { g with
    queue := g.queue ++ [q]
    lpc := q.addr + BitVec.ofNat 64 (entrySize q)
    resv := match d with | some r => g.resv ||| resvBit r.toNat | none => g.resv }

/-- Enqueue entries while the queue has room; what is left waits (R38). -/
def enqueueAll (g : Group) : List QEntry → Group
  | [] => { g with run := [] }
  | q :: r => if queueFree g then enqueueAll (enqueueOne g q) r else { g with run := q :: r }

/-! ## Placing a word -/

/-- The pool page where a placed scalar word lies, and the virtual page that maps it. -/
def placePage : Nat := 0x40
def placeVa : Nat := 0x10000

/-- A kernel with every register, and a group of it on core 0, for a placed word. -/
def placeKernel : Kernel := { (default : Kernel) with near := 64, regs := 2048, crew := 1, scratch := 65536 }
def placeGroup (gid : Nat) : Group :=
  { (default : Group) with
    gid := gid, grid := 1, crew := 0, idx := 0, core := 0, asid := 0, spc := 0x10000, near := 64, depth := 2048
    sregs := [(61, 0xFFFFFFFF)], fmtword := 0x477, pipe := some 0, park := .none }

/-- Enabled units, a grid, a crew and a group for a placed word, where the state has none. -/
def placeUnits (s : State) : State :=
  let s := { s with pkg := { s.pkg with
    up := true
    dies := if s.pkg.dies = [] then [0] else s.pkg.dies
    quads := if s.pkg.quads = [] then [0] else s.pkg.quads
    nframes := max 1 s.pkg.nframes } }
  let s := match curG s with
    | some _ => s
    | none => { s with groups := placeGroup s.cur :: s.groups, nextGid := max s.nextGid (s.cur + 1) }
  let s := match findGrid s 1 with
    | some _ => s
    | none => { s with grids := { (default : Grid) with id := 1, k := placeKernel, placed := [0] } :: s.grids }
  match findCrew s 1 0 with
  | some _ => s
  | none =>
    { s with crews := { (default : Crew) with grid := 1, num := 0, core := 0, gids := [s.cur], size := 65536 } :: s.crews }

/-- Store bytes in the pool itself, with no copy of them elsewhere. -/
def placeBytes (m : Mem) (pa : Nat) : List Byte → Mem
  | [] => m
  | b :: r =>
    let m := { m with pool := m.pool.set 0 pa b, llc := m.llc.drop pa, loc := m.loc.drop pa }
    placeBytes m (pa + 1) r

/-- A placed page: mapped for reading, writing and execution, and resident. -/
def placeMap (s : State) (asid va page : Nat) : State :=
  let t : Tlb := { asid := asid, vpage := va / 4096, level := 0, page := page
                   pte := dw (2 ^ 58 + page * 4096 + 31) }
  let fr : Frame := { num := 0, page := page, dirty := false, used := 0, gone := false }
  { s with
    xl := { s.xl with tlb := t :: s.xl.tlb.filter fun x => !(x.asid == asid && x.vpage == va / 4096) }
    mem := { s.mem with frames := fr :: s.mem.frames.filter fun f => f.page ≠ page } }

/-- The group made ready to run its next instruction. -/
def placeReady (g : Group) : Group :=
  { g with park := .none, run := [], frozenS := false, frozenL := false, begun := none, age := 0, yielded := false, slow := false, slot := 0, answer := none, pipe := some (g.pipe.getD 0)
           fences := [], samp := none, exiting := false, ended := false, pairWait := none, infl := [] }

/-- A ray for a placed micro-instruction. -/
def placeRay (s : State) : Ray :=
  { (default : Ray) with
    id := s.curRay, gid := s.cur, asid := 0, prog := 0x20000, m := List.replicate 16 0
    lay0 := { (default : Layout) with bsize := 64, nsz := 64, width := 1 }
    org := [0, 0, 0], dir := [0, 0, 0], inv := [0, 0, 0], budget := 16, stage := .slot 0, buf := List.replicate 64 0 }

/-- Store an instruction's bits where the next step fetches it (R62, R70, R74): a scalar word at SPC, a lane
word with its captured values at the head of the lane queue, a micro word at a ray's pc. -/
def placeWord (s : State) (nbits w : Nat) : State :=
  let s := placeUnits s
  match curG s with
  | none => s
  | some g =>
    match streamOf nbits w with
    | .lane =>
      let p := tableLane w
      let caps := match decodeLane p.1 p.2 with
        | none => []
        | some i => match laneForm i with | none => [] | some (_, f) => captures g i f
      let q : QEntry := { addr := g.lpc, pfx := p.1.getD 0, word := p.2, caps := caps }
      let s := setG s { placeReady g with queue := q :: g.queue.tail }
      { s with agenda := .lane g.gid :: s.agenda.tail }
    | .scalar =>
      let s := placeMap s g.asid g.spc.toNat placePage
      let s := { s with mem := placeBytes s.mem (placePage * 4096 + g.spc.toNat % 4096) (wordBytes (BitVec.ofNat 32 w)) }
      let s := codePut s g.core (64 * placePage + g.spc.toNat % 4096 / 64) true
      let s := setG s (placeReady g)
      { s with agenda := .scalar g.gid :: s.agenda.tail }
    | .micro =>
      let r := (s.rays.find? fun r => r.id == s.curRay).getD (placeRay s)
      let r := { r with stage := .slot 0, kill := false }
      let words := List.replicate r.pc.toNat 0 ++ [BitVec.ofNat 32 w]
      let slot : ProgSlot := { core := 0, asid := r.asid, addr := r.prog, words := words, used := 0 }
      { s with
        rays := r :: s.rays.filter fun x => x.id ≠ s.curRay
        progs := slot :: s.progs.filter fun p => !(p.core == 0 && p.addr == r.prog && p.asid == r.asid)
        agenda := .micro s.curRay :: s.agenda.tail }

end Sys2Proof.Machine
end

