-- ==== Sys2Proof/Machine/LaneFp.lean ====
section
/-! DEFINITION. Floating instructions of the lane stream, conversions, estimates, checksums, and the chunked
reduction of MMAC and of the matrix engine (R97 to R110, R330, R333 to R343). -/

namespace Sys2Proof.Machine

/-- A floating element-wise instruction (R98, R335). -/
def laneFp (s : State) (i : Instr) (f : LaneForm) (op : Fmt → Rm → Nat → Nat → Nat → Nat × Flags) : State :=
  laneElems s i f fun x y z => op (fmtOf f.ty) (roundOf f) x y z

/-- FADD, FSUB, FMUL and FFMA (R335, R336). -/
def execFadd (f : LaneForm) (s : State) : Host.Outcome State Fault Refusal :=
  .next (laneFp s (.fadd f) f fun m rm x y _ => fadd m rm x y)
def execFsub (f : LaneForm) (s : State) : Host.Outcome State Fault Refusal :=
  .next (laneFp s (.fsub f) f fun m rm x y _ => fsub m rm x y)
def execFmul (f : LaneForm) (s : State) : Host.Outcome State Fault Refusal :=
  .next (laneFp s (.fmul f) f fun m rm x y _ => fmul m rm x y)
def execFfma (f : LaneForm) (s : State) : Host.Outcome State Fault Refusal :=
  .next (laneFp s (.ffma f) f fun m rm x y z => ffma m rm x y z)

/-- FMIN and FMAX (R342). -/
def execFmin (f : LaneForm) (s : State) : Host.Outcome State Fault Refusal :=
  .next (laneFp s (.fmin f) f fun m _ x y _ => fminmax false m x y)
def execFmax (f : LaneForm) (s : State) : Host.Outcome State Fault Refusal :=
  .next (laneFp s (.fmax f) f fun m _ x y _ => fminmax true m x y)

/-- FRND (R343). -/
def execFrnd (f : LaneForm) (s : State) : Host.Outcome State Fault Refusal :=
  .next (laneFp s (.frnd f) f fun m rm x _ _ => frnd m rm x)

/-- FCMP: bit i is the condition on element i (R337). -/
def fcmpRow (t : Ty) (c : FCond) (a b : Dword) : Dword × Flags :=
  let rs := tab (elemCount t) fun i => fcmp c (fmtOf t) (elem t a i) (elem t b i)
  (dw (packElems 1 (rs.map fun r => if r.1 then 1 else 0)), unionFlags (rs.map Prod.snd))

def execFcmp (f : LaneForm) (cond : FCond) (s : State) : Host.Outcome State Fault Refusal :=
  .next (laneOp s (.fcmp f cond) f fun g q t => fcmpRow f.ty cond (opA g f t) (opB g q f t))

/-- FDOT2 on one row: an f32x2 type makes one f32, a 16-bit type makes two (R339). -/
def fdot2Row (t : Ty) (rm : Rm) (a b c : Dword) : Dword × Flags :=
  let d := fun h => fdot2 (fmtOf t) rm (elem t a (2 * h)) (elem t b (2 * h)) (elem t a (2 * h + 1))
    (elem t b (2 * h + 1)) (nbits c.toNat (32 * h) 32)
  if t = .f32x2 then (dw (d 0).1, (d 0).2) else (dw ((d 0).1 + 2 ^ 32 * (d 1).1), (d 0).2 ||| (d 1).2)

/-- Operand c of FDOT2: an immediate is an f32 replicated into both halves (R339). -/
def fdot2C (g : Group) (q : QEntry) (f : LaneForm) (t : Nat) : Dword := operand g q .f32x2 1 f.c t

def execFdot2 (f : LaneForm) (s : State) : Host.Outcome State Fault Refusal :=
  .next (laneOp s (.fdot2 f) f fun g q t =>
    fdot2Row f.ty (roundOf f) (opA g f t) (opB g q f t) (fdot2C g q f t))

/-- The estimates (R105 to R107, R338). -/
def laneEst (s : State) (i : Instr) (f : LaneForm) (k : Est) : State :=
  laneElems s i f fun x _ _ => estElem k (fmtOf f.ty) x

def execFrcpe (f : LaneForm) (s : State) : Host.Outcome State Fault Refusal :=
  .next (laneEst s (.frcpe f) f .rcp)
def execFrsqe (f : LaneForm) (s : State) : Host.Outcome State Fault Refusal :=
  .next (laneEst s (.frsqe f) f .rsq)
def execFex2 (f : LaneForm) (s : State) : Host.Outcome State Fault Refusal :=
  .next (laneEst s (.fex2 f) f .ex2)
def execFlg2 (f : LaneForm) (s : State) : Host.Outcome State Fault Refusal :=
  .next (laneEst s (.flg2 f) f .lg2)
def execFsin (f : LaneForm) (s : State) : Host.Outcome State Fault Refusal :=
  .next (laneEst s (.fsin f) f .sin)
def execFcos (f : LaneForm) (s : State) : Host.Outcome State Fault Refusal :=
  .next (laneEst s (.fcos f) f .cos)

/-- The row of CVT: group p of the elements of a is converted, the other elements of d stay (R334). -/
def cvtRow (dt : Ty) (m : CvtMod) (rm : Rm) (a d : Dword) : Dword × Flags :=
  let ns := elemCount m.st
  let nd := elemCount dt
  let k := min ns nd
  let base := m.part.toNat * k
  let n := min (base + k) (max ns nd) - base
  let conv := fun j => convElem m.st dt rm m.nsat m.sat (elem m.st a (if nd < ns then base + j else j))
  let es := tab nd fun e =>
    let j := if ns < nd then e - base else e
    if (ns < nd → base ≤ e) ∧ j < n then (conv j).1 else elem dt d e
  (rowElems dt es, unionFlags (tab n fun j => (conv j).2))

def execCvt (f : LaneForm) (m : CvtMod) (s : State) : Host.Outcome State Fault Refusal :=
  .next (laneOp s (.cvt f m) f fun g _ t => cvtRow f.ty m (roundOf f) (opA g f t) (lane g f.d.toNat t))

/-! ## Checksums -/

/-- The modulus of the `.i` checksum (R108). -/
def ckP : Nat := 2 ^ 61 - 1

/-- The image of an operand in the `.i` form (R108). -/
def ckImg (t : Ty) (v : Dword) : Nat :=
  match t with
  | .s32 => nbits v.toNat 0 32
  | .n32 => nbits v.toNat 0 32
  | .f32 => nbits v.toNat 0 32
  | .tf6x10 => nbits v.toNat 0 60
  | _ => v.toNat

/-- Fold one value into a pair (R109). -/
def ckFold (p : Nat × Nat) (x : Val) : Nat × Nat :=
  let sv := dec .f64 p.1
  let ts := [sv, x]
  let t := (convF .f64 .rne true (sumV (zeroSign .rne ts) ts)).1
  match dec .f64 t with
  | .fin _ tq =>
    let r := ((sv.q.add x.q).sub tq)
    let cs := [dec .f64 p.2, .fin r.isNeg r]
    (t, (convF .f64 .rne true (sumV (zeroSign .rne cs) cs)).1)
  | _ => (t, p.2)

/-- CKACC (R330). -/
def execCkacc (f : LaneForm) (flt : Bool) (s : State) : Host.Outcome State Fault Refusal :=
  .next (laneExec s (.ckacc f flt) (lanePass s f (laneRows (.ckacc f flt)).2 fun g _ t =>
    let d := lane g f.d.toNat t
    let a := opA g f t
    if flt then
      let p := (tab (elemCount f.ty) fun i => dec (fmtOf f.ty) (elem f.ty a i)).foldl ckFold
        (d.toNat, (lane g (f.d.toNat + 1) t).toNat)
      ([dw p.1, dw p.2], 0)
    else ([dw ((d.toNat % ckP + ckImg f.ty a % ckP) % ckP)], 0)))

/-- Whether a pair of `.f` checksums passes (R110). -/
def ckPassF (s1 c1 s2 c2 : Nat) (tau : Dword) : Bool :=
  let tv := dec .f64 tau.toNat
  let a := dec .f64 s1
  let b := dec .f64 s2
  let v1 := sumV false [a, dec .f64 c1]
  let v2 := sumV false [b, dec .f64 c2]
  if a.isNan || b.isNan || tv.isNan || (tv.isNeg && !tv.isZero) then false
  else match v1, v2 with
    | .fin _ x, .fin _ y =>
      let m := if x.abs.lt y.abs then y.abs else x.abs
      (match tv with
       | .fin _ q => (x.sub y).abs.le (q.mul m)
       | _ => if m.isZero then Config.zeroInf tau else true)
    | _, _ =>
      match a, b with
      | .inf p, .inf q => p == q
      | _, _ => false

/-- What the handler of a failing `.f` thread gets (R331). -/
def ckDiffF (s1 c1 s2 c2 : Nat) : Nat :=
  let ts := [dec .f64 s1, dec .f64 c1, (dec .f64 s2).negate, (dec .f64 c2).negate]
  (convF .f64 .rne true (sumV (zeroSign .rne ts) ts)).1

/-- The verdict on one thread: `none` passes, `some v` fails with the handler's operand (R110, R331). -/
def ckTest (flt : Bool) (g : Group) (q : QEntry) (f : LaneForm) (t : Nat) : Option Dword :=
  let b := match f.b with | .lane r => r.toNat | _ => 0
  let x := (lane g f.a.toNat t).toNat
  let y := (lane g b t).toNat
  if flt then
    let c1 := (lane g (f.a.toNat + 1) t).toNat
    let c2 := (lane g (b + 1) t).toNat
    if ckPassF x c1 y c2 (opC g q f t) then none else some (dw (ckDiffF x c1 y c2))
  else if x % ckP = y % ckP then none
  else some (dw ((x % ckP + ckP - y % ckP) % ckP))

/-! ## The chunked reduction -/

/-- floor(log2 |x|) of a nonzero fraction. -/
def exponentOf (q : Q) : Int := log2Q q.n.natAbs q.d

/-- A term truncated toward zero to a multiple of 2^e, as that multiple, and whether bits were lost (R99). -/
def truncTerm (e : Int) (q : Q) : Int × Bool :=
  let y := q.scale (-e)
  let m := y.n.natAbs / y.d
  (if q.n < 0 then -(m : Int) else m, decide (y.n.natAbs % y.d ≠ 0))

/-- One chunk: sixteen products and the accumulator, summed as R99 states, with the specials of R100. R100 names nv, of
and nx alone: uf is raised by the final rounding, as R95 says of any result, and not by the truncation (DESIGN CHOICE, log
49). -/
def chunk (acc : Nat) (ps : List (Val × Val)) : Nat × Flags :=
  let av := dec .f32 acc
  let terms := (ps.map fun p => mulV p.1 p.2) ++ [av]
  let nv := ps.any (fun p => badProd p.1 p.2 || p.1.isSig || p.2.isSig) || av.isSig
  if terms.any Val.isNan then (Fmt.f32.nan, if nv then nvF else 0)
  else if clash terms then (Fmt.f32.nan, nvF)
  else match terms.find? fun v => !v.isFin with
    | some v => (enc .f32 v, 0)
    | none =>
      let nz := terms.filter fun v => !v.isZero
      match nz with
      | [] => (signBit .f32 (terms.all Val.isNeg), 0)
      | v :: r =>
        let e := r.foldl (fun m x => max m (exponentOf x.q)) (exponentOf v.q) - 28
        let ts := nz.map fun x => truncTerm e x.q
        let sum := ts.foldl (fun a x => a + x.1) 0
        let res := roundQ .f32 .rne true false ((Q.int sum).scale e)
        (res.1, res.2 ||| (if ts.any Prod.snd then nxF else 0))

/-- Reduce along K in chunks of sixteen, padded with products of +0 (R99). -/
def chunks (fuel : Nat) (acc : Nat) (ps : List (Val × Val)) : Nat × Flags :=
  match fuel with
  | 0 => (acc, 0)
  | n + 1 =>
    match ps with
    | [] => (acc, 0)
    | _ =>
      let z : Val := .fin false Q.zero
      let c := chunk acc ((ps ++ List.replicate 15 (z, z)).take 16)
      let r := chunks n c.1 (ps.drop 16)
      (r.1, c.2 ||| r.2)

/-! ## Format words -/

/-- Formats that an operand of a format word may have (R101). -/
def operandFmtOk (c : Nat) : Bool := [6, 7, 12, 13, 14, 15].contains c

/-- Whether a format word is valid (R101). -/
def fmtWordOk (w : Word) : Bool :=
  let x := w.toNat
  let a := nbits x 0 4
  let b := nbits x 4 4
  nbits x 14 18 == 0 && nbits x 12 2 != 3 && [4, 6, 7, 12, 13, 14, 15].contains (nbits x 8 4) &&
  operandFmtOk a && operandFmtOk b && ((a == 6) == (b == 6))

def fmtA (w : Word) : Fmt := (fmtCode (nbits w.toNat 0 4)).getD .bf16
def fmtB (w : Word) : Fmt := (fmtCode (nbits w.toNat 4 4)).getD .bf16
def fmtO (w : Word) : Nat := nbits w.toNat 8 4
def fmtPol (w : Word) : Nat := nbits w.toNat 12 2

end Sys2Proof.Machine
end

