-- ==== Sys2Proof/Machine/LaneInt.lean ====
section
/-! DEFINITION. Integer, bit, compare and move instructions of the lane stream (R322 to R325, R332, R344, R347
to R350, R353 to R356, R363, R368, R369, R373, R374, R422 to R424, R449). -/

namespace Sys2Proof.Machine

/-- An integer element as its type reads it (R96). -/
def readInt (t : Ty) (x : Nat) : Int := if isSigned t then toSigned (elemWidth t) x else (x % 2 ^ elemWidth t : Nat)

/-- An exact integer result as an element: wrapped, or clamped under `.sat` (R96). -/
def fitInt (t : Ty) (sat : Bool) (v : Int) : Nat :=
  if sat then clampTo (isSigned t) (elemWidth t) v else wrapTo (elemWidth t) v

/-- A lane instruction whose elements are integer functions of a, b and c (R96, R310). -/
def laneInt (s : State) (i : Instr) (f : LaneForm) (sat : Bool) (op : Int → Int → Int → Int) : State :=
  laneElems s i f fun x y z => (fitInt f.ty sat (op (readInt f.ty x) (readInt f.ty y) (readInt f.ty z)), 0)

/-- A lane instruction whose elements are bit functions of the unsigned elements of a, b and c. -/
def laneBits (s : State) (i : Instr) (f : LaneForm) (op : Nat → Nat → Nat → Nat → Nat) : State :=
  let w := elemWidth f.ty
  laneElems s i f fun x y z => (op w x y z % 2 ^ w, 0)

/-- A lane instruction that writes all 64 bits of its row from the 64 bits of its operands. -/
def laneRow (s : State) (i : Instr) (f : LaneForm) (op : Dword → Dword → Dword → Dword) : State :=
  laneOp s i f fun g q t => (op (opA g f t) (opB g q f t) (opC g q f t), 0)

/-- `n` bits given by a function of their position. -/
def bitsOf (n : Nat) (b : Nat → Bool) : Nat := packElems 1 (tab n fun k => if b k then 1 else 0)

/-- IADD and ISUB (R348). -/
def execIadd (f : LaneForm) (sat : Bool) (s : State) : Host.Outcome State Fault Refusal :=
  .next (laneInt s (.iadd f sat) f sat fun x y _ => x + y)
def execIsub (f : LaneForm) (sat : Bool) (s : State) : Host.Outcome State Fault Refusal :=
  .next (laneInt s (.isub f sat) f sat fun x y _ => x - y)

/-- IMUL and IMULH: the low and the high half of the exact product (R356). -/
def execImul (f : LaneForm) (sat : Bool) (s : State) : Host.Outcome State Fault Refusal :=
  .next (laneInt s (.imul f sat) f sat fun x y _ => x * y)
def execImulh (f : LaneForm) (s : State) : Host.Outcome State Fault Refusal :=
  .next (laneInt s (.imulh f) f false fun x y _ => (x * y) / 2 ^ elemWidth f.ty)

/-- IMAD (R354). -/
def execImad (f : LaneForm) (sat : Bool) (s : State) : Host.Outcome State Fault Refusal :=
  .next (laneInt s (.imad f sat) f sat fun x y z => x * y + z)

/-- IMIN and IMAX (R355). -/
def execImin (f : LaneForm) (s : State) : Host.Outcome State Fault Refusal :=
  .next (laneInt s (.imin f) f false fun x y _ => if x ≤ y then x else y)
def execImax (f : LaneForm) (s : State) : Host.Outcome State Fault Refusal :=
  .next (laneInt s (.imax f) f false fun x y _ => if x ≤ y then y else x)

/-- IABS (R347). -/
def execIabs (f : LaneForm) (sat : Bool) (s : State) : Host.Outcome State Fault Refusal :=
  .next (laneInt s (.iabs f sat) f sat fun x _ _ => if x < 0 then -x else x)

/-- The exact sum of IADDX (R349). -/
def addxSum (w a b c cbit : Nat) : Nat := a % 2 ^ w + b % 2 ^ w + (if c.testBit cbit then 1 else 0)

/-- IADDX: n32 leaves its carry in bit 32 of d, n64 in row d+1 (R349). -/
def execIaddx (f : LaneForm) (cbit : BitVec 6) (s : State) : Host.Outcome State Fault Refusal :=
  let w := elemWidth f.ty
  .next (laneExec s (.iaddx f cbit) (lanePass s f (laneRows (.iaddx f cbit)).2 fun g q t =>
    let v := addxSum w (opA g f t).toNat (opB g q f t).toNat (opC g q f t).toNat cbit.toNat
    ([dw (v % 2 ^ 64), dw (v / 2 ^ 64)], 0)))

/-- One 32-bit half of IDP4 (R353). -/
def dp4Half (signed sat : Bool) (a b c : Nat) (h : Nat) : Nat :=
  let rd := fun (w x : Nat) => if signed then toSigned w x else ((x % 2 ^ w : Nat) : Int)
  let p := fun k => rd 8 (nbits a (8 * (4 * h + k)) 8) * rd 8 (nbits b (8 * (4 * h + k)) 8)
  let v := rd 32 (nbits c (32 * h) 32) + p 0 + p 1 + p 2 + p 3
  if sat then clampTo signed 32 v else wrapTo 32 v

/-- IDP4 (R353). -/
def execIdp4 (f : LaneForm) (sat : Bool) (s : State) : Host.Outcome State Fault Refusal :=
  let sg := isSigned f.ty
  .next (laneRow s (.idp4 f sat) f fun a b c =>
    dw (dp4Half sg sat a.toNat b.toNat c.toNat 0 + 2 ^ 32 * dp4Half sg sat a.toNat b.toNat c.toNat 1))

/-- LOP3: operand a selects with weight 1, b with 2, c with 4 (R363). -/
def lop3Bits (lut w x y z : Nat) : Nat :=
  bitsOf w fun k => lut.testBit
    ((if x.testBit k then 1 else 0) + (if y.testBit k then 2 else 0) + (if z.testBit k then 4 else 0))

def execLop3 (f : LaneForm) (lut : BitVec 8) (s : State) : Host.Outcome State Fault Refusal :=
  .next (laneBits s (.lop3 f lut) f (lop3Bits lut.toNat))

/-- SHL, SHR and SRA: the count is taken modulo the width (R423). -/
def execShl (f : LaneForm) (s : State) : Host.Outcome State Fault Refusal :=
  .next (laneBits s (.shl f) f fun w x y _ => x <<< (y % w))
def execShr (f : LaneForm) (s : State) : Host.Outcome State Fault Refusal :=
  .next (laneBits s (.shr f) f fun w x y _ => x >>> (y % w))
def execSra (f : LaneForm) (s : State) : Host.Outcome State Fault Refusal :=
  .next (laneBits s (.sra f) f fun w x y _ => wrapTo w (toSigned w x / 2 ^ (y % w)))

/-- FSHL and FSHR over the pair a above b (R344). -/
def execFshl (f : LaneForm) (s : State) : Host.Outcome State Fault Refusal :=
  .next (laneBits s (.fshl f) f fun w x y z => ((x * 2 ^ w + y) <<< (z % w)) >>> w)
def execFshr (f : LaneForm) (s : State) : Host.Outcome State Fault Refusal :=
  .next (laneBits s (.fshr f) f fun w x y z => (x * 2 ^ w + y) >>> (z % w))

/-- BREV, POPC and CLZ (R325, R332, R374). -/
def execBrev (f : LaneForm) (s : State) : Host.Outcome State Fault Refusal :=
  .next (laneBits s (.brev f) f fun w x _ _ => bitsOf w fun k => x.testBit (w - 1 - k))
def execPopc (f : LaneForm) (s : State) : Host.Outcome State Fault Refusal :=
  .next (laneBits s (.popc f) f fun w x _ _ => popCount w x)
def execClz (f : LaneForm) (s : State) : Host.Outcome State Fault Refusal :=
  .next (laneBits s (.clz f) f fun w x _ _ => leadZeros w x)

/-- The field that BFE extracts (R322). -/
def bfeBits (signed : Bool) (w x pos len : Nat) : Nat :=
  let n := min len w
  let v := bitsOf n fun k => if pos + k < w then x.testBit (pos + k) else signed && x.testBit (w - 1)
  if n = 0 then 0 else if signed then wrapTo w (toSigned n v) else v

def execBfe (f : LaneForm) (s : State) : Host.Outcome State Fault Refusal :=
  .next (laneBits s (.bfe f) f fun w x y z => bfeBits (isSigned f.ty) w x (y % 256) (z % 256))

/-- BFI: b with bits [pos + len - 1 : pos] replaced by the low bits of a (R323). -/
def bfiBits (w a b pos len : Nat) : Nat :=
  bitsOf w fun k => if pos ≤ k ∧ k < pos + min len w then a.testBit (k - pos) else b.testBit k

def execBfi (f : LaneForm) (s : State) : Host.Outcome State Fault Refusal :=
  .next (laneBits s (.bfi f) f fun w x y z => bfiBits w x y (z % 256) (nbits z 8 8))

/-- BPERM: result byte i is byte c[4i+3:4i] of the pool b above a (R324). -/
def permBytes (n a b c : Nat) : Nat :=
  packElems 8 (tab n fun i => nbits (a + 2 ^ 64 * b) (8 * nbits c (4 * i) 4) 8)

def execBperm (f : LaneForm) (s : State) : Host.Outcome State Fault Refusal :=
  .next (laneRow s (.bperm f) f fun a b c => dw (permBytes (if f.ty = .n32 then 4 else 8) a.toNat b.toNat c.toNat))

/-- An integer condition (R350). -/
def icond (c : ICond) (x y : Int) : Bool :=
  match c with
  | .eq => decide (x = y)
  | .ne => decide (x ≠ y)
  | .lt => decide (x < y)
  | .le => decide (x ≤ y)
  | .gt => decide (y < x)
  | .ge => decide (y ≤ x)

/-- ICMP: bit i is the condition on element i (R350). -/
def execIcmp (f : LaneForm) (cond : ICond) (s : State) : Host.Outcome State Fault Refusal :=
  .next (laneRow s (.icmp f cond) f fun a b _ =>
    dw (bitsOf (elemCount f.ty) fun i => icond cond (elemInt f.ty a i) (elemInt f.ty b i)))

/-- SEL (R422). -/
def execSel (f : LaneForm) (k : BitVec 6) (s : State) : Host.Outcome State Fault Refusal :=
  .next (laneRow s (.sel f k) f fun a b c => rowOf f.ty (if c.getLsbD k.toNat then a else b).toNat)

/-- MOV (R368). -/
def execMov (f : LaneForm) (s : State) : Host.Outcome State Fault Refusal :=
  .next (laneRow s (.mov f) f fun _ b _ => rowOf f.ty b.toNat)

/-- The row that MOVI writes (R369). -/
def moviRow (t : Ty) (imm : Word) : Dword :=
  match t with
  | .s32 => imm.signExtend 64
  | .s64 => imm.signExtend 64
  | _ => imm.setWidth 64

def execMovi (f : LaneForm) (imm : Word) (s : State) : Host.Outcome State Fault Refusal :=
  .next (laneOp s (.movi f imm) f fun _ _ _ => (moviRow f.ty imm, 0))

/-- PACK (R373). -/
def packRow (t : Ty) (mode : PackMode) (a b : Dword) : Dword :=
  let n := elemCount t
  let pick := fun (o : Nat) =>
    dw (packElems (elemWidth t) (tab n fun i => if i < n / 2 then elem t a (2 * i + o) else elem t b (2 * (i - n / 2) + o)))
  match mode with
  | .lo => dw (nbits a.toNat 0 32 + 2 ^ 32 * nbits b.toNat 0 32)
  | .hi => dw (nbits a.toNat 32 32 + 2 ^ 32 * nbits b.toNat 32 32)
  | .even => pick 0
  | .odd => pick 1

def execPack (f : LaneForm) (mode : PackMode) (s : State) : Host.Outcome State Fault Refusal :=
  .next (laneRow s (.pack f mode) f fun a b _ => packRow f.ty mode a b)

/-- UNPK (R449). -/
def unpkRow (t : Ty) (hi : Bool) (a b : Dword) : Dword :=
  let n := elemCount t
  let h := if hi then n / 2 else 0
  dw (packElems (elemWidth t) (tab n fun i => if i % 2 = 0 then elem t a (h + i / 2) else elem t b (h + i / 2)))

def execUnpk (f : LaneForm) (hi : Bool) (s : State) : Host.Outcome State Fault Refusal :=
  .next (laneRow s (.unpk f hi) f fun a b _ => unpkRow f.ty hi a b)

/-- The value that SREG reads for a thread (R424). Thread t of a pass reads the counter t clk, of 1.25 ticks each,
after thread 0 (R7, R34, log 12). -/
def sregValue (s : State) (f : LaneForm) (sel : SregSel) (g : Group) (q : QEntry) (t : Nat) : Dword :=
  match sel with
  | .tid => dw t
  | .gtid => dw (32 * g.gid + t)
  | .gid => dw g.gid
  | .crew => dw g.crew
  | .core => dw g.core
  | .time => s.pkg.time + dw ((5 * (if f.uni then 0 else t) + Config.clkPhase s.pkg.time % 4) / 4)
  | .mask => (entryMask q).setWidth 64
  | .active => (maskOf (actives g q f)).setWidth 64

def execSreg (f : LaneForm) (sel : SregSel) (s : State) : Host.Outcome State Fault Refusal :=
  .next (laneOp s (.sreg f sel) f fun g q t => (sregValue s f sel g q t, 0))

end Sys2Proof.Machine
end

