-- ==== Sys2Proof/Machine/LaneCross.lean ====
section
/-! DEFINITION. Instructions that cross the threads of a group: moves, reductions, scans, votes and MMAC, and the
records of results that return later (R36, R43, R364 to R366, R452 to R456). -/

namespace Sys2Proof.Machine

/-! ## Results that return later -/

/-- Rows joined to a list of rows without repeats. -/
def addRows (old new : List Nat) : List Nat := old ++ new.filter fun r => !old.contains r

/-- The destination rows of inactive threads, zeroed under mz (R68). -/
def zeroInactive (g : Group) (f : LaneForm) (rows act : List Nat) : Cells Dword :=
  if zeroing f then
    (List.range 32).foldl (fun c t => if act.contains t then c else rows.foldl (fun c r => setLane c r t 0) c) g.lanes
  else g.lanes

/-- An instruction with no active thread enters and does nothing else; a scalar destination keeps its value
and its reservation ends (R40, R310). -/
def enterIdle (s : State) (g : Group) (f : LaneForm) (rows : List Nat) (sreg : Option SReg) : State :=
  let resv := match sreg with | some r => g.resv &&& ~~~(resvBit r.toNat) | none => g.resv
  setG (cleanRows s g f [] rows) (entered { g with lanes := zeroInactive g f rows [], resv := resv } f)

/-- A blank record of an instruction at the head of the queue, with its active threads. -/
def newInfl (s : State) (g : Group) (q : QEntry) (f : LaneForm) (kind : ResKind) (rows : List Nat) : Inflight :=
  { id := s.nextId, kind := kind, addr := q.addr, rows := rows, writes := [], sreg := none, sval := 0, flags := 0
    needs := 0, caps := q.caps, mask := maskOf (actives g q f), aux := 0, vpages := [], whole := false }

/-- A pending instruction enters: its rows become pending until its result returns (R43). -/
def enterPending (s : State) (g : Group) (f : LaneForm) (act : List Nat) (i : Inflight) : State :=
  let g := { g with
    lanes := zeroInactive g f i.rows act
    infl := g.infl ++ [{ i with whole := i.mask == BitVec.allOnes 32 || zeroing f }]
    pend := addRows g.pend i.rows }
  setG { s with nextId := s.nextId + 1 } (entered g f)

/-- Values for the rows of a list of threads, as the writes of a record. -/
def writesOf (rows threads : List Nat) (val : Nat → List Dword) : Cells Dword :=
  threads.foldl (fun c t => (rows.zip (val t)).foldl (fun c rv => c.put (32 * rv.1 + t) rv.2) c) []

/-- Write a record's values into the lane registers. -/
def applyWrites (lanes writes : Cells Dword) : Cells Dword := writes.foldl (fun c e => c.set 0 e.1 e.2) lanes

/-- A result returns: its rows are written and are pending no more, its flags reach cr.fflags, its scalar
result is written in the moment its reservation clears, and a group parked at a marker resumes when its
pending set is empty (R40, R43, R44, R80). -/
def returnResult (s : State) (g : Group) (i : Inflight) : Group :=
  let g := orFlags g i.flags
  let g := { g with
    lanes := applyWrites g.lanes i.writes
    pend := g.pend.filter fun r => !i.rows.contains r
    held := if i.kind = .samp then [] else g.held
    infl := g.infl.filter fun x => x.id ≠ i.id }
  let g := match i.sreg with
    | some r => { setScal g r.toNat i.sval with resv := g.resv &&& ~~~(resvBit r.toNat) }
    | none => g
  if g.park = .marker ∧ g.pend = [] then wakeG s g else g

/-- A result is delivered: rows that it rewrites in every thread hold no poison any more (R43, R282). -/
def deliver (s : State) (g : Group) (i : Inflight) : State :=
  let rest := s.poisonRows.filter fun p => !(p.1 == g.gid && i.rows.contains p.2)
  setG { s with poisonRows := if i.whole then rest else s.poisonRows } (returnResult s g i)

/-! ## Moves -/

/-- XGET: the thread named by b (R452). -/
def execXget (f : LaneForm) (s : State) : Host.Outcome State Fault Refusal :=
  .next (laneOp s (.xget f) f fun g q t => (rowOf f.ty (opA g f ((opB g q f t).toNat % 32)).toNat, 0))

/-- XBCAST: the thread named by a captured or immediate value (R452). -/
def execXbcast (f : LaneForm) (s : State) : Host.Outcome State Fault Refusal :=
  .next (laneOp s (.xbcast f) f fun g q _ => (rowOf f.ty (opA g f ((opB g q f 0).toNat % 32)).toNat, 0))

/-- The row of XPUT: each active thread, ascending, writes the thread that b names; a thread that receives
nothing keeps its row, or is zeroed when inactive under mz (R452). -/
def xputRow (g : Group) (q : QEntry) (f : LaneForm) (act : List Nat) : Cells Dword :=
  act.foldl (fun c t => setLane c f.d.toNat ((opB g q f t).toNat % 32) (rowOf f.ty (opA g f t).toNat))
    (zeroInactive g f [f.d.toNat] act)

/-- The threads whose elements XPUT writes or zeroes. -/
def xputThrs (g : Group) (q : QEntry) (f : LaneForm) (act : List Nat) : List Nat :=
  (act.map fun t => (opB g q f t).toNat % 32) ++ if zeroing f then (List.range 32).filter fun t => !act.contains t else []

def execXput (f : LaneForm) (s : State) : Host.Outcome State Fault Refusal :=
  .next (laneExec s (.xput f) fun g q =>
    let act := actives g q f
    let all := (List.range 32).filter (xputThrs g q f act).contains
    setG (if all.length = 32 then cleanRows s g f all [f.d.toNat] else s) (entered { g with lanes := xputRow g q f act } f))

/-! ## Reductions, scans and votes -/

/-- The sum of floating elements, exact and rounded once (R454): NaN and infinities as R100, an exact zero −0
when every term is −0, or under RDN (log 18). -/
def redAddF (m : Fmt) (rm : Rm) (xs : List Nat) : Nat × Flags :=
  let ts := xs.map (dec m)
  roundSum m rm (anySig ts) (ts.all (fun v => v.isZero && v.isNeg) || rm == .rdn) ts

/-- A floating minimum or maximum of one element alone: a NaN becomes the canonical one, and a signalling one sets nv (R88,
R95). -/
def minmaxOne (m : Fmt) (x : Nat) : Nat × Flags :=
  match dec m x with
  | .nan sig => (m.nan, if sig then nvF else 0)
  | _ => (x, 0)

/-- Combine the elements of a nonempty list of threads (R454). -/
def redElems (t : Ty) (op : ROp) (rm : Rm) (xs : List Nat) : Nat × Flags :=
  let w := elemWidth t
  match xs with
  | [] => (0, 0)
  | x :: r =>
    if isFloatTy t then
      match op with
      | .add => redAddF (fmtOf t) rm xs
      | .min => r.foldl (fun a y => let m := fminmax false (fmtOf t) a.1 y; (m.1, a.2 ||| m.2)) (minmaxOne (fmtOf t) x)
      | .max => r.foldl (fun a y => let m := fminmax true (fmtOf t) a.1 y; (m.1, a.2 ||| m.2)) (minmaxOne (fmtOf t) x)
      | _ => (x, 0)
    else
      let fold := fun (k : Nat → Nat → Nat) => r.foldl k x
      (match op with
       | .add => fold (fun a b => (a + b) % 2 ^ w)
       | .min => fold (fun a b => if readInt t a ≤ readInt t b then a else b)
       | .max => fold (fun a b => if readInt t a ≤ readInt t b then b else a)
       | .and => fold (· &&& ·)
       | .or => fold (· ||| ·)
       | .xor => fold (· ^^^ ·), 0)

/-- The row of a reduction over threads, element by element (R454). -/
def redRow (t : Ty) (op : ROp) (rm : Rm) (xs : List Dword) : Dword × Flags :=
  let rs := tab (elemCount t) fun i => redElems t op rm (xs.map fun x => elem t x i)
  (rowElems t (rs.map Prod.fst), unionFlags (rs.map Prod.snd))

/-- The identity that an exclusive scan gives its first active thread (R455). -/
def redIdentity (t : Ty) (op : ROp) : Dword :=
  let w := elemWidth t
  let e : Nat :=
    match op with
    | .add => 0
    | .or => 0
    | .xor => 0
    | .and => 2 ^ w - 1
    | .min =>
      if isFloatTy t then (fmtOf t).infBits else if isSigned t then 2 ^ (w - 1) - 1 else 2 ^ w - 1
    | .max =>
      if isFloatTy t then signBit (fmtOf t) true + (fmtOf t).infBits else if isSigned t then 2 ^ (w - 1) else 0
  rowElems t (List.replicate (elemCount t) e)

/-- XRED: the result is pending in d of every active thread (R454). -/
def execXred (f : LaneForm) (op : ROp) (s : State) : Host.Outcome State Fault Refusal :=
  .next (laneExec s (.xred f op) fun g q =>
    match actives g q f with
    | [] => enterIdle s g f [f.d.toNat] none
    | act =>
      let r := redRow f.ty op (roundOf f) (act.map (opA g f))
      enterPending s g f act
        { newInfl s g q f .reduce [f.d.toNat] with writes := writesOf [f.d.toNat] act (fun _ => [r.1]), flags := r.2 })

/-- XSCAN: each active thread gets the operation over the active threads up to it (R455). -/
def scanRow (f : LaneForm) (op : ROp) (excl : Bool) (g : Group) (q : QEntry) (t : Nat) : Dword × Flags :=
  match (actives g q f).filter fun u => if excl then decide (u < t) else decide (u ≤ t) with
  | [] => (redIdentity f.ty op, 0)
  | us => redRow f.ty op (roundOf f) (us.map (opA g f))

def execXscan (f : LaneForm) (op : ROp) (excl : Bool) (s : State) : Host.Outcome State Fault Refusal :=
  .next (laneOp s (.xscan f op excl) f fun g q t => scanRow f op excl g q t)

/-- The result of a vote over the active threads (R456). -/
def voteWord (mode : VoteMode) (k : Nat) (g : Group) (f : LaneForm) (act : List Nat) : Word :=
  let bit := fun t => (opA g f t).getLsbD k
  match mode with
  | .all => if act.all bit then 1 else 0
  | .any => if act.any bit then 1 else 0
  | .ballot => maskOf (act.filter bit)
  | .eq => if act.all fun t => opA g f t == opA g f (act.headD 0) then 1 else 0

def execXvote (f : LaneForm) (mode : VoteMode) (k : BitVec 6) (s : State) : Host.Outcome State Fault Refusal :=
  .next (laneOp s (.xvote f mode k) f fun g q _ =>
    ((voteWord mode k.toNat g f (actives g q f)).setWidth 64, 0))

/-! ## MMAC -/

/-- Slot `k` of a thread's A or B fragment whose first row is `row` (R365). -/
def fragSlot (m : Fmt) (g : Group) (row t k : Nat) : Nat :=
  match m with
  | .f16 => elem .f16x4 (lane g (row + k / 4) t) (k % 4)
  | .bf16 => elem .bf16x4 (lane g (row + k / 4) t) (k % 4)
  | .tf6 => elem .tf6x10 (lane g row t) k
  | _ => elem .n8x8 (lane g row t) k

/-- A fragment value, decoded (R92): a slot of an inactive thread reads as +0 (R366). -/
def fragVal (m : Fmt) (g : Group) (act : List Nat) (row r k : Nat) : Val :=
  let t := r + 16 * (k / 8)
  if act.contains t then decOperand m (fragSlot m g row t (k % 8)) else .fin false Q.zero

/-- An element of C (R365). -/
def fragC (g : Group) (act : List Nat) (row i j : Nat) : Nat :=
  let t := i + 16 * (j / 8)
  if act.contains t then elem .f32x2 (lane g (row + (j % 8) / 2) t) (j % 2) else 0

/-- An element of D and its flags (R366). -/
def fragD (w : Word) (g : Group) (act : List Nat) (a b c i j : Nat) : Nat × Flags :=
  chunk (fragC g act c i j)
    (tab 16 fun k => (fragVal (fmtA w) g act a i k, fragVal (fmtB w) g act b j k))

/-- Whether the format words of two active threads differ (R102). -/
def fmtDiffer (g : Group) (row : Nat) (act : List Nat) : Bool :=
  act.any fun t => (lane g row t).setWidth 32 != ((lane g row (act.headD 0)).setWidth 32 : Word)

/-- MMAC: the vote on the format word comes before entry, and rows d to d+3 are pending (R102, R366). -/
def execMmac (f : LaneForm) (freg : LReg) (s : State) : Host.Outcome State Fault Refusal :=
  .next (laneExec s (.mmac f freg) fun g q =>
    let rows := rowsFrom f.d.toNat 4
    match actives g q f with
    | [] => enterIdle s g f rows none
    | t0 :: r =>
      let act := t0 :: r
      let w : Word := (lane g freg.toNat t0).setWidth 32
      if fmtDiffer g freg.toNat act || !fmtWordOk w || fmtO w != 4 then trapLane s g tFmtdiv 0 t0
      else
        let b := match f.b with | .lane x => x.toNat | _ => 0
        let c := match f.c with | .lane x => x.toNat | _ => 0
        let d := fun i j => fragD w g act f.a.toNat b c i j
        let val := fun t => tab 4 fun p =>
          dw ((d (t % 16) (8 * (t / 16) + 2 * p)).1 + 2 ^ 32 * (d (t % 16) (8 * (t / 16) + 2 * p + 1)).1)
        let fl := unionFlags ((tab 16 fun i => unionFlags (tab 16 fun j => (d i j).2)))
        enterPending s g f act { newInfl s g q f .mmac rows with writes := writesOf rows act val, flags := fl })

end Sys2Proof.Machine
end

