-- ==== Sys2Proof/Machine/Reqs.lean ====
section
/-! DEFINITION. Line requests: request slots, budgets, the order in which a home may serve them, and what
serving does in the L1, at the home and to tile objects (R28, R29, R122 to R131, R136 to R152, log 7). -/

namespace Sys2Proof.Machine

/-! ## Slots -/

/-- Request slots that a core holds, in all and against one slice or channel (R131). -/
def slotsHeld (s : State) (core : Nat) : Nat := (s.reqs.filter fun r => r.core == core).length
def slotsAtSlice (s : State) (core q : Nat) : Nat :=
  (s.reqs.filter fun r => r.core == core && homeSlice s (r.line / 64) == q).length
def slotsAtChan (s : State) (core c : Nat) : Nat :=
  (s.reqs.filter fun r => r.core == core && chanOf s (r.line / 64) == some c).length

/-- The issue test of R132 for a list of lines. -/
def slotsOk (s : State) (core : Nat) (lines : List Nat) : Bool :=
  decide (slotsHeld s core + lines.length ≤ 3072) &&
  lines.all fun l =>
    let q := homeSlice s (l / 64)
    let n := (lines.filter fun x => homeSlice s (x / 64) == q).length
    decide (slotsAtSlice s core q + n ≤ 768) &&
    (match chanOf s (l / 64) with
     | none => true
     | some c => decide (slotsAtChan s core c + (lines.filter fun x => chanOf s (x / 64) == some c).length ≤ 768))

/-! ## Reaching the homes -/

/-- An access of a line reaches its home, where dirty copies of it are written back (R124). -/
def atHome (s : State) (line : Nat) : State :=
  let s := atSlice s line
  if dirtyCount s noCore line = 0 then s else cleanLine s line

/-- The write-backs of dirty copies of some lines that a unit's accesses make: demand traffic, whatever the class of the accesses
(R27, R124); `false` while they wait. -/
def recallsPaid (s : State) (who : Asker) (lines : List Nat) : State × Bool :=
  match lines.flatMap fun l => (List.replicate (dirtyCount s noCore l) (wbResources s l)).flatten with
  | [] => (s, true)
  | rs =>
    let r := claim s who clsDemand 64 rs
    if r.2 then (lines.foldl (fun s l => if dirtyCount s noCore l = 0 then s else cleanLine s l) r.1, true) else r

/-- A unit's accesses of some lines, each charged and counted at its home, with the write-backs of dirty copies that it
makes; `false` while they have to wait (R23, R27 to R29). -/
def reach (s : State) (who : Asker) (cls : Nat) (lines : List Nat) : State × Bool :=
  if !sendable s lines then (s, false)
  else
    let w := if cls = clsDemand then (s, true) else recallsPaid s who lines
    if !w.2 then w else
    let s := w.1
    let r := claim s who cls 64 (lines.flatMap (accessResources s noCore))
    if r.2 then (lines.foldl atHome r.1, true) else r

/-- The same for a unit of a core, whose line requests need free slots (R131). -/
def reachCore (s : State) (core : Nat) (who : Asker) (cls : Nat) (lines : List Nat) : State × Bool :=
  if slotsOk s core lines then reach s who cls lines else (s, false)

/-- Write back some dirty stash lines of a core, one after another, each once it has been charged as demand traffic; what
does not fit waits (R27, R29, R121, R131). The access of the line's home writes the copy back. -/
def drainLines (s : State) (core : Nat) (who : Asker) : List (Nat × Nat) → State × Bool
  | [] => (s, true)
  | f :: r =>
    let x := reachCore s core who clsDemand [f.2]
    if x.2 then drainLines x.1 core who r else x

/-- Write back the dirty lines of some stash entries of a crew; `false` while some wait. -/
def drainStash (s : State) (c : Crew) (who : Asker) (p : Stash → Bool) : State × Bool :=
  drainLines s c.core who ((c.stash.filter p).flatMap dirtyStash)

/-! ## Order -/

/-- Whether a scope reaches beyond the core (R123). -/
def wideScope : Scope → Bool
  | .group => false
  | .core => false
  | _ => true

/-- Acquire, release, read and write requests (R141, R147). -/
def isAcquire (r : Req) : Bool :=
  match r.kind with
  | .load => r.ord != .plain
  | .atomic => true
  | _ => false
def isRelease (r : Req) : Bool :=
  match r.kind with
  | .store => r.ord != .plain
  | .atomic => true
  | _ => false
def isRead (r : Req) : Bool :=
  match r.kind with
  | .load => true
  | .atomic => true
  | .red => true
  | _ => false

/-- Whether a request writes. -/
def isWrite (r : Req) : Bool :=
  match r.kind with
  | .store => true
  | .atomic => true
  | .red => true
  | _ => false

/-- Whether two cores lie in one instance of a scope (R137). -/
def sameInst (s : State) (sc : Scope) (a b : Nat) : Bool :=
  match sc with
  | .group => a == b
  | .core => a == b
  | .quad => quadOf a == quadOf b
  | .die => dieOf s a == dieOf s b
  | _ => true

/-- The cores of an instance of a scope below the package (R137). -/
def instCores (s : State) (sc : Scope) (core : Nat) : List Nat :=
  match sc with
  | .core => [core]
  | .quad => tab 4 fun k => 4 * quadOf core + k
  | .die => (List.range (4 * s.pkg.quads.length)).filter fun c => dieOf s c == dieOf s core
  | _ => []

/-- An agent at a moment (R134, R135): a group's scalar stream or threads of its lane stream, the number below which the
records that the group has made precede it, and the number below which lane requests stand in the scalar stream's order. -/
structure Agent where
  gid : Nat
  grid : Nat
  core : Nat
  scalar : Bool
  mask : Word
  upto : Nat
  linked : Nat
  deriving DecidableEq, Repr, Inhabited

/-- The scalar stream, or threads, of a group now, and the agent that made a request. -/
def agentOf (s : State) (g : Group) (scalar : Bool) (mask : Word) : Agent :=
  { gid := g.gid, grid := g.grid, core := g.core, scalar := scalar, mask := mask, upto := s.nextId, linked := g.linked }
def reqMask (r : Req) : Word := if r.scalar then 0 else maskOf (r.parts.map (·.thr))
def reqAgent (s : State) (r : Req) : Agent :=
  { gid := r.gid, grid := r.grid, core := r.core, scalar := r.scalar, mask := reqMask r, upto := r.id
    linked := ((findGroup s.groups r.gid).map (·.linked)).getD 0 }

/-- A request as an access that is performed. -/
def reqAccess (r : Req) : Access :=
  { gid := r.gid, grid := r.grid, scalar := r.scalar, mask := reqMask r, id := r.id, ok := r.ok, scope := r.scope }

/-- An agent's access of a kind at a scope. -/
def accessOf (a : Agent) (ok : Nat) (scope : Scope) : Access :=
  { gid := a.gid, grid := a.grid, scalar := a.scalar, mask := a.mask, id := a.upto, ok := ok, scope := scope }

/-- Whether an access precedes an agent in program order (R135). -/
def before (a : Agent) (x : Access) : Bool :=
  x.gid == a.gid && decide (x.id ≤ a.upto) &&
  (if a.scalar then x.scalar || decide (x.id < a.linked) else x.scalar || (x.mask &&& a.mask) != 0)

/-- Whether what an agent releases covers a write whose message or invalidation is on its way: one that an earlier access
of its own, on a page of a kind that it orders, made or observed, or one that its core's instance, or an agent of its group,
has released (R141, R142, R145, R146). -/
def covers (a : Agent) (uo : Bool) (c : Cover) : Bool :=
  c.cores.contains a.core || c.gids.contains a.gid || c.accs.any fun x => before a x && (uo || x.ok != kindUo)

/-- Whether some core of a list lies in an agent's instance of a scope (R137). -/
def reaches (s : State) (a : Agent) (sc : Scope) (to' : List Nat) : Bool := to'.any (sameInst s sc a.core)

/-- Whether something that a release of an agent at a scope covers is on its way to a core of its instance (R141, R145,
R169). -/
def releaseStands (s : State) (a : Agent) (sc : Scope) : Bool :=
  (underway s).any fun x => covers a false x.1 && reaches s a sc x.2

/-- The narrower of two scopes (R147). -/
def scopeRank : Scope → Nat
  | .group => 0 | .core => 1 | .quad => 2 | .die => 3 | .pkg => 4 | .pod => 5 | .sys => 6
def narrower (a b : Scope) : Scope := if scopeRank a ≤ scopeRank b then a else b

/-- The agent of a fence. -/
def fenceAgent (s : State) (g : Group) (f : FenceRec) : Agent := { agentOf s g f.scalar f.mask with upto := f.upto }

/-- Whether a fence covers something that is on its way to some cores: the narrower of the fence's scope and the access's
scope governs which agents the order concerns (R147). -/
def fenceCovers (s : State) (g : Group) (f : FenceRec) (x : Cover × List Nat) : Bool :=
  let a := fenceAgent s g f
  (x.1.accs.any fun y => before a y && (f.m.uo || y.ok != kindUo) && reaches s a (narrower f.m.scope y.scope) x.2) ||
  ((x.1.cores.contains g.core || x.1.gids.contains g.gid) && reaches s a f.m.scope x.2)

/-- Whether a release fence holds back a write of an agent to a page of a kind: something that the fence covers is on its
way (R142, R147). -/
def writeFenced (s : State) (a : Agent) (ok : Nat) : Bool :=
  (underway s).any fun x => x.1.fenced.any fun f =>
    f.gid == a.gid && f.scalar == a.scalar && (f.scalar || (f.mask &&& a.mask) != 0) && (f.uo || ok != kindUo) &&
    decide (f.upto ≤ a.upto) && reaches s a f.scope x.2

/-- Change the covers of what is on its way. -/
def mapCovers (s : State) (f : Nat → Cover × List Nat → Cover) : State :=
  { s with
    mem := { s.mem with invals := s.mem.invals.map fun i => { i with cov := f i.line (i.cov, [i.core]) } }
    coh := { s.coh with msgs := s.coh.msgs.map fun m => { m with cov := f m.line (m.cov, m.targets) } } }

/-- An access that read a line depends on the writes of it whose messages and invalidations are still on their way: a later
release that covers the read waits for them too (R145, R146). -/
def dependOn (s : State) (x : Access) (line : Nat) : State :=
  mapCovers s fun l c => if l = line ∧ !c.1.accs.contains x then { c.1 with accs := x :: c.1.accs } else c.1

/-- A cover that concerns every release of some cores and groups too. -/
def Cover.widen (c : Cover) (cs gs : List Nat) : Cover :=
  c.join { accs := [], cores := cs, gids := gs, fenced := [] }

/-- What an agent has released at a scope concerns every release of the scope's instance: of the cores in it, and of the
agent's own group at every scope (R137, R145, R146). -/
def spread (s : State) (a : Agent) (sc : Scope) : State :=
  mapCovers s fun _ c => if covers a false c.1 then c.1.widen (instCores s sc a.core) [a.gid] else c.1

/-- What concerns the releases of a core concerns those of its groups wherever they go on (R146, R281). -/
def followCore (s : State) (core : Nat) (gids : List Nat) : State :=
  mapCovers s fun _ c => if c.1.cores.contains core then c.1.widen [] gids else c.1

/-- Whether two requests belong to one agent, or to streams that R135 links. -/
def sameAgent (g : Group) (r' r : Req) : Bool :=
  match r'.scalar, r.scalar with
  | true, true => true
  | true, false => true
  | false, true => decide (r'.id < g.linked)
  | false, false => r'.parts.any fun p => r.parts.any fun p' => p.thr == p'.thr

/-- Whether an earlier request of a group must be performed before a later one (R140, R141). -/
def poOrdered (r' r : Req) : Bool :=
  (r'.ok == kindSo && r.ok == kindSo) ||
  (r'.ok != kindUo && r.ok != kindUo && (isAcquire r' || isRelease r))

/-- Whether threads of a group still have a node load or a sampler fetch to make, of an instruction that entered before a
number was given out: these are plain reads of the threads (R156). -/
def engineReads (s : State) (gid : Nat) (mask : Word) (upto : Nat) : Bool :=
  s.rays.any (fun r => r.gid == gid && mask.getLsbD r.thr && decide (r.infl < upto)) ||
  (match (findGroup s.groups gid).bind (·.samp) with
   | some m => (m.act &&& ~~~m.done &&& mask) != 0 && decide (m.infl < upto)
   | none => false)

/-- Whether messages that writes of some threads of a group sent are on their way: till they have arrived these writes are not
performed (R156, R169). -/
def writesOnWay (s : State) (g : Group) (mask : Word) : Bool :=
  s.coh.msgs.any fun m => m.gid == g.gid && m.cov.accs.any (before (agentOf s g false mask))

/-- Whether a request is ordered after the node loads and sampler fetches that its thread has still to make: it is a release,
or it lies on a so page, where theirs may lie too (R140, R141, R156, log 7). -/
def afterReads (r : Req) : Bool := !r.scalar && ((isRelease r && r.ok != kindUo) || r.ok == kindSo)

/-! ## Room in the L1 (R122) -/

/-- Lines of 64 bytes that an L1 of 256 KiB holds, and those that a holder has now; a line of images is named by 2^52 + its
line of virtual addresses. -/
def l1Lines : Nat := 4096
def imageLine (vline : Nat) : Nat := 2 ^ 52 + vline
def linesHeld (s : State) (core : Nat) : List Nat :=
  let lines := (s.mem.l1.filter fun l => l.core == core).map (·.line)
  let images := (s.coh.images.filter fun i => i.core == core).map fun i => imageLine i.vline
  (lines ++ images).eraseDups

/-- Whether a holder has room for some lines: a full L1 takes no line until a turn has evicted one (R122, R133). A quad unit holds
as many lines as an L1, of which the spec says nothing (DESIGN CHOICE, log 44). -/
def l1Fits (s : State) (core : Nat) (lines : List Nat) : Bool :=
  decide (s.mem.l1.length + s.coh.images.length + lines.length ≤ l1Lines) ||
  decide ((linesHeld s core ++ lines).eraseDups.length ≤ l1Lines)

/-- The unit where an atomic executes and leaves the line: the core's L1 at group and core scope, the quad unit at quad
scope (numbered 2^12 + quad), and else none (R150, R316). -/
def quadUnit (core : Nat) : Nat := 4096 + quadOf core
def atomHolder (r : Req) : Option Nat :=
  if r.rq = .nc then none
  else match r.scope with
    | .group => some r.core
    | .core => some r.core
    | .quad => some (quadUnit r.core)
    | _ => none

/-- Where a request allocates its line, if anywhere. -/
def holderOf (r : Req) : Option Nat :=
  match r.kind with
  | .load => if r.rq = .nc then none else some r.core
  | .store => if r.rq = .own ∨ r.rq = .si then some r.core else none
  | .atomic => atomHolder r
  | .red => atomHolder r
  | .pref => if r.row = 0 then some r.core else none
  | _ => none

/-- Whether the holder of a request has room for its line, and for the images that its parts read. -/
def roomFor (s : State) (r : Req) : Bool :=
  match holderOf r with
  | none => true
  | some h => l1Fits s h (r.line :: if r.kind = .load then r.parts.map fun p => imageLine (p.va.toNat / 64) else [])

/-- Whether a request may be served now: its line has room where it is allocated (R122), a remote home can be reached (R23), every request that must come first has been
served, its threads have made the node loads and fetches that come first (R156), what a release or a write behind a release
fence covers has reached the cores of its instance (R136, R140, R141, R145, R147, R157, R169), and a load finds no message of
its core's own write under way (R170). -/
def mayServe (s : State) (r : Req) : Bool :=
  let g := (findGroup s.groups r.gid).getD default
  roomFor s r && inReach s [r.line] &&
  (s.reqs.all fun r' =>
    !(decide (r'.id < r.id) && decide (r'.stage < 2) && r'.kind != .pref &&
      ((r'.core == r.core && r'.line == r.line) ||
       (r'.gid == r.gid && sameAgent g r' r && poOrdered r' r)))) &&
  (!isRelease r || r.ok == kindUo || !releaseStands s (reqAgent s r) r.scope) &&
  (!afterReads r || !engineReads s r.gid (reqMask r) r.infl) &&
  (!isWrite r || !writeFenced s (reqAgent s r) r.ok) &&
  (r.kind != .load || r.parts.all fun p => !ownMsg s r.core r.line r.asid (p.va.toNat / 64))

/-- Whether some access that an agent made and has not performed yet stands in a set of threads; the scalar
stream counts the lane requests that an SC.LWAIT linked (R135, R147). -/
def outstanding (s : State) (g : Group) (scalar : Bool) (mask : Word) (which : Req → Bool) : Bool :=
  s.reqs.any fun r =>
    r.gid == g.gid && decide (r.stage < 2) && r.kind != .pref && which r &&
    (if scalar then r.scalar || decide (r.id < g.linked)
     else r.scalar || r.parts.any fun p => mask.getLsbD p.thr)

/-- The earlier accesses that a fence orders (R147). -/
def fenceOrders (f : FenceRec) (r : Req) : Bool :=
  decide (r.id < f.upto) && (r.ok != kindUo || f.m.uo) &&
  (match f.m.ord with
   | .acq => isRead r
   | _ => true)

/-- Whether a fence's obligation is not met yet (R341, R401). -/
def fenceStands (s : State) (g : Group) (f : FenceRec) : Bool :=
  outstanding s g f.scalar f.mask (fenceOrders f) || (!f.scalar && engineReads s g.gid f.mask f.upto) ||
  (f.m.ord == .sc && (underway s).any (fenceCovers s g f))

/-- Whether a fence holds back the memory instructions of a stream (R341, R401). -/
def fenced (s : State) (g : Group) (scalar : Bool) : Bool :=
  g.fences.any fun f => f.scalar == scalar && fenceStands s g f

/-- Whether a release by an agent at a scope has to wait: an earlier access of its, on a so or rc page, is not performed,
or a message or an invalidation that it covers is under way (R141, R145, R156, R169). -/
def releaseWaits (s : State) (g : Group) (scalar : Bool) (mask : Word) (sc : Scope) : Bool :=
  outstanding s g scalar mask (fun r => r.ok != kindUo) || (!scalar && engineReads s g.gid mask s.nextId) ||
  releaseStands s (agentOf s g scalar mask) sc

/-- Whether an access of an agent has to wait for an earlier acquire, or on a so page for an earlier so access or for node
loads and fetches still to be made (R140, R141, R144, R156). -/
def acquireWaits (s : State) (g : Group) (scalar : Bool) (mask : Word) (ok : Nat) : Bool :=
  (outstanding s g scalar mask fun r =>
    (isAcquire r && r.ok != kindUo && ok != kindUo) || (r.ok == kindSo && ok == kindSo)) ||
  (ok == kindSo && !scalar && engineReads s g.gid mask s.nextId)

/-! ## L1 lines -/

/-- The `.si` copies of a core go, at each acquire at quad scope or wider (R123). -/
def dropSi (s : State) (core : Nat) : State :=
  { s with mem := { s.mem with l1 := s.mem.l1.filter fun l => !(l.core == core && l.kind == .si && !l.buffered) } }

/-- Send some buffered lines of a core home, one after another, each once it has been charged as demand traffic (R27, R29,
R131). -/
def flushLines (s : State) (who : Asker) (gid core : Nat) : List Nat → State × Bool
  | [] => (s, true)
  | l :: r =>
    let x := reachCore s core who clsDemand [l]
    if x.2 then flushLines (flushSi x.1 gid core (some l)) who gid core r else x

/-- The buffered stores of a core go home, all of them or those of one line; `false` while some wait. -/
def flushPaid (s : State) (who : Asker) (gid core : Nat) (line : Option Nat) : State × Bool :=
  flushLines s who gid core ((bufferedSi s core line).map (·.line))

/-- What an acquire of a group does in its core's L1 beside its order: the `.si` copies go, and its `.si` loads in flight
are not kept (R123, R159). -/
def acquireL1 (s : State) (gid core : Nat) (scope : Scope) : State :=
  if wideScope scope then
    let s := dropSi s core
    { s with reqs := s.reqs.map fun r =>
        if r.gid = gid ∧ r.kind = .load ∧ r.rq = .si ∧ r.stage < 2 then { r with noKeep := true } else r }
  else s

/-- What a release of an agent does in its core's L1 beside its order: the buffered stores go home, and the writes whose
messages and invalidations it has not awaited concern its whole instance (R123, R145). -/
def releaseL1 (s : State) (a : Agent) (scope : Scope) : State := spread (flushSi s a.gid a.core none) a scope

/-- A release, once the core's buffered stores have gone home and what they sent has arrived; `false` while it waits (R123,
R169). -/
def releasePaid (s : State) (who : Asker) (a : Agent) (scope : Scope) : State × Bool :=
  let r := flushPaid s who a.gid a.core none
  if r.2 && !releaseStands r.1 a scope then (releaseL1 r.1 a scope, true) else (r.1, false)

/-- A fence whose obligation is met: the `.si` copies go behind an acquire, and behind a release the group's writes wait
for the invalidations of its scope (R123, R147). -/
def fenceMet (s : State) (g : Group) (f : FenceRec) : State :=
  let s := if f.m.ord = .rel then s else acquireL1 s g.gid g.core f.m.scope
  if f.m.ord = .acq then s
  else
    let s := spread s (fenceAgent s g f) f.m.scope
    let x : Fenced := { gid := g.gid, scalar := f.scalar, mask := f.mask, uo := f.m.uo, scope := f.m.scope, upto := f.upto }
    mapCovers s fun _ c => if fenceCovers s g f c then { c.1 with fenced := x :: c.1.fenced } else c.1

/-- Forget the fences of a group whose obligations are met. -/
def settleFences (s : State) (g : Group) : State :=
  let s1 := setG s { g with fences := g.fences.filter (fenceStands s g) }
  (g.fences.filter fun f => !fenceStands s g f).foldl (fun s f => fenceMet s g f) s1

/-- The fences of every group whose obligations a step has met. -/
def settleAllFences (s : State) : State :=
  (s.groups.filter fun g => g.fences.any fun f => !fenceStands s g f).foldl settleFences s

/-- Drop a core's unregistered copy of a line. -/
def dropSiLine (s : State) (core line : Nat) : State :=
  { s with mem := { s.mem with l1 := s.mem.l1.filter fun l =>
      !(l.core == core && l.line == line && l.kind == .si && !l.buffered) } }

/-! ## Lines of the L1 -/

/-- A core's L1 evicts a line: what is dirty or buffered goes home (R123, R170). -/
def evictL1 (s : State) (core line : Nat) : State :=
  let s := flushSi s noGid core (some line)
  let own := (s.mem.l1.filter fun l => l.core == core && l.line == line && l.kind == .owned).flatMap (·.bytes)
  { s with
    mem := { (mergeHome s.mem own) with
      l1 := s.mem.l1.filter fun l => !(l.core == core && l.line == line)
      invals := s.mem.invals.filter fun i => !(i.core == core && i.line == line) }
    streams := s.streams.map (streamLoses line fun t => t.core == core && sdLvl t.desc == 0)
    coh := { s.coh with images := s.coh.images.filter fun i => !(i.core == core && imageLine i.vline == line) } }

/-- Evict a line of a core's L1, once what is dirty or buffered there has been charged as demand traffic (R27, R133, log
48). -/
def evictPaid (s : State) (core line : Nat) : State :=
  if !(s.mem.l1.any fun l => l.core == core && l.line == line && (l.kind == .owned || l.buffered)) then evictL1 s core line
  else
    let r := reachCore s core (.l1 core line) clsDemand [line]
    if r.2 then evictL1 r.1 core line else r.1

/-- The write-backs that the eviction of a sector makes: of the dirty copies of each line to the slice, and of each dirty
line to what lies behind it (R125). -/
def sectorResources (s : State) (page : Nat) : List Nat :=
  (List.range 64).flatMap fun k =>
    let line := 64 * page + k
    let n := dirtyCount s noCore line
    (List.replicate n (wbResources s line)).flatten ++
    (if 0 < n || s.mem.llc.any (fun e => e.1 / 64 == line) then behindSlice s page 1 else [])

/-- Evict a sector of the LLC, once its write-backs have been charged as demand traffic (R27, R133, log 48). -/
def sectorPaid (s : State) (page : Nat) : State :=
  match sectorResources s page with
  | [] => evictSector s page
  | rs =>
    let r := claim s (.sector page) clsDemand 64 rs
    if r.2 then evictSector r.1 page else r.1

/-- Whether a core's L1 holds a line, registered or owned. -/
def inL1 (s : State) (core line : Nat) : Bool :=
  s.mem.l1.any fun l => l.core == core && l.line == line && l.kind != .si

/-- A core becomes a registered sharer of a line (R123), where its L1 has room for it. -/
def addSharer (s : State) (core line : Nat) : State :=
  if inL1 s core line || !l1Fits s core [line] then s
  else
    let l : L1Line := { core := core, line := line, kind := .shared, buffered := false, bytes := [] }
    { s with mem := { s.mem with l1 := l :: s.mem.l1 } }

/-- Whether another holder than a core's own L1 has a line dirty (R124). -/
def dirtyElsewhere (s : State) (core line : Nat) : Bool :=
  (s.mem.l1.any fun l => l.line == line && l.kind == .owned && l.core != core) ||
  (s.crews.any fun c => c.stash.any fun e => e.sfmt == 0 && e.filled.any fun f => f.2 == line && e.dirty.contains f.1)

/-- Whether a core's L1, or a quad unit, owns a line, and the bytes that it holds dirty of it. -/
def owns (s : State) (core line : Nat) : Bool :=
  s.mem.l1.any fun l => l.core == core && l.line == line && l.kind == .owned
def ownedBytes (s : State) (core line : Nat) : Cells Byte :=
  match s.mem.l1.find? fun l => l.core == core && l.line == line && l.kind == .owned with
  | some l => l.bytes
  | none => []

/-- Take ownership of a line for an L1 or a quad unit and write bytes there, where they stay dirty (R123, R150). -/
def ownWrite (s : State) (w : Writer) (holder line pa : Nat) (bs : List Byte) : State :=
  let mine := ownedBytes s holder line
  let s := { s with mem := { s.mem with
    l1 := s.mem.l1.filter fun l => !(l.core == holder && l.line == line && l.kind != .si)
    invals := s.mem.invals.filter fun i => !(i.core == holder && i.line == line) } }
  let s := recallBy s w line
  let bytes := (bs.zipIdx).foldl (fun c b => Cells.put c (pa + b.2) b.1) mine
  let l : L1Line := { core := holder, line := line, kind := .owned, buffered := false, bytes := bytes }
  { s with mem := notePast { s.mem with l1 := l :: s.mem.l1 } pa bs }

/-- Buffer a `.si` store (R123). -/
def bufferSi (s : State) (core line pa : Nat) (bs : List Byte) : State :=
  let old := (s.mem.l1.find? fun l => l.core == core && l.line == line && l.buffered).map (·.bytes)
  let bytes := (bs.zipIdx).foldl (fun c b => Cells.put c (pa + b.2) b.1) (old.getD [])
  let l : L1Line := { core := core, line := line, kind := .si, buffered := true, bytes := bytes }
  let rest := s.mem.l1.filter fun x => !(x.core == core && x.line == line && x.buffered)
  { s with mem := notePast { s.mem with l1 := l :: rest } pa bs }

/-- The byte that a core's buffered store holds of an address. -/
def bufByte (s : State) (core pa : Nat) : Option Byte :=
  s.mem.l1.findSome? fun l => if l.core = core ∧ l.line = pa / 64 ∧ l.buffered then l.bytes.find pa else none

/-! ## Atomic operations -/

/-- The new value of an atomic on one integer element (R314, R394). -/
def atomInt (op : AOp) (signed : Bool) (w old b c : Nat) : Nat :=
  let rd := fun x => if signed then toSigned w x else ((x % 2 ^ w : Nat) : Int)
  match op with
  | .add => (old + b) % 2 ^ w
  | .min => if rd old ≤ rd b then old else b % 2 ^ w
  | .max => if rd old ≤ rd b then b % 2 ^ w else old
  | .and => old &&& (b % 2 ^ w)
  | .or => old ||| (b % 2 ^ w)
  | .xor => old ^^^ (b % 2 ^ w)
  | .swap => b % 2 ^ w
  | .cas => if old = b % 2 ^ w then c % 2 ^ w else old
  | .inc => if b % 2 ^ w ≤ old then 0 else old + 1
  | .dec => if old = 0 ∨ b % 2 ^ w < old then b % 2 ^ w else old - 1
  | .minu => if old ≤ b % 2 ^ w then old else b % 2 ^ w
  | .maxu => if old ≤ b % 2 ^ w then b % 2 ^ w else old

/-- The new value of an atomic on the bytes of a type, with the flags of a floating add (R151, R314). -/
def atomNew (op : AOp) (t : Ty) (old b c : Nat) : Nat × Flags :=
  if isFloatTy t ∧ op = .add then
    let rs := tab (elemCount t) fun i => fadd (fmtOf t) .rne (elem t (dw old) i) (elem t (dw b) i)
    (packElems (elemWidth t) (rs.map Prod.fst), unionFlags (rs.map Prod.snd))
  else (atomInt op (isSigned t) (8 * accBytes t) old b c, 0)

/-! ## Serving a request -/

/-- Whether a load may be answered by a copy that is not the newest value: its page is not so, and it is not an sc load,
which reads the last write before it in the sc order (R123, R140, R148). -/
def mayUseCopy (r : Req) : Bool := r.kind == .load && r.rq != .nc && r.ord != .sc && r.ok != kindSo

/-- The unregistered copy of a line that a `.si` load may use (R123). -/
def siCopy (s : State) (r : Req) : Option (Cells Byte) :=
  if r.rq = .si ∧ mayUseCopy r then
    (s.mem.l1.find? fun l => l.core == r.core && l.line == r.line && l.kind == .si && !l.buffered).map (·.bytes)
  else none

/-- The copy that a load of a core uses: its `.si` copy, or the registered copy whose invalidation has not arrived. -/
def copyOf (s : State) (r : Req) : Option (Cells Byte) :=
  match siCopy s r with
  | some c => some c
  | none =>
    if mayUseCopy r then
      (s.mem.l1.find? fun l => l.core == r.core && l.line == r.line && l.kind == .stale).map (·.bytes)
    else none

/-- The writer of a part of a request: on an so page its invalidations arrive with the write (R140), and the part names
its bytes by a virtual address. -/
def writerOf (r : Req) (p : Part) : Writer :=
  { gid := r.gid, core := r.core, late := r.ok != kindSo
    cov := { accs := [reqAccess r], cores := [], gids := [], fenced := [] }, via := some (r.asid, p.va.toNat) }

/-- Whether a part of a request touches an element of a live object, and whether any does (R168). -/
def touchesObj (s : State) (r : Req) (p : Part) : Bool := elemsOf s (writerOf r p).via p.pa p.size != []
def touchesAny (s : State) (r : Req) : Bool := r.parts.any (touchesObj s r)

/-- Whether a fence that stands keeps a `.si` line out of the L1 (R123, R159). -/
def fencePast (s : State) (r : Req) : Bool :=
  match findGroup s.groups r.gid with
  | none => false
  | some g => g.fences.any fun f => decide (r.id < f.upto)

/-- Whether a store is buffered in its core's L1: one of type `.si`, until a release, a fence or an eviction sends it home;
a store on a so page, whose order is that of its performance, is not (R123, R140). -/
def buffers (s : State) (r : Req) : Bool :=
  r.kind == .store && r.rq == .si && !fencePast s r && !isRelease r && r.ok != kindSo

/-- Whether a load finds its line in its core's L1: registered, owned, or a copy that it may use (R123, R140, R148). -/
def loadHit (s : State) (r : Req) : Bool :=
  (siCopy s r).isSome || s.mem.l1.any fun l =>
    l.core == r.core && l.line == r.line && (l.kind == .shared || l.kind == .owned || (l.kind == .stale && mayUseCopy r))

/-- Whether an atomic executes and ends in a unit that owns its line: one of type `.wt` sends its result home (R150, R316). -/
def atomHit (s : State) (r : Req) : Bool :=
  match atomHolder r with
  | some h => r.rq != .wt && owns s h r.line && !touchesAny s r
  | none => false

/-- Whether a request is answered by its core's L1, or by the quad unit, with no request to the home (R132). -/
def l1Hit (s : State) (r : Req) : Bool :=
  match r.kind with
  | .load => r.rq != .nc && loadHit s r
  | .store => ((r.rq == .own && owns s r.core r.line) || buffers s r) && !touchesAny s r
  | .atomic => atomHit s r
  | .red => atomHit s r
  | _ => false

/-- Where a dirty copy of a request's line may stay as it is served: the L1 of a load, and the unit that an atomic executes
in (R124, R150). -/
def keeperOf (s : State) (r : Req) : Nat :=
  match r.kind with
  | .load => r.core
  | .atomic => if touchesAny s r then noCore else (atomHolder r).getD noCore
  | .red => if touchesAny s r then noCore else (atomHolder r).getD noCore
  | _ => noCore

/-- Whether the buffered stores that a core has of a request's line go home before it: before an atomic, and before a load
that no copy answers (R123, R136). -/
def sendsBuffer (r : Req) : Bool :=
  match r.kind with
  | .load => !mayUseCopy r
  | .atomic => true
  | .red => true
  | _ => false

/-- A later store of a core takes the place of what its buffered stores hold of the same bytes (R136). -/
def overwrite (s : State) (core line : Nat) (ps : List Part) : State :=
  let out := fun (e : Nat × Byte) => ps.all fun p => decide (e.1 < p.pa) || decide (p.pa + p.size ≤ e.1)
  let cut := fun (l : L1Line) => if l.core = core ∧ l.line = line ∧ l.buffered then { l with bytes := l.bytes.filter out } else l
  { s with mem := { s.mem with l1 := (s.mem.l1.map cut).filter fun l => !l.buffered || l.bytes != [] } }

/-- Prepare a line for a request of a core. A load that a copy may answer leaves the core's buffered stores, which it
reads; a `.si` one leaves the copies too. A store leaves the buffered bytes that it does not write, and one that is buffered
itself leaves the copies. Before any other request the buffered stores go home and the copies go (R123, R136). -/
def prepare (s : State) (r : Req) : State :=
  match r.kind with
  | .load =>
    if mayUseCopy r then (if r.rq = .si then s else dropSiLine s r.core r.line)
    else freshLine (flushSi s r.gid r.core (some r.line)) r.core r.line
  | .store =>
    if buffers s r && !touchesAny s r then s else freshLine (overwrite s r.core r.line r.parts) r.core r.line
  | .pref => s
  | _ => freshLine (flushSi s r.gid r.core (some r.line)) r.core r.line

/-- What a load of a core reads at an address: the core's own buffered store, the image where its L1 subscribes, the copy
that it uses, and else the coherent byte (R123, R170). -/
def loadByte (s : State) (r : Req) (copy : Option (Cells Byte)) (va pa : Nat) : Byte :=
  if r.rq = .nc then cohByte s pa
  else match bufByte s r.core pa with
    | some b => b
    | none => match imageByte s r.core r.asid va with
      | some b => b
      | none => match copy.bind fun c => c.find pa with
        | some b => b
        | none => cohByte s pa

/-- Keep a line after a load (R123). -/
def keepLine (s : State) (r : Req) : State :=
  match r.rq with
  | .own => addSharer s r.core r.line
  | .wt => addSharer s r.core r.line
  | .nc => s
  | .si =>
    if r.noKeep || r.ok == kindSo || fencePast s r || (siCopy s r).isSome || inL1 s r.core r.line || !l1Fits s r.core [r.line] then s
    else
      let l : L1Line := { core := r.core, line := r.line, kind := .si, buffered := false
                          bytes := tab 64 fun i => (64 * r.line + i, cohByte s (64 * r.line + i)) }
      { s with mem := { s.mem with l1 := l :: s.mem.l1 } }

/-- Fill the images that the parts of a load need (R170). -/
def fillParts (s : State) (r : Req) : State :=
  if r.rq = .nc then s
  else r.parts.foldl (fun s p => needImages s r.core r.asid p.va.toNat p.pa p.size) s

/-- The value that each part of a load reads, and the state after it (R123, R146, R170). -/
def serveLoad (s : State) (r : Req) : State × List (Part × Nat) :=
  let s := fillParts s r
  let copy := copyOf s r
  let out := r.parts.map fun p => (p, leNat (tab p.size fun i => loadByte s r copy (p.va.toNat + i) (p.pa + i)))
  let s := dependOn (keepLine s r) (reqAccess r) r.line
  (if isAcquire r then acquireL1 s r.gid r.core r.scope else s, out)

/-- The result bytes of an atomic that a unit on the package performed go home too: they are not dirty there any more (R316). -/
def sendResult (s : State) (h line pa : Nat) (bs : List Byte) : State :=
  let cut := fun (l : L1Line) =>
    if l.core = h ∧ l.line = line ∧ l.kind = .owned then
      { l with bytes := l.bytes.filter fun e => decide (e.1 < pa) || decide (pa + bs.length ≤ e.1) }
    else l
  sendHome { s with mem := homePuts { s.mem with l1 := s.mem.l1.map cut } pa bs } line

/-- Whether an atomic is performed at the port of the memory itself (R150, R316). -/
def atThePort (r : Req) : Bool :=
  (r.kind == .atomic || r.kind == .red) && r.rq != .nc && (r.scope == .pod || r.scope == .sys)

/-- Write the bytes of one part where its request type and its scope leave them (R123, R150, R176, R316): a write at the port
of the memory itself leaves no dirty copy on the package. -/
def writePart (s : State) (r : Req) (p : Part) (v : Nat) (holder : Option Nat) : State :=
  let bs := leBytes p.size v
  if touchesObj s r p then writeBy s (writerOf r p) p.pa bs
  else match holder with
    | some h =>
      let s := ownWrite s (writerOf r p) h r.line p.pa bs
      if r.kind ≠ .store ∧ r.rq = .wt then sendResult s h r.line p.pa bs else s
    | none =>
      let s := writeBy s (writerOf r p) p.pa bs
      if atThePort r then { s with mem := lineToPool s.mem r.line } else s

/-- Whether serving a request is a release on a page that is not uo (R141, R142). -/
def releases (r : Req) : Bool := isRelease r && r.ok != kindUo

/-- What a release does in its core's L1 as it is served: the buffered stores go home, and on a page that is not uo what it
has not awaited concerns its whole instance (R123, R142, R145, R359). -/
def serveRelease (s : State) (r : Req) : State :=
  if releases r then releaseL1 s (reqAgent s r) r.scope
  else if isRelease r then flushSi s r.gid r.core none
  else s

/-- Perform a store (R123, R124). -/
def serveStore (s : State) (r : Req) : State :=
  let s := serveRelease s r
  r.parts.foldl (fun s p =>
    match r.rq with
    | .si =>
      if !buffers s r || touchesObj s r p then writePart s r p p.data.toNat none
      else bufferSi s r.core r.line p.pa (leBytes p.size p.data.toNat)
    | .own => writePart s r p p.data.toNat (some r.core)
    | _ => writePart s r p p.data.toNat none) s

/-- The thresholds and continuations that the grids adding to a counter name (R194). -/
def counterConts (s : State) (pa : Nat) : List (Nat × Dword) :=
  let at' := fun (asid : Nat) (ctr : Dword) =>
    ctr != 0 && (match leafOf s asid ctr.toNat with | .leaf l e => leafPa ctr.toNat l e == pa | .bad _ _ => false)
  let live := (s.grids.filter fun r => !r.done && r.cont != 0 && at' r.asid r.ctr).map fun r => (r.cthresh, r.cont)
  let late := (s.adds.filter fun a => a.test && a.cont != 0 && at' a.asid a.ctr).map fun a => (a.cthresh, a.cont)
  (live ++ late).eraseDups

/-- After a program's add to a completion counter whose low half now equals the threshold of a grid that adds to it, the
grid's continuation is read, as work of the adding group's queue (R193, R194, R198, log 33). -/
def afterAdd (s : State) (r : Req) (p : Part) : State :=
  if r.aop ≠ .add ∨ isFloatTy r.ty then s
  else
    let pa := p.pa / 8 * 8
    let queue := ((findGrid s r.grid).map (·.queue)).getD 0
    let due := (counterConts s pa).filter fun x => x.1 == cohNat s pa 8 % 2 ^ 32
    let new := due.zipIdx.map fun x =>
      ({ id := s.nextId + x.2, asid := r.asid, queue := queue, addr := x.1.2, die := homeDie s pa, left := 0 } : Cont)
    { s with nextId := s.nextId + new.length, conts := s.conts ++ new }

/-- Perform an ATOM or a RED part by part, in ascending thread order (R149, R315, R384). -/
def serveAtom (s : State) (r : Req) : State × List (Part × Nat) × Flags :=
  let s := serveRelease s r
  let out := r.parts.foldl (fun (a : State × List (Part × Nat) × Flags) p =>
    let old := cohNat a.1 p.pa p.size
    let n := atomNew r.aop r.ty old p.data.toNat p.cmp.toNat
    (afterAdd (writePart a.1 r p n.1 (atomHolder r)) r p, a.2.1 ++ [(p, old)], a.2.2 ||| n.2)) (dependOn s (reqAccess r) r.line, [], 0)
  (if isAcquire r then acquireL1 out.1 r.gid r.core r.scope else out.1, out.2)

/-- What a loaded value becomes in its row (R310, R358). -/
def loadRow (r : Req) (v : Nat) : Dword :=
  match r.sz with
  | .full => rowOf r.ty v
  | .b8 => if r.ty = .s32 then sext64 8 v else dw v
  | .b16 => if r.ty = .s32 then sext64 16 v else dw v

/-- Put values and flags into the record of the instruction that a request belongs to. -/
def fillInfl (s : State) (r : Req) (out : List (Part × Nat)) (fl : Flags) : State :=
  match findGroup s.groups r.gid with
  | none => s
  | some g =>
    let put := fun (i : Inflight) =>
      if i.id = r.infl then
        { i with writes := out.foldl (fun c x => c.put (32 * r.row + x.1.thr) (loadRow r x.2)) i.writes
                 flags := i.flags ||| fl }
      else i
    setG s { g with infl := g.infl.map put }

/-- The poison that a request reads and its instruction would deliver (R282), by its pool and its virtual address; an instruction that a restart has discarded
consumes nothing. -/
def readsPoison (s : State) (r : Req) : Option (Nat × Nat) :=
  let stands := r.kind == .red || (match findGroup s.groups r.gid with
    | some g => g.infl.any fun i => i.id == r.infl
    | none => false)
  if stands && isRead r then
    (r.parts.find? fun p => r.lost || poisoned s p.pa p.size).map fun p => (p.pa, p.va.toNat)
  else none

/-- Serve a request whose turn has come: load, store, atomic or prefetch (R123 to R125). Its home slice counts it, and the
buffered stores that it first sends home (R128). -/
def perform (s : State) (r : Req) : State :=
  let hit := l1Hit s r
  let s := if sendsBuffer r && bufferedSi s r.core (some r.line) != [] then atSlice s r.line else s
  let s := prepare s r
  let s := if hit then s else atSlice s r.line
  match r.kind with
  | .load => let x := serveLoad s r; fillInfl x.1 r x.2 0
  | .store => serveStore s r
  | .atomic => let x := serveAtom s r; fillInfl x.1 r x.2.1 x.2.2
  | .red => let x := serveAtom s r; orAfflags x.1 r.asid x.2.2
  | .pref => if r.sz = .full ∧ r.row = 0 then keepLine s r else s
  | _ => s

/-- A request's stage. -/
def setStage (s : State) (id stage : Nat) : State :=
  { s with reqs := s.reqs.map fun r => if r.id = id then { r with stage := stage } else r }

/-- A request has been charged. -/
def setPaid (s : State) (id : Nat) : State :=
  { s with reqs := s.reqs.map fun r => if r.id = id then { r with paid := true } else r }

def findReq (s : State) (id : Nat) : Option Req := s.reqs.find? fun r => r.id == id

/-- A request's data or acknowledgement returns: its slot is free, and its instruction awaits one fewer. -/
def returnReq (s : State) (r : Req) : State :=
  let s := { s with reqs := s.reqs.filter fun x => x.id ≠ r.id }
  match findGroup s.groups r.gid with
  | none => s
  | some g => setG s { g with infl := g.infl.map fun i => if i.id = r.infl then { i with needs := i.needs - 1 } else i }

/-- Whether the request is a prefetched line of a stream: it has arrived (R130). -/
def streamArrives (s : State) (r : Req) : State :=
  if r.kind ≠ .pref then s
  else { s with streams := s.streams.map fun t =>
    if t.core = r.core ∧ t.asid = r.asid ∧ t.fetched.contains r.line ∧ !t.arrived.contains r.line
    then { t with arrived := r.line :: t.arrived } else t }

/-- Whether a request at its home finds dirty copies of its line in other holders, which the home recalls first (R124). -/
def recalls (s : State) (r : Req) : Bool :=
  !l1Hit s r && dirtyElsewhere s (match r.kind with | .store => r.core | .pref => r.core | _ => keeperOf s r) r.line

/-- How many write-backs to its line's home serving a request makes beside its own transfer: of the dirty copies that are
recalled, and of its core's buffered stores (R123, R124). -/
def writeBacks (s : State) (r : Req) : Nat :=
  (if l1Hit s r ∨ r.kind = .pref then 0 else dirtyCount s (keeperOf s r) r.line) +
  (if sendsBuffer r then (bufferedSi s r.core (some r.line)).length else 0)

/-- Charge the write-backs of a request as demand traffic; `false` while they wait (R27, R29). -/
def writeBacksPaid (s : State) (r : Req) : State × Bool :=
  match writeBacks s r with
  | 0 => (s, true)
  | n => if !sendable s [r.line] then (s, false)
    else claim s (.req r.id) clsDemand 64 (List.replicate n (wbResources s r.line)).flatten

/-- What comes before a request is served: as a release it first sends the core's buffered stores home, and it waits for
what these send (R123, R141, R169); and the write-backs that it makes are charged. -/
def readyReq (s : State) (r : Req) : State × Bool :=
  let a := if isRelease r then flushPaid s (.req r.id) r.gid r.core none else (s, true)
  if !a.2 || !mayServe a.1 r then (a.1, false) else writeBacksPaid a.1 r

/-- Serve a request that is ready: poison that it would deliver is consumed instead (R282, R283); a hit frees its slot at
once (R132). -/
def serveNow (s : State) (r : Req) : State :=
  let hit := l1Hit s r
  let s := streamArrives (if recalls s r then recallLine s r.line else s) r
  match readsPoison s r, findGroup s.groups r.gid with
  | some x, some g => consume (returnReq s r) g 0 x.1 x.2 (if isWrite r then needAtomic else needLoad).acc
  | _, _ =>
    let s := setStage (perform s r) r.id 2
    if hit then returnReq s r else s

/-- Serve a request, once all that comes first has been done; one whose line has left its L1 since it was accepted waits
for its charge (R28, R132). -/
def serveReq (s : State) (r : Req) : State :=
  if !l1Hit s r && !r.paid then setStage s r.id 0
  else
    let x := readyReq s r
    if x.2 then serveNow x.1 r else x.1

/-- MEMORY_REQUEST_AT_HOME: the home serves an accepted request that may be served, of a line that no other
holder has dirty (R125). -/
def execMemoryRequestAtHome (id : Nat) (s : State) : Host.Outcome State Fault Refusal :=
  .next (match findReq s id with
    | none => s
    | some r => if r.stage = 1 ∧ mayServe s r ∧ !recalls s r then serveReq s r else s)

/-- LINE_RECALL: the home recalls the owned dirty line, and the request is completed over it (R124). -/
def execLineRecall (id : Nat) (s : State) : Host.Outcome State Fault Refusal :=
  .next (match findReq s id with
    | none => s
    | some r => if r.stage = 1 ∧ mayServe s r ∧ recalls s r then serveReq s r else s)

/-- REQUEST_RETURN: a served request frees its slot (R131). -/
def execRequestReturn (id : Nat) (s : State) : Host.Outcome State Fault Refusal :=
  .next (match findReq s id with
    | none => s
    | some r => if r.stage = 2 then returnReq s r else s)

/-! ## Making requests -/

/-- The hash lane of a line (R157). -/
def hashLane (line : Nat) : Nat :=
  let p := 64 * line
  nbits p 6 4 ^^^ nbits p 10 4 ^^^ nbits p 14 4 ^^^ nbits p 18 4

/-- Whether a request that was sent earlier by the same core to the same slice on the same hash lane has not been
accepted: the fabric delivers the two in order (R157). -/
def deliveredLater (s : State) (r : Req) : Bool :=
  s.reqs.any fun x => x.stage == 0 && x.cls == r.cls && decide (x.id < r.id) && x.core == r.core &&
    homeSlice s (x.line / 64) == homeSlice s (r.line / 64) && hashLane x.line == hashLane r.line

/-- The two directions of the port at which an atomic at pod or sys scope executes (R28, R150). -/
def portResources (s : State) (r : Req) : List Nat :=
  if atThePort r ∧ !remote s r.line ∧ !(s.xl.firm.any fun f => f.page == r.line / 64) then
    let p := portOf s (64 * r.line)
    [resPort p 0, resPort p 1].filter fun x => !(reqResources s r.line).contains x
  else []

/-- Accept a request: one that its L1 answers needs no budget, and any other is accepted when its whole charge fits and
none of its class waits ahead of it (R29, R132, R157). -/
def acceptReq (s : State) (r : Req) : State :=
  if r.stage ≠ 0 then s
  else if l1Hit s r then setStage s r.id 1
  else if deliveredLater s r || !sendable s [r.line] then s
  else
    let x := claim s (.req r.id) r.cls 64 (reqResources s r.line ++ portResources s r)
    if x.2 then setPaid (setStage (useHome x.1 r.line) r.id 1) r.id else x.1

/-- GOVERNED_REQUEST_ADMIT (R29). -/
def execGovernedRequestAdmit (id : Nat) (s : State) : Host.Outcome State Fault Refusal :=
  .next (match findReq s id with
    | none => s
    | some r => acceptReq s r)

/-- Put a new request on the list; it is accepted at once when its budget admits it. -/
def pushReq (s : State) (r : Req) : State :=
  let r := { r with id := s.nextId, stage := 0, grid := ((findGroup s.groups r.gid).map (·.grid)).getD 0 }
  acceptReq { s with nextId := s.nextId + 1, reqs := s.reqs ++ [r] } r

/-- One request for each line that a list of parts touches, in the order of first touch (R131). -/
def pushReqs (s : State) (r : Req) (parts : List Part) : List Nat → State
  | [] => s
  | l :: ls => pushReqs (pushReq s { r with line := l, parts := parts.filter fun p => p.pa / 64 = l }) r parts ls

/-- The lines of a list of parts. -/
def partLines (parts : List Part) : List Nat := (parts.map fun p => p.pa / 64).eraseDups

end Sys2Proof.Machine
end

