-- ==== Sys2Proof/Machine/Probe.lean ====
section
/-! DEFINITION. The probe stage of a group's memory instructions, the private stack and its cache, and stream
descriptors (R119, R129, R130, R132, R261). -/

namespace Sys2Proof.Machine

/-! ## The probe -/

/-- An element that passed its probe: thread, address, pool address, page kind. -/
structure Found where
  thr : Nat
  va : Nat
  pa : Nat
  ok : Nat
  deriving DecidableEq, Repr, Inhabited

/-- The virtual pages of some elements. -/
def pagesOf (fs : List Found) : List Nat := (fs.map fun x => x.va / 4096).eraseDups

/-- A trap of the stream that an instruction belongs to. -/
def trapG (s : State) (g : Group) (isLane : Bool) (code info thr : Nat) : State :=
  if isLane then trapLane s g code info thr else trapScalar s g code info

/-- An element to be probed: thread, address and need. -/
structure Asked where
  thr : Nat
  va : Nat
  need : Need
  deriving DecidableEq, Repr, Inhabited

/-- Elements with one need. -/
def asking (n : Need) (els : List (Nat × Nat)) : List Asked := els.map fun e => { thr := e.1, va := e.2, need := n }

/-- The elements of a probe that pass. -/
def founds (s : State) (asid : Nat) (els : List Asked) : List Found :=
  els.filterMap fun e =>
    match look s asid e.va e.need with
    | .ok pa pte => some { thr := e.thr, va := e.va, pa := pa, ok := pteOk pte }
    | _ => none

/-- The elements of a probe that fail, with what the probe found. -/
def misses (s : State) (asid : Nat) (els : List Asked) : List (Asked × Hit) :=
  els.filterMap fun e =>
    match look s asid e.va e.need with
    | .ok _ _ => none
    | h => some (e, h)

/-- Keep the translations that a probe found (R116). -/
def learnAll (s : State) (asid : Nat) (els : List Asked) : State := learnEach s asid (els.map (·.va))

/-- One failing element for each page, in order. -/
def onePerPage : List (Asked × Hit) → List Nat → List (Asked × Hit)
  | [], _ => []
  | m :: r, seen =>
    if seen.contains (m.1.va / 4096) then onePerPage r seen else m :: onePerPage r (m.1.va / 4096 :: seen)

/-- The failing pages that are reported and then awaited. -/
def awaited (ms : List (Asked × Hit)) : List (Asked × Hit) := onePerPage (ms.filter fun x => x.2.waits) []

/-- The quarantined page that a probe met first, by its pool address and what was asked there. -/
def quarOf (ms : List (Asked × Hit)) : Option (Nat × Asked) :=
  ms.findSome? fun x => match x.2 with | .quar pa => some (pa, x.1) | _ => none

/-- Report failing pages (R261, R264, R265). -/
def reportEach (s : State) (asid source gid : Nat) (w : Waiter) (grid : Option Nat) (die : Nat)
    (ms : List (Asked × Hit)) : State :=
  ms.foldl (fun s m => report s asid source gid m.1.va m.1.need m.2 w grid die m.1.thr) s

/-- The probe of a group's instruction (R261): with no failing page it goes on. Else every failing page is reported; a
quarantined page is then consumed, and without one the group parks until the pages it reported are settled. A device-only
page is answered as trap PROT (R268): at once where no other page was reported, and else once those are settled. All its
pages are translated by the old tables or all by the new ones (R116). -/
def probeG (s : State) (g : Group) (isLane : Bool) (els : List Asked) (k : State → List Found → State) : State :=
  let s := oneXlate s g.asid (els.map (·.va))
  match misses s g.asid els with
  | [] => k (learnAll s g.asid els) (founds s g.asid els)
  | m :: r =>
    if (m :: r).any fun x => x.2 == .far then s else
    let waits := awaited (m :: r)
    let s := reportEach s g.asid (srcCore g.core) g.gid (.group g.gid) (some g.grid) (dieOf s g.core) waits
    match quarOf (m :: r), List.find? (fun (x : Asked × Hit) => x.2 == .devOnly) (m :: r) with
    | some x, _ => consume s g 3 x.1 x.2.va x.2.need.acc
    | none, none => parkG s g (.probe waits.length) .none isLane
    | none, some x =>
      if waits = [] then trapG s g isLane tProt x.1.va x.1.thr
      else parkG s { g with answer := some (tProt, dw x.1.va, x.1.thr) } (.probe waits.length) .none isLane

/-! ## The private stack -/

/-- Whether an address lies in a group's private stack (R119). -/
def inStack (g : Group) (va : Nat) : Bool := decide (g.stklimit.toNat ≤ va) && decide (va < g.stkbase.toNat)

/-- Whether a row of 256 bytes is one of the 32 at and above sp (R119). -/
def inWindow (g : Group) (row : Nat) : Bool :=
  let sp := (scal g 63).toNat / 256
  decide (sp ≤ row) && decide (row < sp + 32)

/-- Whether the stack cache holds a row: it has been fetched, or holds bytes that the group wrote. -/
def rowCached (g : Group) (row : Nat) : Bool := g.rows.contains row || g.stack.any fun e => e.1 / 256 == row

/-- Whether the stack cache serves an access of its group (R119). -/
def stackServes (g : Group) (va : Nat) : Bool := inStack g va && (inWindow g (va / 256) || rowCached g (va / 256))

/-- Read through the stack cache: a byte that the group wrote and that has not been written back, else the
coherent byte. -/
def stackNat (s : State) (g : Group) (va pa n : Nat) : Nat :=
  leNat (tab n fun i => match g.stack.find (va + i) with | some b => b | none => cohByte s (pa + i))

/-- Whether an access through the stack cache meets a poisoned byte (R282). -/
def stackPoison (s : State) (g : Group) (va pa n : Nat) : Bool :=
  poisoned s pa n && (List.range n).any fun i => (g.stack.find (va + i)).isNone

/-- Write into the stack cache. -/
def stackPut (g : Group) (va : Nat) (bs : List Byte) : Group :=
  { g with stack := (bs.zipIdx).foldl (fun c b => Cells.put c (va + b.2) b.1) g.stack }

/-- Write back the stack-cache bytes of a group that a test selects, through its firmware pages (R119). -/
def spillStack (s : State) (g : Group) (p : Nat → Bool) : State :=
  let s := (g.stack.filter fun e => p e.1).foldl (fun s e => homeWrite s (firmPa s g.asid e.1) [e.2]) s
  setG s { g with stack := g.stack.filter fun e => !p e.1 }

/-- The same, once the lines that are written have been charged as demand traffic; `false` while they wait (R27, R119,
R131). -/
def spillCharged (s : State) (g : Group) (who : Asker) (p : Nat → Bool) : State × Bool :=
  match ((g.stack.filter fun e => p e.1).map fun e => firmPa s g.asid e.1 / 64).eraseDups with
  | [] => (s, true)
  | ls =>
    let r := reachCore s g.core who clsDemand ls
    if r.2 then (spillStack r.1 g p, true) else r

/-- Fetch rows that the stack cache does not hold, one after another, as demand traffic; `false` while one waits (R27, R119,
R131). -/
def fetchRows (s : State) (gid core asid : Nat) (who : Asker) : List Nat → State × Bool
  | [] => (s, true)
  | row :: r =>
    if (findGroup s.groups gid).any fun g => g.rows.contains row then fetchRows s gid core asid who r
    else
      let x := reachCore s core who clsDemand (tab 4 fun k => firmPa s asid (256 * row + 64 * k) / 64)
      let hold := fun (g : Group) => { g with rows := row :: g.rows }
      if x.2 then
        let t := { x.1 with groups := x.1.groups.map fun g => if g.gid = gid then hold g else g }
        fetchRows t gid core asid who r
      else x

/-- The rows of the stack cache that some of a group's accesses need are fetched first (R119). -/
def stackFetch (s : State) (g : Group) (who : Asker) (vas : List Nat) : State × Bool :=
  fetchRows s g.gid g.core g.asid who ((vas.map (· / 256)).eraseDups)

/-- Whether a core has a request of a line that has not been served. -/
def lineBusy (s : State) (core line : Nat) : Bool :=
  s.reqs.any fun r => r.core == core && r.line == line && decide (r.stage < 2) && r.kind != .pref

/-! ## Streams -/

/-- Fields of a stream descriptor (R129). -/
def sdBase (d : BitVec 256) : Nat := (d.extractLsb' 128 57).toNat
def sdStride (d : BitVec 256) : Int := (d.extractLsb' 96 32).toInt
def sdCount (d : BitVec 256) : Nat := (d.extractLsb' 64 32).toNat
def sdDist (d : BitVec 256) : Nat := (d.extractLsb' 40 8).toNat
def sdRq (d : BitVec 256) : ReqTy := ReqTy.ofCode (d.extractLsb' 32 2)
def sdStat (d : BitVec 256) : Nat := 16 * (d.extractLsb' 196 60).toNat

/-- The address of an element of a stream: one below 0 wraps to an address that no entry maps. -/
def streamVa (d : BitVec 256) (i : Nat) : Nat := (((sdBase d : Int) + sdStride d * i) % 2 ^ 64).toNat

/-- The highest element of a stream whose first byte lies in a virtual line (R130). -/
def streamElem (d : BitVec 256) (vline : Nat) : Option Nat :=
  let lo : Int := 64 * vline - sdBase d
  let hi : Int := lo + 63
  let st := sdStride d
  let i : Int := if 0 < st then hi.fdiv st else lo.fdiv st
  let i : Int := if (sdCount d : Int) - 1 < i then (sdCount d : Int) - 1 else i
  if 0 ≤ i ∧ lo ≤ st * i ∧ st * i ≤ hi then some i.toNat else none

/-- A prefetch of one line for a core, on a page of a kind: dropped when no slot is free (R131, R376). `lvl` 0 is the L1
and 1 the LLC. -/
def prefLine (s : State) (core asid gid : Nat) (lvl : Nat) (rq : ReqTy) (va pa ok : Nat) : State :=
  let line := pa / 64
  if slotsOk s core [line] then
    pushReq s { (default : Req) with
      gid := gid, core := core, kind := .pref, cls := clsPrefetch, line := line, rq := rq, ok := ok, sz := .full, row := lvl
      asid := asid, infl := 0
      parts := [{ (default : Part) with thr := 32, va := dw va, pa := pa, size := 0 }] }
  else s

/-- The line prefetch that would be made: its pool address and the kind of its page. -/
def prefetched (s : State) (t : Stream) (va : Nat) : Option (Nat × Nat) :=
  match look s t.asid va needLoad with
  | .ok pa e =>
    if t.fetched.contains (pa / 64) || sdLvl t.desc == 2 || !slotsOk s t.core [pa / 64] then none else some (pa, pteOk e)
  | _ => none

/-- Replace a stream record. -/
def setStream (s : State) (t : Stream) : State :=
  { s with streams := s.streams.map fun x => if x.core = t.core ∧ x.slot = t.slot then t else x }

/-- Fetch the line of one element ahead of a stream (R130). -/
def streamFetch (s : State) (t : Stream) (va : Nat) : State × Stream :=
  match prefetched s t va with
  | some (pa, ok) =>
    let t := { t with fetched := (pa / 64) :: t.fetched, issued := min (2 ^ 32 - 1) (t.issued + 1) }
    (prefLine s t.core t.asid noGid (sdLvl t.desc) (sdRq t.desc) va pa ok, t)
  | none =>
    match look s t.asid va needLoad with
    | .absent pa => if sdLvl t.desc = 2 then (addPageWait s (pageOf pa) (srcCore t.core) .hint true, t) else (s, t)
    | _ => (s, t)

/-- Count the demand of a prefetched line (R130). -/
def streamUse (t : Stream) (line : Nat) : Stream :=
  if t.used.contains line || !t.fetched.contains line then t
  else if t.arrived.contains line then
    { t with used := line :: t.used, accurate := min (2 ^ 32 - 1) (t.accurate + 1) }
  else { t with used := line :: t.used, late := min (2 ^ 32 - 1) (t.late + 1) }

/-- A demand access of a core advances one of its streams (R130). -/
def streamDemand (s : State) (t : Stream) (va pa : Nat) : State :=
  match streamElem t.desc (va / 64) with
  | none => s
  | some i =>
    let t := streamUse { t with here := some i } (pa / 64)
    let ahead := (List.range (sdDist t.desc)).filter fun k => decide (i + 1 + k < sdCount t.desc)
    let out := ahead.foldl (fun (a : State × Stream) k => streamFetch a.1 a.2 (streamVa t.desc (i + 1 + k))) (s, t)
    setStream out.1 out.2

/-- Demand accesses of a core advance its streams. -/
def advanceStreams (s : State) (core asid : Nat) (fs : List Found) : State :=
  fs.foldl (fun s f =>
    (s.streams.filter fun t => t.core == core && t.asid == asid).foldl (fun s t => streamDemand s t f.va f.pa) s) s

end Sys2Proof.Machine
end

