-- ==== Sys2Proof/Machine/LaneMem.lean ====
section
/-! DEFINITION. Lane accesses to global memory: LD, ST, ATOM, RED, PREF, FENCE and the cache instructions
(R313 to R317, R326 to R329, R340, R341, R357 to R360, R375, R376, R383 to R385). -/

namespace Sys2Proof.Machine

/-! ## Loads, stores and atomics -/

/-- What one lane instruction does to global memory, beside its addresses: its need, its width, the shared
fields of its requests, and the data and comparand of a thread. -/
structure GlobalOp where
  need : Need
  size : Nat
  kind : ReqKind
  rq : ReqTy
  ord : MOrd
  scope : Scope
  sz : AccSz
  aop : AOp
  res : Option ResKind
  data : Nat → Dword
  cmp : Nat → Dword

/-- The part of a found element. -/
def partOf (o : GlobalOp) (x : Found) : Part :=
  { thr := x.thr, va := dw x.va, pa := x.pa, size := o.size, data := o.data x.thr, cmp := o.cmp x.thr }

/-- The fields that the requests of one lane instruction share. -/
def reqOf (g : Group) (f : LaneForm) (o : GlobalOp) (infl : Nat) : Req :=
  { (default : Req) with
    gid := g.gid, core := g.core, scalar := false, kind := o.kind, cls := clsDemand, rq := o.rq, ord := o.ord
    scope := o.scope, ty := f.ty, sz := o.sz, aop := o.aop, row := f.d.toNat, infl := infl, asid := g.asid }

/-- What one request asks of a line: the elements of consecutive threads whose pages are of one kind. -/
structure Run where
  line : Nat
  ok : Nat
  els : List Found
  deriving DecidableEq, Repr, Inhabited

/-- The runs of a line's elements, in thread order. -/
def runsOn (line : Nat) (fs : List Found) : List Run :=
  fs.foldr (fun x rs =>
    match rs with
    | r :: t => if r.ok = x.ok then { r with els := x :: r.els } :: t else { line := line, ok := x.ok, els := [x] } :: rs
    | [] => [{ line := line, ok := x.ok, els := [x] }]) []

/-- The runs of found elements, line by line in the order of first touch. -/
def foundRuns (fs : List Found) : List Run :=
  ((fs.map fun x => x.pa / 64).eraseDups).flatMap fun l => runsOn l (fs.filter fun x => x.pa / 64 = l)

/-- One request for each run: each thread's access obeys the kind of its own page, and the accesses to one location are
performed in ascending thread order (R131, R136, R143, R315). -/
def pushRuns (s : State) (r : Req) (o : GlobalOp) : List Run → State
  | [] => s
  | x :: xs => pushRuns (pushReq s { r with line := x.line, ok := x.ok, parts := x.els.map (partOf o) }) r o xs

/-- Rows that the stack cache holds and an atomic names are written back first (R119). -/
def spillFor (s : State) (g : Group) (o : GlobalOp) (fs : List Found) : State × Bool :=
  if o.kind = .atomic ∨ o.kind = .red then
    spillCharged s g (laneWho g) fun va => fs.any fun x => x.va / 256 == va / 256
  else (s, true)

/-- Whether the accesses that the stack cache serves have to wait: for an access of the core to their line, for an earlier
acquire of the thread, or as a release for its earlier accesses (R119, R141, R359). -/
def stackWaits (s : State) (g : Group) (o : GlobalOp) (stk : List Found) : Bool :=
  stk.any (fun x => lineBusy s g.core (x.pa / 64) || acquireWaits s g false (maskOf [x.thr]) x.ok) ||
  (decide (stk ≠ []) && o.kind == .store && o.ord != .plain && releaseWaits s g false (maskOf (stk.map (·.thr))) o.scope)

/-- What an acquire or a release that the stack cache serves does in the L1 (R123, R359); `false` while what it sends home
waits. -/
def stackOrder (s : State) (g : Group) (o : GlobalOp) (stk : List Found) : State × Bool :=
  if stk = [] ∨ o.ord = .plain then (s, true)
  else if o.kind = .store then releasePaid s (laneWho g) (agentOf s g false (maskOf (stk.map (·.thr)))) o.scope
  else (acquireL1 s g.gid g.core o.scope, true)

/-- Issue a lane instruction's accesses to global memory once every element passed its probe: with no free slot, or where
the stack cache's part has to wait, for its rows among others, it is passed over (R119, R132); poison that the stack cache
delivers is consumed (R282, R360). -/
def laneAccess (f : LaneForm) (o : GlobalOp) (g : Group) (q : QEntry) (act : List Nat) (s : State) (fs : List Found) :
    State :=
  let stk := fs.filter fun x => o.kind != .atomic && o.kind != .red && stackServes g x.va
  let mem := fs.filter fun x => !stk.contains x
  let runs := foundRuns mem
  if !slotsOk s g.core (runs.map (·.line)) || stackWaits s g o stk then s else
  let rows := stackFetch s g (laneWho g) (stk.map (·.va))
  if !rows.2 then rows.1 else
  let s := rows.1
  let g := (findGroup s.groups g.gid).getD g
  match (if o.res.isSome then stk.find? fun x => stackPoison s g x.va x.pa o.size else none) with
  | some x => consume s g 0 x.pa x.va o.need.acc
  | none =>
    let spill := spillFor s g o fs
    let order := if spill.2 then stackOrder spill.1 g o stk else spill
    let s := order.1
    if !order.2 then s else
    let g := (findGroup s.groups g.gid).getD g
    let id := s.nextId
    let s1 := match o.res with
      | some kind =>
        let val := fun (x : Found) =>
          loadRow (reqOf g f o id) (stackNat s g x.va x.pa o.size)
        let ws := stk.foldl (fun c x => Cells.put c (32 * f.d.toNat + x.thr) (val x)) []
        let i : Inflight := { newInfl s g q f kind [f.d.toNat] with writes := ws, needs := runs.length, vpages := pagesOf fs }
        enterPending s g f act i
      | none =>
        let g1 := stk.foldl (fun g x => stackPut g x.va (leBytes o.size (o.data x.thr).toNat)) g
        setG { s with nextId := id + 1 } (entered g1 f)
    advanceStreams (pushRuns s1 (reqOf g f o id) o runs) g.core g.asid mem

/-- A lane access to global memory, one element for each active thread: ALIGN, then the probe, then the
accesses (R143, R261). -/
def laneGlobal (s : State) (f : LaneForm) (o : GlobalOp) (addr : Nat → Dword) (g : Group) (q : QEntry) : State :=
  match actives g q f with
  | [] => enterIdle s g f (if o.res.isSome then [f.d.toNat] else []) none
  | t :: r =>
    match List.find? (fun u => decide ((addr u).toNat % o.size ≠ 0)) (t :: r) with
    | some u => trapLane s g tAlign (addr u).toNat u
    | none =>
      if fenced s g false then s
      else probeG s g true (asking o.need ((t :: r).map fun u => (u, (addr u).toNat))) (laneAccess f o g q (t :: r))

/-- The width of an access (R357). -/
def accSize (t : Ty) (sz : AccSz) : Nat :=
  match sz with
  | .full => accBytes t
  | .b8 => 1
  | .b16 => 2

/-- The address of a thread of LD and ST: a plus b, an immediate sign-extended to 64 bits (R358). -/
def addrAB (g : Group) (q : QEntry) (f : LaneForm) (t : Nat) : Dword := lane g f.a.toNat t + opdDword g q 0 f.b t

/-- LD (R358). -/
def execLd (f : LaneForm) (m : MemMod) (s : State) : Host.Outcome State Fault Refusal :=
  .next (laneExec s (.ld f m) fun g q =>
    laneGlobal s f
      { need := needLoad, size := accSize f.ty m.sz, kind := .load, rq := m.req, ord := m.ord, scope := m.scope
        sz := m.sz, aop := .add, res := some .load, data := fun _ => 0, cmp := fun _ => 0 }
      (addrAB g q f) g q)

/-- ST (R358). -/
def execSt (f : LaneForm) (m : MemMod) (s : State) : Host.Outcome State Fault Refusal :=
  .next (laneExec s (.st f m) fun g q =>
    laneGlobal s f
      { need := needStore, size := accSize f.ty m.sz, kind := .store, rq := m.req, ord := m.ord, scope := m.scope
        sz := m.sz, aop := .add, res := none, data := opC g q f, cmp := fun _ => 0 }
      (addrAB g q f) g q)

/-! ## The scratchpad -/

/-- The signed scratchpad offset that LDS and STS name (R361). -/
def spadOff (g : Group) (q : QEntry) (f : LaneForm) (t : Nat) : Int := (addrAB g q f t).toInt

/-- Whether `n` bytes at an offset lie in a crew's allocation (R117). -/
def inAlloc (c : Crew) (off : Int) (n : Nat) : Bool :=
  decide ((c.alloc : Int) ≤ off) && decide (off + n ≤ ((c.alloc + c.size : Nat) : Int))

/-- The stash entry of a crew that an offset lies in. -/
def stashAt (c : Crew) (off : Nat) : Option Stash :=
  c.stash.find? fun e => decide (e.sbase ≤ off) && decide (off < e.sbase + e.foot)

/-- The virtual addresses that the fill of an offset's line needs, one in each home line. -/
def stashNeeds (s : State) (asid : Nat) (e : Stash) (off : Nat) : List Nat :=
  if e.sfmt = 0 then [e.gbase + (off - e.sbase)]
  else match findObj s asid e.obj with
    | none => []
    | some o => ((stashElems o e (off / 64)).map fun x => x.2 / 64 * 64).eraseDups

/-- Put an entry back into its crew. -/
def setStash (s : State) (c : Crew) (e : Stash) : State :=
  setCrew s { c with stash := c.stash.map fun x => if x.slot = e.slot then e else x }

/-- Marks of poison that a filled scratchpad line carries (R282). -/
def carrySpad (s : State) (core line : Nat) (bad : Bool) : State :=
  let words := tab 16 fun k => 16 * line + k
  let old := s.poisonSpad.filter fun p => !(p.1 == core && words.contains p.2)
  { s with poisonSpad := (if bad then words.map fun w => (core, w) else []) ++ old }

/-- The addresses that the fill of an offset's line needs, with their pool addresses: what their pages grant was probed
before. -/
def stashPas (s : State) (asid : Nat) (e : Stash) (off : Nat) : List (Nat × Nat) :=
  (stashNeeds s asid e off).filterMap fun va =>
    match look s asid va {} with
    | .ok pa _ => some (va, pa)
    | _ => none

/-- Whether a scratchpad line holds all of some pool lines. -/
def stashHolds (e : Stash) (off : Nat) (pas : List (Nat × Nat)) : Bool :=
  pas.all fun x => e.filled.contains (off / 64, x.2 / 64)

/-- The pool lines that the first touch of an offset has to fetch (R121, R175). -/
def stashLines (s : State) (g : Group) (off : Nat) : List Nat :=
  match (crewOf s g).bind fun c => stashAt c off with
  | none => []
  | some e =>
    let pas := stashPas s g.asid e off
    if stashHolds e off pas then [] else pas.map fun x => x.2 / 64

/-- Fill a scratchpad line of a stash range from its global line, with ownership, or with the encodings of its
elements, older than which the core keeps none (R121, R136, R175). -/
def fillStash (s : State) (g : Group) (off : Nat) : State :=
  match crewOf s g with
  | none => s
  | some c =>
    match stashAt c off with
    | none => s
    | some e =>
      let line := off / 64
      let pas := stashPas s g.asid e off
      if stashHolds e off pas then s
      else if e.sfmt = 0 then
        match pas with
        | [] => s
        | (_, pa) :: _ =>
          let s := ((dirtyStash e).filter fun f => f.1 = line).foldl (putStashLine g.core) s
          let s := recallLine (freshLine (flushSi s g.gid g.core (some (pa / 64))) g.core (pa / 64)) (pa / 64)
          let bs := tab 64 fun k => cohByte s (pa / 64 * 64 + k)
          let s := carrySpad (spadWrite s g.core (64 * line) bs) g.core line (poisoned s (pa / 64 * 64) 64)
          let c := (crewOf s g).getD c
          let e := (stashAt c off).getD e
          setStash s c { e with filled := (line, pa / 64) :: e.filled.filter fun f => f.1 ≠ line
                                dirty := e.dirty.filter fun l => l ≠ line }
      else match findObj s g.asid e.obj with
        | none => s
        | some o =>
          let s := pas.foldl (fun s x => freshImages s g.core (x.2 / 64)) s
          let c := (crewOf s g).getD c
          let e := (stashAt c off).getD e
          let paOf := fun (va : Nat) => (pas.findSome? fun x => if x.1 = va / 64 * 64 then some (x.2 + va % 64) else none).getD 0
          let bad := pas.any fun x => poisoned s x.2 64
          let s1 := (stashElems o e line).foldl (fun s1 x =>
            spadWrite s1 g.core (64 * line + x.1) (leBytes (sfmtSize e.sfmt) (image e.sfmt o.hfmt (elemBits s o (paOf x.2))))) s
          let s1 := carrySpad s1 g.core line bad
          setStash s1 ((crewOf s1 g).getD c)
            { e with filled := (pas.map fun x => (line, x.2 / 64)) ++ e.filled.filter fun f => f.1 ≠ line }

/-- One thread's access to the scratchpad. -/
structure SpadEl where
  thr : Nat
  off : Nat
  deriving DecidableEq, Repr, Inhabited

/-- What one lane instruction does to the scratchpad: `upd` gives the new value and flags from the old one, for a
store or an atomic. -/
structure SpadOp where
  need : Need
  size : Nat
  release : Bool
  /-- Whether it is an sc access, which reads no old image (R148). -/
  sc : Bool
  scope : Scope
  res : Option ResKind
  /-- Whether it writes, so that a subscribing entry refuses it (R121). -/
  upd : Option (Nat → Nat → Nat × Flags)
  row : Nat → Dword
  /-- Whether its flags go to cr.afflags (R152). -/
  reds : Bool

/-- The first offset that takes SCRATCH (R117, R121, R174). -/
def scratchBad (c : Crew) (o : SpadOp) (thr : Nat) (off : Int) : Option (Nat × Nat) :=
  let info := (BitVec.ofInt 64 off : Dword).toNat
  if !inAlloc c off o.size then some (thr, info)
  else match stashAt c off.toNat with
    | none => none
    | some e => if e.dead || (e.sfmt != 0 && o.upd.isSome) then some (thr, info) else none

/-- The addresses that a scratchpad instruction probes, those of its stash ranges, and their needs: those of the
access, or rd and suba of a subscribing entry (R115, R121, R362). -/
def spadProbes (s : State) (g : Group) (c : Crew) (n : Need) (els : List SpadEl) : List Asked :=
  els.flatMap fun x =>
    match stashAt c x.off with
    | none => []
    | some e => asking (if e.sfmt = 0 then n else needSub) ((stashNeeds s g.asid e x.off).map fun va => (x.thr, va))

/-- The global address that an element in a stash range is an access to, and the kind of its page (R121). -/
def spadHome (s : State) (g : Group) (off : Nat) : Option (Nat × Nat × Nat) :=
  match (crewOf s g).bind fun c => stashAt c off with
  | none => none
  | some e =>
    let va := e.gbase + (off - e.sbase)
    match look s g.asid va {} with
    | .ok pa pte => if e.sfmt = 0 then some (va, pa, pteOk pte) else none
    | _ => none

/-- The writer of an element of a stash range. -/
def spadWriter (s : State) (g : Group) (thr : Nat) (scope : Scope) (ok va : Nat) : Writer :=
  { gid := g.gid, core := g.core, late := false
    cov := { accs := [accessOf (agentOf s g false (maskOf [thr])) ok scope], cores := [], gids := [], fenced := [] }
    via := some (g.asid, va) }

/-- The pool lines of tile-object elements that a scratchpad instruction writes at their homes (R168). -/
def spadObjLines (s : State) (g : Group) (o : SpadOp) (els : List SpadEl) : List Nat :=
  if o.upd.isNone then []
  else els.filterMap fun x =>
    match spadHome s g x.off with
    | some (va, pa, _) => if elemsOf s (some (g.asid, va)) pa o.size = [] then none else some (pa / 64)
    | none => none

/-- The words that a write to the scratchpad covers whole are clean (R282). -/
def cleanSpad (s : State) (core off n : Nat) : State :=
  { s with poisonSpad := s.poisonSpad.filter fun p => !(p.1 == core && decide (off ≤ 4 * p.2) && decide (4 * p.2 + 4 ≤ off + n)) }

/-- Write one element: into the scratchpad, and dirty in a stash line; an element of a tile object is written at
its home (R121, R168). -/
def spadPutEl (s : State) (g : Group) (o : SpadOp) (thr off v : Nat) : State :=
  let size := o.size
  let bs := leBytes size v
  let s := cleanSpad s g.core off size
  match spadHome s g off with
  | none => spadWrite s g.core off bs
  | some (va, pa, ok) =>
    if elemsOf s (some (g.asid, va)) pa size ≠ [] then writeBy s (spadWriter s g thr o.scope ok va) pa bs
    else
      let soil := fun (e : Stash) =>
        if e.sbase ≤ off ∧ off < e.sbase + e.foot then { e with dirty := off / 64 :: e.dirty.filter fun l => l ≠ off / 64 } else e
      let s := match crewOf s g with
        | some c => setCrew s { c with stash := c.stash.map soil }
        | none => s
      spadWrite { s with mem := notePast s.mem pa bs } g.core off bs

/-- Perform the elements in ascending thread order: old values, and flags. -/
def spadRun (s : State) (g : Group) (o : SpadOp) (els : List SpadEl) : State × List (Nat × Nat) × Flags :=
  els.foldl (fun (a : State × List (Nat × Nat) × Flags) x =>
    let s := fillStash a.1 g x.off
    let old := spadNat s g.core x.off o.size
    match o.upd with
    | none => (s, a.2.1 ++ [(x.thr, old)], a.2.2)
    | some k =>
      let n := k x.thr old
      (spadPutEl s g o x.thr x.off n.1, a.2.1 ++ [(x.thr, old)], a.2.2 ||| n.2)) (s, [], 0)

/-- The threads whose accesses are ordered as on an rc or so page: all but those to stash lines of uo pages (R144). -/
def spadSync (els : List SpadEl) (fs : List Found) : List Nat :=
  ((els.map (·.thr)).eraseDups).filter fun t => !(fs.any fun x => x.thr == t && x.ok == kindUo)

/-- Whether an access has to wait: for a fence, for an earlier acquire, as a release for earlier accesses, as a write behind
a release fence for what the fence covers, and for a request of the core to a line of its stash ranges or a message of its
own writes of one; each access follows its page's kind (R141, R144, R147, R170). -/
def spadWaits (s : State) (g : Group) (o : SpadOp) (els : List SpadEl) (fs : List Found) : Bool :=
  let sync := spadSync els fs
  let apart := sync.filter fun t => !(fs.any fun x => x.thr == t)
  fenced s g false || acquireWaits s g false (maskOf apart) kindRc ||
  (o.release && decide (sync ≠ []) && releaseWaits s g false (maskOf sync) o.scope) ||
  (o.upd.isSome && (writeFenced s (agentOf s g false (maskOf apart)) kindRc ||
    fs.any fun x => writeFenced s (agentOf s g false (maskOf [x.thr])) x.ok)) ||
  fs.any fun x => lineBusy s g.core (x.pa / 64) || acquireWaits s g false (maskOf [x.thr]) x.ok ||
    ownMsg s g.core (x.pa / 64) g.asid (x.va / 64)

/-- The old images that a scratchpad instruction may not read: all of them on a so page, or in an sc access (R140, R148). -/
def spadFresh (s : State) (g : Group) (o : SpadOp) (fs : List Found) : State :=
  (fs.filter fun x => o.sc || x.ok == kindSo).foldl (fun s x => freshImages s g.core (x.pa / 64)) s

/-- What a scratchpad instruction does before it acts: the core's buffered stores go home, of the lines that it accesses, and
all of them at a release; the lines that it needs are fetched, or reached where tile elements are written there; and the
core's older copies of what it writes go (R121, R123, R136, R168). -/
def spadLines (s : State) (g : Group) (o : SpadOp) (els : List SpadEl) (fs : List Found) : State × Bool :=
  let mine := (bufferedSi s g.core none).filter fun l => o.release || fs.any fun x => x.pa / 64 == l.line
  let a := flushLines s (laneWho g) g.gid g.core (mine.map (·.line))
  let s := a.1
  let lines := (els.flatMap (fun x => stashLines s g x.off) ++ spadObjLines s g o els).eraseDups
  let b := if !a.2 || lines = [] then a else reachCore s g.core (laneWho g) clsDemand lines
  if !b.2 || o.upd.isNone then b
  else (((fs.map fun x => x.pa / 64).eraseDups).foldl (fun s l => freshLine s g.core l) b.1, true)

/-- Whether a word that an element covers is poisoned. -/
def spadPoison (s : State) (core off n : Nat) : Bool :=
  s.poisonSpad.any fun p => p.1 == core && decide (4 * p.2 < off + n) && decide (off < 4 * p.2 + 4)

/-- The accesses of a scratchpad instruction that passed its checks; a release waits for what the buffered stores that it sends
home have sent (R169). -/
def spadAccess (f : LaneForm) (o : SpadOp) (g : Group) (q : QEntry) (act : List Nat) (els : List SpadEl) (s : State)
    (fs : List Found) : State :=
  let rel := o.release && spadSync els fs != []
  let r := if spadWaits s g o els fs then (s, false) else spadLines (spadFresh s g o fs) g o els fs
  let s := r.1
  let a := agentOf s g false (maskOf (spadSync els fs))
  if !r.2 || (rel && releaseStands s a o.scope) then s
  else
    let s := if rel then releaseL1 s a o.scope else s
    let s := advanceStreams (els.foldl (fun s x => fillStash s g x.off) s) g.core g.asid fs
    match (if o.need.rd then els.find? fun x => spadPoison s g.core x.off o.size else none) with
    | some x =>
      let home := (List.find? (fun (y : Found) => y.thr == x.thr) fs).map fun y => (y.pa, y.va)
      consume s g 0 (home.getD (0, 0)).1 (home.getD (0, 0)).2 o.need.acc
    | none =>
      let out := spadRun s g o els
      let s := if o.reds then orAfflags out.1 g.asid out.2.2 else out.1
      let g := (findGroup s.groups g.gid).getD g
      match o.res with
      | none => setG s (entered g f)
      | some kind =>
        let ws := out.2.1.foldl (fun c x => Cells.put c (32 * f.d.toNat + x.1) (o.row x.2)) []
        enterPending s g f act { newInfl s g q f kind [f.d.toNat] with writes := ws, flags := out.2.2, vpages := pagesOf fs }

/-- A lane access to the scratchpad: ALIGN, then SCRATCH, then the probe of stash ranges (R117, R361, R362). -/
def laneSpad (s : State) (f : LaneForm) (o : SpadOp) (off : Nat → Int) (g : Group) (q : QEntry) : State :=
  match actives g q f with
  | [] => enterIdle s g f (if o.res.isSome then [f.d.toNat] else []) none
  | t :: r =>
    match List.find? (fun u => decide (off u % (o.size : Int) ≠ 0)) (t :: r) with
    | some u => trapLane s g tAlign (BitVec.ofInt 64 (off u) : Dword).toNat u
    | none =>
      match crewOf s g with
      | none => s
      | some c =>
        match (t :: r).findSome? fun u => scratchBad c o u (off u) with
        | some x => trapLane s g tScratch x.2 x.1
        | none =>
          let els := (t :: r).map fun u => ({ thr := u, off := (off u).toNat } : SpadEl)
          probeG s g true (spadProbes s g c o.need els) (spadAccess f o g q (t :: r) els)

/-- The scope of a scratchpad form: code 000 means core (R138). -/
def spadScope : Scope → Scope
  | .pkg => .core
  | sc => sc

/-- What a loaded element becomes in its row (R310, R358). -/
def spadRow (f : LaneForm) (sz : AccSz) (v : Nat) : Dword := loadRow { (default : Req) with sz := sz, ty := f.ty } v

/-- LDS (R361, R362). -/
def execLds (f : LaneForm) (m : MemMod) (s : State) : Host.Outcome State Fault Refusal :=
  .next (laneExec s (.lds f m) fun g q =>
    laneSpad s f
      { need := needLoad, size := accSize f.ty m.sz, release := false, sc := m.ord == .sc, scope := spadScope m.scope, res := some .scratch
        upd := none, row := fun v => spadRow f m.sz v, reds := false } (spadOff g q f) g q)

/-- STS (R361, R362). -/
def execSts (f : LaneForm) (m : MemMod) (s : State) : Host.Outcome State Fault Refusal :=
  .next (laneExec s (.sts f m) fun g q =>
    let n := accSize f.ty m.sz
    laneSpad s f
      { need := needStore, size := n, release := m.ord != .plain, sc := m.ord == .sc, scope := spadScope m.scope, res := none
        upd := some fun t _ => ((opC g q f t).toNat % 2 ^ (8 * n), 0), row := fun _ => 0, reds := false }
      (spadOff g q f) g q)

/-- The element sizes, operations and flags of ATOM and RED on the scratchpad (R315, R384). -/
def spadAtom (g : Group) (q : QEntry) (f : LaneForm) (m : AtomMod) (isRed : Bool) : SpadOp :=
  { need := needAtomic, size := accBytes f.ty, release := !isRed, sc := !isRed, scope := spadScope m.scope
    res := if isRed then none else some .scratch
    upd := some fun t old => atomNew m.aop f.ty old (opB g q f t).toNat (opC g q f t).toNat
    row := fun v => rowOf f.ty v, reds := isRed }

/-- ATOM and RED on global memory (R315, R384). -/
def globalAtom (g : Group) (q : QEntry) (f : LaneForm) (m : AtomMod) (isRed : Bool) : GlobalOp :=
  { need := needAtomic, size := accBytes f.ty, kind := if isRed then .red else .atomic, rq := m.req
    ord := if isRed then .plain else .sc, scope := m.scope, sz := .full, aop := m.aop
    res := if isRed then none else some .atomic, data := opB g q f, cmp := opC g q f }

/-- ATOM (R315, R316): the address is row a; the scratchpad form reads it as an offset. -/
def execAtom (f : LaneForm) (m : AtomMod) (s : State) : Host.Outcome State Fault Refusal :=
  .next (laneExec s (.atom f m) fun g q =>
    if m.spad then laneSpad s f (spadAtom g q f m false) (fun t => (lane g f.a.toNat t).toInt) g q
    else laneGlobal s f (globalAtom g q f m false) (fun t => lane g f.a.toNat t) g q)

/-- RED (R384, R385). -/
def execRed (f : LaneForm) (m : AtomMod) (s : State) : Host.Outcome State Fault Refusal :=
  .next (laneExec s (.red f m) fun g q =>
    if m.spad then laneSpad s f (spadAtom g q f m true) (fun t => (lane g f.a.toNat t).toInt) g q
    else laneGlobal s f (globalAtom g q f m true) (fun t => lane g f.a.toNat t) g q)

/-! ## Prefetch and fences -/

/-- One line of PREF (R376). -/
def prefOne (s : State) (g : Group) (lvl : PrefLvl) (rq : ReqTy) (va : Nat) : State :=
  match look s g.asid va needLoad, lvl with
  | .ok pa e, .l1 => prefLine s g.core g.asid g.gid 0 rq va pa (pteOk e)
  | .ok pa e, .llc => prefLine s g.core g.asid g.gid 1 rq va pa (pteOk e)
  | .absent pa, .res => addPageWait s (pageOf pa) (srcCore g.core) .hint true
  | _, _ => s

/-- PREF: threads that name one line make one prefetch (R376); it does not issue while a fence stands (R341). -/
def execPref (f : LaneForm) (lvl : PrefLvl) (rq : ReqTy) (s : State) : Host.Outcome State Fault Refusal :=
  .next (laneExec s (.pref f lvl rq) fun g q =>
    if fenced s g false && actives g q f != [] then s else
    if (actives g q f).any fun t => !walkOpen s g.asid (addrAB g q f t).toNat then s else
    let lines := ((actives g q f).map fun t => (addrAB g q f t).toNat / 64).eraseDups
    setG (lines.foldl (fun s l => prefOne s g lvl rq (64 * l)) s) (entered g f))

/-- Record a fence, which stands until what it orders is performed (R341, R401); what it does in the L1 then is
`fenceMet`. -/
def addFence (s : State) (g : Group) (scalar : Bool) (mask : Word) (m : FenceMod) : Group :=
  let fr : FenceRec := { scalar := scalar, mask := mask, m := m, upto := s.nextId }
  { g with fences := g.fences ++ [fr] }

/-- FENCE: it acts for each active thread (R147, R341), once the buffered `.si` stores have gone home (R123). -/
def execFence (f : LaneForm) (m : FenceMod) (s : State) : Host.Outcome State Fault Refusal :=
  .next (laneExec s (.fence f m) fun g q =>
    match actives g q f with
    | [] => setG s (entered g f)
    | act =>
      let r := flushPaid s (laneWho g) g.gid g.core none
      let s := r.1
      if r.2 then setG s (entered (addFence s g false (maskOf act) m) f) else s)

/-! ## The cache instructions -/

/-- What a cache instruction does with the copies of a line. -/
inductive CacheAct where
  | clean | invalidate | discard
  deriving DecidableEq, Repr, Inhabited

/-- The range of a thread, and one address in each page that it touches (R326). -/
def cacheRange (g : Group) (q : QEntry) (f : LaneForm) (t : Nat) : Nat × Nat :=
  ((lane g f.a.toNat t).toNat, min (opdDword g q 0 f.b t).toNat (2 ^ 30))
def rangePages (va n : Nat) : List Nat :=
  if n = 0 then [] else tab ((va + n - 1) / 4096 - va / 4096 + 1) fun k => max va ((va / 4096 + k) * 4096)

/-- Whether a core's copies are selected by a scope (R327). -/
def coreSelected (g : Group) (scope : Scope) (core : Nat) : Bool := wideScope scope || core == g.core

/-- Whether a holder is a quad unit and no core. -/
def isQuadUnit (holder : Nat) : Bool := decide (4096 ≤ holder)

/-- Whether a selected copy of a line is dirty. -/
def dirtyCopy (s : State) (g : Group) (scope : Scope) (line : Nat) : Bool :=
  (s.mem.l1.any fun l => l.line == line && coreSelected g scope l.core && (l.kind == .owned || l.buffered)) ||
  (s.crews.any fun c => coreSelected g scope c.core && c.stash.any fun e =>
    e.sfmt == 0 && e.filled.any fun x => x.2 == line && e.dirty.contains x.1) ||
  (scope == .sys && (s.mem.llc.any (fun e => e.1 / 64 == line) || s.mem.loc.any (fun e => e.1 / 64 == line)))

/-- The dirty stash copies of a line that a scope selects: core and scratchpad line. -/
def selectedStash (s : State) (g : Group) (scope : Scope) (line : Nat) : List (Nat × Nat) :=
  (stashDirty s line).filter fun x => coreSelected g scope x.1

/-- Write back the selected copies of a line, and at sys scope go on to the pool page (R328). A buffered store that goes home
is compared there (R168), and the marks of poison go with the data (R282). -/
def cleanCopies (s : State) (g : Group) (scope : Scope) (line : Nat) : State :=
  let mine := fun (l : L1Line) => l.line == line && coreSelected g scope l.core
  let s := (s.mem.l1.filter fun l => mine l && l.buffered).foldl (fun s l => flushSi s g.gid l.core (some line)) s
  let sel := s.mem.l1.filter fun l => mine l && l.kind == .owned
  let m := sel.foldl (fun m l => mergeHome m l.bytes) s.mem
  let m := (selectedStash s g scope line).foldl (fun m d => putStash s m d.1 d.2 line) m
  let keep := fun (l : L1Line) => if sel.contains l then { l with kind := .shared, bytes := [] } else l
  let wash := fun (e : Stash) =>
    { e with dirty := e.dirty.filter fun d => !(e.filled.any fun x => x.1 == d && x.2 == line) }
  let s := { s with
    mem := { m with l1 := (m.l1.filter fun l => !(sel.contains l && isQuadUnit l.core)).map keep }
    crews := s.crews.map fun c => if coreSelected g scope c.core then { c with stash := c.stash.map wash } else c }
  if scope ≠ .sys then sendHome s line else { s with mem := lineToPool s.mem line }

/-- Drop the selected copies of a line, with no write-back of what they hold (R328). -/
def dropCopies (s : State) (g : Group) (scope : Scope) (line : Nat) : State :=
  let strip := fun (e : Stash) =>
    { e with dirty := e.dirty.filter fun d => !(e.filled.any fun x => x.1 == d && x.2 == line)
             filled := e.filled.filter fun x => x.2 ≠ line }
  let es := elemsAt s (64 * line) 64
  let seen := fun (i : Image) => coreSelected g scope i.core &&
    es.any fun x => x.1.asid == i.asid && x.1.num == i.obj && x.2 / 64 == i.vline
  let s := { s with
    mem := { s.mem with
      l1 := s.mem.l1.filter fun l => !(l.line == line && coreSelected g scope l.core)
      invals := s.mem.invals.filter fun i => !(i.line == line && coreSelected g scope i.core) }
    coh := { s.coh with images := s.coh.images.filter fun i => !seen i }
    crews := s.crews.map fun c => if coreSelected g scope c.core then { c with stash := c.stash.map strip } else c }
  if scope ≠ .sys then s
  else { s with mem := { s.mem with
      llc := s.mem.llc.filter fun e => e.1 / 64 ≠ line
      loc := s.mem.loc.filter fun e => e.1 / 64 ≠ line } }

/-- What a discarded byte holds: its value at the home, or one that a write has given it so far, by a free choice (R328,
log 6). -/
def discarded (m : Mem) (sys : Bool) (draw pa : Nat) : Byte :=
  let vs := (m.past.find pa).getD []
  let home := if sys then m.pool.get 0 pa else homeByte m pa
  vs.getD ((Config.freeWord draw).toNat % (vs.length + 1)) home

/-- Discard the dirty data of the selected copies of a line (R328). The bytes of a tile object's elements are dirty in no copy
above the home, so that they keep their home value but at sys scope, which drops every image of the line (R168, R169). -/
def discardCopies (s : State) (g : Group) (scope : Scope) (line : Nat) : State :=
  let sys := scope == .sys
  let kept := fun (pa : Nat) => !sys && elemsAt s pa 1 != []
  let new := ((tab 64 fun k => 64 * line + k).zipIdx.filter fun x => !kept x.1).map fun x =>
    (x.1, discarded s.mem sys (s.draws + x.2) x.1)
  let s := dropCopies { s with draws := s.draws + 64 } g scope line
  let put := fun (m : Mem) (x : Nat × Byte) => if sys then poolPut m x.1 x.2
    else if homeByte m x.1 = x.2 then m else homePut m x.1 x.2
  { s with mem := new.foldl put s.mem }

/-- Act on one line; `dsc` is its leaf's discard bit. The count grows with each line whose dirty data is
discarded (R328). -/
def cacheLine (a : CacheAct) (g : Group) (scope : Scope) (dsc : Bool) (x : State × Nat) (line : Nat) : State × Nat :=
  match a with
  | .clean => (cleanCopies x.1 g scope line, x.2)
  | .invalidate => (dropCopies (cleanCopies x.1 g scope line) g scope line, x.2)
  | .discard =>
    if dsc then
      (if dirtyCopy x.1 g scope line then (discardCopies x.1 g scope line, x.2 + 1) else (dropCopies x.1 g scope line, x.2))
    else (dropCopies (cleanCopies x.1 g scope line) g scope line, x.2)

/-- The pool lines of a range that lie in one resident page, and the page's discard bit (R326). -/
def cachePage (s : State) (g : Group) (n : Need) (va len page : Nat) : Option (Bool × List Nat) :=
  match look s g.asid page n with
  | .ok pa pte =>
    let stop := min (va + len) ((page / 4096 + 1) * 4096)
    some (pteDsc pte, linesOf pa (stop - page))
  | _ => none

/-- The resources that writing back the selected copies of a line needs: its slice for each, and at sys scope the port to the
pool or the host (R28, R328). -/
def cleanResources (s : State) (g : Group) (scope : Scope) (line : Nat) : List Nat :=
  let dirty := (s.mem.l1.filter fun l => l.line == line && coreSelected g scope l.core && (l.kind == .owned || l.buffered)).length +
    (selectedStash s g scope line).length
  (List.replicate dirty (wbResources s line)).flatten ++
  (if scope = .sys ∧ !remote s line ∧ !(s.xl.firm.any fun f => f.page == line / 64) then [resPort (portOf s (64 * line)) 1] else [])

/-- Write back the selected dirty copies of some lines one after another, each once it has been charged as demand traffic;
`false` while some wait (R23, R27, R29). -/
def cleanLines (s : State) (g : Group) (scope : Scope) : List Nat → State × Bool
  | [] => (s, true)
  | l :: r =>
    if !dirtyCopy s g scope l then cleanLines s g scope r
    else if !sendable s [l] || !slotsOk s g.core [l] then (s, false)
    else
      let x := claim s (laneWho g) clsDemand 64 (cleanResources s g scope l)
      if x.2 then cleanLines (cleanCopies (countOwn (useHome x.1 l) l) g scope l) g scope r else x

/-- The lines of the ranges whose dirty copies are written back: all but those that CDISC discards (R328). -/
def cleanedLines (s : State) (g : Group) (a : CacheAct) (n : Need) (ranges : List (Nat × Nat)) : List Nat :=
  ranges.flatMap fun r => (rangePages r.1 r.2).flatMap fun page =>
    match cachePage s g n r.1 r.2 page with
    | none => []
    | some y => if a = .discard ∧ y.1 then [] else y.2

/-- Act on the ranges of every active thread. -/
def cacheAll (s : State) (g : Group) (a : CacheAct) (scope : Scope) (n : Need) (ranges : List (Nat × Nat)) : State × Nat :=
  ranges.foldl (fun x r =>
    (rangePages r.1 r.2).foldl (fun x page =>
      (match cachePage s g n r.1 r.2 page with
       | none => x
       | some y => y.2.foldl (cacheLine a g scope y.1) x)) x) (s, 0)

/-- Whether the group's thread stream has an access under way to a line of the ranges. -/
def cacheBusy (s : State) (g : Group) (n : Need) (ranges : List (Nat × Nat)) : Bool :=
  ranges.any fun r => (rangePages r.1 r.2).any fun page =>
    (match cachePage s g n r.1 r.2 page with
     | none => false
     | some x => x.2.any (lineBusy s g.core))

/-- Whether a cache instruction has to wait, as a write by its threads: for accesses of the core under way there, for earlier
acquires, and behind a release fence for what the fence covers (R141, R147, R329). -/
def cacheWaits (s : State) (g : Group) (n : Need) (ranges : List (Nat × Nat)) (fs : List Found) : Bool :=
  cacheBusy s g n ranges || fs.any fun x =>
    acquireWaits s g false (maskOf [x.thr]) x.ok || writeFenced s (agentOf s g false (maskOf [x.thr])) x.ok

/-- A cache instruction: translation and permission over every page, no ALIGN; a page that is not resident is
skipped (R326 to R329). `sreg` receives the count. -/
def cacheOp (s : State) (f : LaneForm) (a : CacheAct) (scope : Scope) (n : Need) (sreg : Option SReg) (g : Group)
    (q : QEntry) : State :=
  match actives g q f with
  | [] => enterIdle s g f [] sreg
  | t :: r =>
    let ranges := (t :: r).map fun u => (u, cacheRange g q f u)
    let els := ranges.flatMap fun x => (rangePages x.2.1 x.2.2).map fun va => (x.1, va)
    let here := els.filter fun e => match look s g.asid e.2 n with | .absent _ => false | _ => true
    if fenced s g false then s
    else probeG s g true (asking n here) fun s fs =>
      let w := if cacheWaits s g n (ranges.map Prod.snd) fs then (s, false)
        else cleanLines s g scope (cleanedLines s g a n (ranges.map Prod.snd))
      let s := w.1
      if !w.2 then s
      else
        let out := cacheAll s g a scope n (ranges.map Prod.snd)
        let g := (findGroup out.1.groups g.gid).getD g
        enterPending out.1 g f (t :: r)
          { newInfl out.1 g q f .cache [] with sreg := sreg, sval := dw out.2, aux := out.2, vpages := pagesOf fs }

/-- CINV (R328). -/
def execCinv (f : LaneForm) (scope : Scope) (s : State) : Host.Outcome State Fault Refusal :=
  .next (laneExec s (.cinv f scope) (cacheOp s f .invalidate scope needLoad none))

/-- CWB (R328). -/
def execCwb (f : LaneForm) (scope : Scope) (s : State) : Host.Outcome State Fault Refusal :=
  .next (laneExec s (.cwb f scope) (cacheOp s f .clean scope needLoad none))

/-- CDISC (R328): the count goes to its scalar register when it retires. -/
def execCdisc (f : LaneForm) (scope : Scope) (s : State) : Host.Outcome State Fault Refusal :=
  .next (laneExec s (.cdisc f scope) (cacheOp s f .discard scope needStore (scalarDest (.cdisc f scope))))

end Sys2Proof.Machine
end

