-- ==== Sys2Proof/Machine/LaneSync.lean ====
section
/-! DEFINITION. Barriers, named queues, waits, idempotent regions and lane conditions, and the waking of the
groups that wait on them (R180 to R188, R277, R318 to R321, R351, R377, R446 to R450). -/

namespace Sys2Proof.Machine

/-! ## Barriers -/

/-- A barrier's place: an object's scratchpad offset, or a network index (R318). -/
inductive BarAt where
  | obj (off : Nat)
  | net (idx : Nat)
  deriving DecidableEq, Repr, Inhabited

/-- A barrier as the arrival and the test see it: its fields, and whether its checks hold but for pend (R180). -/
structure BarVal where
  gen : Nat
  expct : Nat
  pend : Nat
  inc : Nat
  outc : Nat
  sound : Bool
  deriving DecidableEq, Repr, Inhabited

/-- The instance of a network that a group belongs to (R13, R185). -/
def netInst (s : State) (g : Group) (idx : Nat) : Nat :=
  match nbits idx 6 2 with
  | 0 => quadOf g.core
  | 1 => dieOf s g.core
  | _ => 0

/-- The scope of a barrier (R183, R185). -/
def barScope (b : BarAt) : Scope :=
  match b with
  | .obj _ => .core
  | .net idx => match nbits idx 6 2 with | 0 => .quad | 1 => .die | 2 => .pkg | _ => .pod

/-- The scoped barrier that a group names, if its grid holds one (R186). -/
def findBar (s : State) (g : Group) (idx : Nat) : Option ScopedBar :=
  s.sbars.find? fun b => b.grid == g.grid && b.net == nbits idx 6 2 && b.inst == netInst s g idx && b.slot == nbits idx 0 4

/-- Read a barrier object's fields (R180). -/
def objVal (x : Nat) : BarVal :=
  { gen := nbits x 0 4, expct := nbits x 16 16, pend := nbits x 32 16, inc := nbits x 48 32, outc := nbits x 80 32
    sound := nbits x 112 16 == 0 && nbits x 4 12 == 0 && nbits x 16 16 != 0 }

/-- A barrier object from its fields. -/
def objBits (v : BarVal) : Nat :=
  v.gen % 16 + 2 ^ 16 * (v.expct % 2 ^ 16) + 2 ^ 32 * (v.pend % 2 ^ 16) + 2 ^ 48 * (v.inc % 2 ^ 32) +
  2 ^ 80 * (v.outc % 2 ^ 32)

/-- Read a barrier; `none` when the grid holds no such scoped barrier (R186). -/
def barVal (s : State) (g : Group) (b : BarAt) : Option BarVal :=
  match b with
  | .obj off => some (objVal (spadNat s g.core off 16))
  | .net idx => (findBar s g idx).map fun x =>
      { gen := x.gen, expct := x.expct, pend := x.pend, inc := 0, outc := 0, sound := true }

/-- Write the fields of a barrier that an arrival or a transfer step changes. An object's other bits stand. -/
def barPut (s : State) (g : Group) (b : BarAt) (v : BarVal) : State :=
  match b with
  | .obj off =>
    let old := spadNat s g.core off 16
    let keep := old - objBits (objVal old)
    spadWrite s g.core off (leBytes 16 (keep + objBits v))
  | .net idx => match findBar s g idx with
    | none => s
    | some x => { s with sbars := s.sbars.map fun y => if y = x then { y with gen := v.gen, pend := v.pend } else y }

/-- Complete a phase when nothing is awaited (R182). -/
def barComplete (v : BarVal) : BarVal :=
  if v.pend = 0 ∧ v.inc = 0 ∧ v.outc = 0 then { v with gen := (v.gen + 1) % 16, pend := v.expct } else v

/-- One arrival (R182). -/
def barArrive (v : BarVal) (nIn nOut : Nat) : BarVal :=
  barComplete { v with pend := v.pend - 1, inc := (v.inc + nIn) % 2 ^ 32, outc := (v.outc + nOut) % 2 ^ 32 }

/-- One transfer step of a barrier object, inbound or outbound (R182). -/
def barTransfer (v : BarVal) (inbound : Bool) : BarVal :=
  barComplete (if inbound then { v with inc := (v.inc + 2 ^ 32 - 1) % 2 ^ 32 }
    else { v with outc := (v.outc + 2 ^ 32 - 1) % 2 ^ 32 })

/-- Whether a phase of generation `n` is over (R183). -/
def phaseOver (gen n : Nat) : Bool := (gen + 16 - n % 16) % 16 != 0

/-- The barrier that operand b names (R318). -/
def barAt (g : Group) (q : QEntry) (f : LaneForm) (net : Bool) : BarAt :=
  if net then .net ((opdDword g q 0 f.b 0).toNat % 256) else .obj (opdDword g q 0 f.b 0).toNat

/-- The info of a trap at a barrier (R271). -/
def barInfo (b : BarAt) : Nat := match b with | .obj off => off | .net idx => idx

/-- Find a barrier and make its checks: ALIGN, SCRATCH, then SYNCOBJ, on which `ok` has the last word (R318); an object whose
words are poisoned is consumed as it is read (R282). -/
def withBar (s : State) (g : Group) (q : QEntry) (f : LaneForm) (net : Bool) (thr : Nat) (ok : BarVal → Bool)
    (k : BarAt → BarVal → State) : State :=
  let b := barAt g q f net
  let off := opdInt g q 0 f.b 0
  let info := barInfo b
  match crewOf s g with
  | none => s
  | some c =>
    if !net && decide (off % 16 ≠ 0) then trapLane s g tAlign info thr
    else if !net && !inAlloc c off 16 then trapLane s g tScratch info thr
    else if !net && spadPoison s g.core off.toNat 16 then consume s g 0 0 0
    else match barVal s g b with
      | none => trapLane s g tSyncobj info thr
      | some v => if v.sound && ok v then k b v else trapLane s g tSyncobj info thr

/-- The key under which a group keeps its last arrival at a barrier. -/
def barKey (b : BarAt) : Nat := match b with | .obj off => off | .net idx => 2 ^ 21 + idx

/-- Whether an arrival at the pod's network cannot be sent yet: in a pod it goes over the pod links, once the pod's time has been
adopted and a link is up (R17, R23, R307). A package that has joined no pod is the whole network (DESIGN CHOICE, log 10). -/
def podBarrier (s : State) (b : BarAt) : Bool :=
  match b with
  | .obj _ => false
  | .net idx =>
    decide (nbits idx 6 2 = 3) && s.pkg.podPos.isSome &&
    !(s.pkg.podTraffic && (List.range s.pkg.links.length).any fun l => (downSince s l).isNone)

/-- BARA: the checks and the arrival are one step, before it counts as entered (R182, R319, R464). -/
def execBara (f : LaneForm) (m : BarMod) (s : State) : Host.Outcome State Fault Refusal :=
  .next (laneExec s (.bara f m) fun g q =>
    match actives g q f with
    | [] => enterIdle s g f [] (scalarDest (.bara f m))
    | u :: r =>
      let sc := barScope (barAt g q f m.net)
      let a := agentOf s g false (maskOf (u :: r))
      if fenced s g false || releaseWaits s g false (maskOf (u :: r)) sc || podBarrier s (barAt g q f m.net) then s
      else
        let x := (opA g f u).toNat
        let nIn := if m.inn then nbits x 0 32 else 0
        let nOut := if m.out then nbits x 32 32 else 0
        withBar s g q f m.net u (fun v => v.pend != 0 && !(m.net && (nIn != 0 || nOut != 0))) fun b v =>
          let w := releasePaid s (laneWho g) a sc
          if !w.2 then w.1 else
          let s := barPut w.1 g b (barArrive v nIn nOut)
          let g := { g with arrived := g.arrived.put (barKey b) v.gen }
          enterPending s g f (u :: r)
            { newInfl s g q f .barrier [] with sreg := scalarDest (.bara f m), sval := dw v.gen })

/-- The target that a group waiting on a barrier publishes (R58). -/
def barTarget (g : Group) (b : BarAt) : Target := match b with | .obj off => .barrier g.core off | .net idx => .scoped idx
def barPark (b : BarAt) : Park := match b with | .obj off => .barrier off | .net idx => .scoped idx

/-- BARW: it returns when its phase is over, or parks (R321). -/
def execBarw (f : LaneForm) (net : Bool) (s : State) : Host.Outcome State Fault Refusal :=
  .next (laneExec s (.barw f net) fun g q =>
    match actives g q f with
    | [] => enterIdle s g f [] none
    | u :: r =>
      if fenced s g false || acquireWaits s g false (maskOf (u :: r)) kindRc then s
      else withBar s g q f net u (fun _ => true) fun b v =>
        if phaseOver v.gen (opdDword g q 1 f.c 0).toNat then setG (acquireL1 s g.gid g.core (barScope b)) (entered g f)
        else parkG s g (barPark b) (barTarget g b) true)

/-- BARTW: tested at once; else its test goes on until its hint has elapsed, while the group goes on issuing: at every step,
and once it has held its result is 1 (R184, R320). The record keeps the barrier, the generation and the form beside the deadline. -/
def execBartw (f : LaneForm) (net : Bool) (s : State) : Host.Outcome State Fault Refusal :=
  .next (laneExec s (.bartw f net) fun g q =>
    match actives g q f with
    | [] => enterIdle s g f [] (scalarDest (.bartw f net))
    | u :: r =>
      if fenced s g false || acquireWaits s g false (maskOf (u :: r)) kindRc then s
      else withBar s g q f net u (fun _ => true) fun b v =>
        let gen := (opdDword g q 1 f.c 0).toNat % 16
        let hint := (opA g f u).toNat
        let i := { newInfl s g q f .barrier [] with sreg := scalarDest (.bartw f net) }
        if phaseOver v.gen gen then
          enterPending (acquireL1 s g.gid g.core (barScope b)) g f (u :: r) { i with sval := 1 }
        else if hint = 0 then enterPending s g f (u :: r) { i with sval := 0 }
        else
          enterPending s g f (u :: r)
            { i with kind := .tryBar, aux := s.pkg.time.toNat + hint
                     caps := [dw (barInfo b), dw gen, if net then 1 else 0, dw hint] })

/-- Whether the words of the barrier object of an unfinished BARTW are poisoned: it consumes them as it tests the object
(R282). -/
def tryBad (s : State) (g : Group) (i : Inflight) : Bool :=
  i.sval != 1 && i.caps.getD 2 0 != 1 && spadPoison s g.core (i.caps.getD 0 0).toNat 16

/-- Whether the condition of an unfinished BARTW holds, or has held since its issue, with its scope. -/
def tryHolds (s : State) (g : Group) (i : Inflight) : Option Scope :=
  let x := (i.caps.getD 0 0).toNat
  let b : BarAt := if i.caps.getD 2 0 = 1 then .net x else .obj x
  if i.sval = 1 then some (barScope b)
  else if tryBad s g i then none
  else match barVal s g b with
    | none => none
    | some v => if phaseOver v.gen (i.caps.getD 1 0).toNat then some (barScope b) else none

/-- An unfinished BARTW whose condition holds now keeps that it held (R184, R320). -/
def latchTry (s : State) (g : Group) (i : Inflight) : Inflight :=
  if i.kind = .tryBar ∧ (tryHolds s g i).isSome then { i with sval := 1 } else i
def latchTries (s : State) : State :=
  { s with groups := s.groups.map fun g => { g with infl := g.infl.map (latchTry s g) } }

/-- Whether an earlier RAST of the core is still being served: the raster unit serves them in issue order (R249). -/
def rastAhead (s : State) (g : Group) (id : Nat) : Bool :=
  s.groups.any fun x => x.core == g.core && x.infl.any fun i => i.kind == .rast && decide (i.id < id)

/-- RESULT_RETURN: a result that waits for nothing more is delivered (R43); an unfinished BARTW returns 1 once
its condition holds (R320), or consumes a poisoned object (R282), and a POISON record of a ray is consumed as it is delivered, as its engine met it: source,
cause, pool address and address (R241, R282). -/
def execResultReturn (gid id : Nat) (s : State) : Host.Outcome State Fault Refusal :=
  .next (match findGroup s.groups gid with
    | none => s
    | some g =>
      match g.infl.find? fun i => i.id == id && i.needs == 0 with
      | none => s
      | some i =>
        if i.kind = .rast ∧ rastAhead s g id then s
        else if i.kind = .tryBar then
          match tryHolds s g i with
          | some sc => deliver (acquireL1 s g.gid g.core sc) g { i with sval := 1 }
          | none => if tryBad s g i then consume s g 0 0 0 else s
        else if i.kind = .trace ∧ i.aux = 1 then
          let g := returnResult s g i
          let x := fun k => (i.caps.getD k 0).toNat
          consumeAt (setG s g) g (x 0) (x 1) (x 2) (x 3) needLoad.acc
        else deliver s g i)

/-! ## Named queues -/

/-- A queue descriptor's fields (R187). -/
def qHead (x : Nat) : Nat := nbits x 128 32
def qTail (x : Nat) : Nat := nbits x 96 32
def qAllow (x : Nat) : Nat := nbits x 64 32
def qDepth (x : Nat) : Nat := 2 ^ nbits x 32 4
def qRing (x : Nat) : Nat := nbits x 0 21
def qFieldsOk (x : Nat) : Bool :=
  nbits x 160 96 == 0 && nbits x 36 28 == 0 && nbits x 21 11 == 0 && decide (nbits x 32 4 ≤ 8)
def qUsed (x : Nat) : Nat := (qTail x + 2 ^ 32 - qHead x) % 2 ^ 32

/-- A descriptor with its head, tail and allowance replaced. -/
def qSet (x head tail allow : Nat) : Nat :=
  x % 2 ^ 64 + 2 ^ 64 * (allow % 2 ^ 32) + 2 ^ 96 * (tail % 2 ^ 32) + 2 ^ 128 * (head % 2 ^ 32)

/-- The offset of a queue's descriptor (R187). -/
def qOff (c : Crew) (q : Nat) : Nat := c.alloc + 32 * q

/-- Whether a push or a pop of `n` handles has to wait (R188). -/
def pushWaits (x n : Nat) : Bool := decide (qAllow x < n) || decide (qDepth x < qUsed x + n)
def popWaits (x n : Nat) : Bool := decide (qUsed x < n)

/-- The trap of a queue instruction on `n` handles, with its info: SCRATCH for the descriptor, SYNCOBJ for its fields,
SCRATCH for the ring, SYNCOBJ for more handles than the ring holds (R187, R188). -/
def queueTrap (s : State) (core : Nat) (c : Crew) (num n : Nat) : Option (Nat × Nat) :=
  let off := qOff c num
  let x := spadNat s core off 32
  if c.size < 32 * (num + 1) then some (tScratch, off)
  else if !qFieldsOk x then some (tSyncobj, off)
  else if qRing x % 64 ≠ 0 ∨ !inAlloc c (qRing x) (4 * qDepth x) then some (tScratch, qRing x)
  else if qDepth x < n then some (tSyncobj, off)
  else none

/-- Make the checks of a queue instruction; a descriptor whose words are poisoned is consumed as it is read (R282). -/
def withQueue (s : State) (g : Group) (q : QEntry) (f : LaneForm) (act : List Nat) (k : Nat → Nat → Nat → State) :
    State :=
  let num := (opdDword g q 0 f.b 0).toNat
  match crewOf s g with
  | none => s
  | some c =>
    if decide (32 * (num + 1) ≤ c.size) && spadPoison s g.core (qOff c num) 32 then consume s g 0 0 0
    else match queueTrap s g.core c num act.length with
      | some x => trapLane s g x.1 x.2 (act.headD 0)
      | none => k num (qOff c num) (spadNat s g.core (qOff c num) 32)

/-- Put handles into the ring, from the tail on. -/
def ringPut (s : State) (core x : Nat) (hs : List Nat) : State :=
  (hs.zipIdx).foldl (fun s h =>
    let at' := qRing x + 4 * ((qTail x + h.2) % 2 ^ 32 % qDepth x)
    spadWrite (cleanSpad s core at' 4) core at' (leBytes 4 h.1)) s

/-- The place and the handle that the k-th pop takes. -/
def ringAt (x k : Nat) : Nat := qRing x + 4 * ((qHead x + k) % 2 ^ 32 % qDepth x)
def ringGet (s : State) (core x k : Nat) : Nat := spadNat s core (ringAt x k) 4

/-- QPUSH: all active threads or none (R188, R377). -/
def execQpush (f : LaneForm) (s : State) : Host.Outcome State Fault Refusal :=
  .next (laneExec s (.qpush f) fun g q =>
    match actives g q f with
    | [] => enterIdle s g f [] none
    | act =>
      if fenced s g false || releaseWaits s g false (maskOf act) .core then s
      else withQueue s g q f act fun num off x =>
        if pushWaits x act.length then parkG s g (.queue num) (.queue num) true
        else
          let w := releasePaid s (laneWho g) (agentOf s g false (maskOf act)) .core
          if !w.2 then w.1 else
          let s := ringPut w.1 g.core x (act.map fun t => (opA g f t).toNat % 2 ^ 32)
          let s := spadWrite s g.core off (leBytes 32 (qSet x (qHead x) (qTail x + act.length) (qAllow x - act.length)))
          setG s (entered g f))

/-- QPOP: one handle for each active thread, ascending (R188, R377); a poisoned one is consumed (R282). -/
def execQpop (f : LaneForm) (s : State) : Host.Outcome State Fault Refusal :=
  .next (laneExec s (.qpop f) fun g q =>
    match actives g q f with
    | [] => enterIdle s g f [f.d.toNat] none
    | act =>
      if fenced s g false || acquireWaits s g false (maskOf act) kindRc then s
      else withQueue s g q f act fun num off x =>
        if popWaits x act.length then parkG s g (.queue num) (.queue num) true
        else if act.zipIdx.any fun t => spadPoison s g.core (ringAt x t.2) 4 then consume s g 0 0 0
        else
          let ws := (act.zipIdx).foldl (fun c t => Cells.put c (32 * f.d.toNat + t.1) (dw (ringGet s g.core x t.2))) []
          let s := spadWrite s g.core off (leBytes 32 (qSet x (qHead x + act.length) (qTail x) (qAllow x + act.length)))
          enterPending s g f act { newInfl s g q f .pop [f.d.toNat] with writes := ws })

/-! ## Waits on memory words -/

/-- A condition of TWAIT on a word of `w` bits (R447). -/
def waitCond (cond : WCond) (w x y : Nat) : Bool :=
  let x := x % 2 ^ w
  let y := y % 2 ^ w
  match cond with
  | .eq => x == y
  | .ne => x != y
  | .geu => decide (y ≤ x)
  | .ltu => decide (x < y)
  | .ges => decide (toSigned w y ≤ toSigned w x)
  | .lts => decide (toSigned w x < toSigned w y)

/-- Whether TWAIT's condition holds for a word at a pool address. -/
def wordHolds (s : State) (g : Group) (q : QEntry) (f : LaneForm) (cond : WCond) (w32 : Bool) (pa : Nat) : Bool :=
  let n := if w32 then 4 else 8
  waitCond cond (8 * n) (cohNat s pa n) (opdDword g q 1 f.c 0).toNat

/-- The first active thread's hint, in ticks. -/
def waitHint (g : Group) (q : QEntry) (f : LaneForm) : Nat := (opA g f ((actives g q f).headD 0)).toNat

/-- TWAIT completes: its scalar result is written and its reservation clears (R448). -/
def endTwait (g : Group) (f : LaneForm) (d : Option SReg) (v : Dword) : Group :=
  let g := match d with
    | some r => { setScal g r.toNat v with resv := g.resv &&& ~~~(resvBit r.toNat) }
    | none => g
  entered { g with park := .none } f

/-- An engine instruction's reads of the group's private stack see what it wrote there: the bytes that the stack cache holds
and a test selects are written back first (R119, R136, R156). -/
def spilled (s : State) (g : Group) (p : Nat → Bool) (k : State → Group → State) : State :=
  if g.stack.any fun e => p e.1 then
    let r := spillCharged s g (laneWho g) p
    if r.2 then k r.1 ((findGroup r.1.groups g.gid).getD g) else r.1
  else k s g

/-- Threads of a group read words of lines, each with its page's kind, at their homes: their core's buffered stores go there first,
nothing that its agents read of the lines later is older (R136), and their later releases cover what they saw (R146). Lines
that their L1 holds cost nothing (R28, R132). -/
def readWords (s : State) (g : Group) (mask : Word) (reads : List (Nat × Nat)) (sc : Scope) : State × Bool :=
  let lines := reads.map Prod.fst
  let a := flushLines s (laneWho g) g.gid g.core (((bufferedSi s g.core none).filter fun l => lines.contains l.line).map (·.line))
  let s := lines.foldl (fun s l => freshLine s g.core l) a.1
  let r := match lines.filter fun l => !inL1 s g.core l with
    | [] => (s, true)
    | ls => if a.2 then reachCore s g.core (laneWho g) clsDemand ls else (s, false)
  (reads.foldl (fun s x => dependOn s (accessOf (agentOf s g false mask) x.2 sc) x.1) r.1, a.2 && r.2)

/-- TWAIT (R447, R448). -/
def execTwait (f : LaneForm) (cond : WCond) (w32 : Bool) (scope : Scope) (s : State) : Host.Outcome State Fault Refusal :=
  .next (laneExec s (.twait f cond w32 scope) fun g q =>
    let d := scalarDest (.twait f cond w32 scope)
    let n := if w32 then 4 else 8
    let va := (capOf q 0).toNat
    match actives g q f with
    | [] => enterIdle s g f [] d
    | u :: r =>
      if va % n ≠ 0 then trapLane s g tAlign va u
      else if fenced s g false then s
      else spilled s g (fun x => x / 8 == va / 8) fun s g => probeG s g true (asking needLoad [(u, va)]) fun s fs =>
        match fs with
        | [] => s
        | x :: _ =>
          if acquireWaits s g false (maskOf (u :: r)) x.ok || lineBusy s g.core (x.pa / 64) then s
          else if poisoned s x.pa n then consume s g 0 x.pa x.va needLoad.acc
          else
            let rd := readWords s g (maskOf (u :: r)) [(x.pa / 64, x.ok)] scope
            let s := rd.1
            if !rd.2 then s
            else if wordHolds s g q f cond w32 x.pa then setG (acquireL1 s g.gid g.core scope) (endTwait g f d 1)
            else if waitHint g q f = 0 then setG s (endTwait g f d 0)
            else parkG s g .word .memory true)

/-- Whether every active thread's timeline word has reached its number (R450). -/
def timesHold (s : State) (g : Group) (q : QEntry) (f : LaneForm) (fs : List Found) : Bool :=
  fs.all fun x => decide ((opdDword g q 1 f.c x.thr).toNat ≤ cohNat s x.pa 8)

/-- WAITT (R154, R450). -/
def execWaitt (f : LaneForm) (scope : Scope) (s : State) : Host.Outcome State Fault Refusal :=
  .next (laneExec s (.waitt f scope) fun g q =>
    let addr := fun t => (opdDword g q 0 f.b t).toNat
    match actives g q f with
    | [] => enterIdle s g f [] none
    | u :: r =>
      match List.find? (fun t => decide (addr t % 8 ≠ 0)) (u :: r) with
      | some t => trapLane s g tAlign (addr t) t
      | none =>
        if fenced s g false then s
        else spilled s g (fun x => (u :: r).any fun t => x / 8 == addr t / 8) fun s g =>
          probeG s g true (asking needLoad ((u :: r).map fun t => (t, addr t))) fun s fs =>
          if fs.any (fun x => acquireWaits s g false (maskOf (u :: r)) x.ok || lineBusy s g.core (x.pa / 64)) then s
          else match fs.find? fun x => poisoned s x.pa 8 with
            | some x => consume s g 0 x.pa x.va needLoad.acc
            | none =>
              let rd := readWords s g (maskOf (u :: r)) (fs.map fun x => (x.pa / 64, x.ok)).eraseDups scope
              let s := rd.1
              if !rd.2 then s
              else if timesHold s g q f fs then setG (acquireL1 s g.gid g.core scope) (entered g f)
              else parkG s g .timeline .memory true)

/-! ## Waking -/

/-- The coherent pool address of a waited word, whether or not its page is resident; `none` when the page is no
longer readable. -/
def waitPa (s : State) (asid va : Nat) : Option Nat :=
  match leafOf s asid va with
  | .leaf l e => if grants needLoad e then some (leafPa va l e) else none
  | .bad _ _ => none

/-- Whether a parked QPUSH or QPOP of `n` handles finds what it found: its checks hold, and it still has to wait (R377). -/
def queueStands (s : State) (core : Nat) (c : Crew) (num n : Nat) (waits : Nat → Nat → Bool) : Bool :=
  (queueTrap s core c num n).isNone && !spadPoison s core (qOff c num) 32 && waits (spadNat s core (qOff c num) 32) n

/-- A parked group after the awaited event, if it has arrived: a TWAIT completes, any other re-executes, and so does one
whose word has been poisoned, which consumes it (R448). -/
def wakeOne (s : State) (g : Group) : Group :=
  match g.queue with
  | [] => g
  | q :: _ =>
    match entryInstr q, g.park with
    | some (.barw f net), .barrier _ =>
      (match barVal s g (barAt g q f net) with
       | some v => if v.sound && !phaseOver v.gen (opdDword g q 1 f.c 0).toNat then g else wakeG s g
       | none => wakeG s g)
    | some (.barw f net), .scoped _ =>
      (match barVal s g (barAt g q f net) with
       | some v => if !phaseOver v.gen (opdDword g q 1 f.c 0).toNat then g else wakeG s g
       | none => wakeG s g)
    | some (.qpush f), .queue n =>
      (match crewOf s g with
       | some c => if queueStands s g.core c n (actives g q f).length pushWaits then g else wakeG s g
       | none => g)
    | some (.qpop f), .queue n =>
      (match crewOf s g with
       | some c => if queueStands s g.core c n (actives g q f).length popWaits then g else wakeG s g
       | none => g)
    | some (.twait f cond w32 scope), .word =>
      (match waitPa s g.asid (capOf q 0).toNat with
       | some pa =>
         if poisoned s pa (if w32 then 4 else 8) then wakeG s g
         else if wordHolds s g q f cond w32 pa then
           readyG s.pkg.time (endTwait g f (scalarDest (.twait f cond w32 scope)) 1)
         else g
       | none => wakeG s g)
    | some (.waitt f _), .timeline =>
      let word := fun t => waitPa s g.asid (opdDword g q 0 f.b t).toNat
      let bad := (actives g q f).any fun t => match word t with | some pa => poisoned s pa 8 | none => false
      let ok := (actives g q f).all fun t =>
        match word t with
        | some pa => decide ((opdDword g q 1 f.c t).toNat ≤ cohNat s pa 8)
        | none => true
      if ok || bad then wakeG s g else g
    | _, _ => g

/-- Whether a group waits on an object or a word. -/
def awaits (g : Group) : Bool :=
  match g.park with
  | .barrier _ => true
  | .scoped _ => true
  | .queue _ => true
  | .word => true
  | .timeline => true
  | _ => false

/-- The read that a TWAIT makes as the waking completes it, and its line (R448). -/
def wakeRead (s : State) (g : Group) : Option (Access × Nat) :=
  match g.queue with
  | q :: _ =>
    (match entryInstr q, leafOf s g.asid (capOf q 0).toNat with
     | some (.twait f _ _ scope), .leaf l e =>
       some (accessOf (agentOf s g false (maskOf (actives g q f))) (pteOk e) scope, leafPa (capOf q 0).toNat l e / 64)
     | _, _ => none)
  | [] => none

/-- Wake one group if what it waits for has arrived. -/
def wakeStep (s : State) (g : Group) : State :=
  let g1 := wakeOne s g
  if g1 = g then s
  else
    let s := setG s g1
    match wakeRead s g with
    | some x => acquireL1 (dependOn (freshLine s g.core x.2) x.1 x.2) g.gid g.core x.1.scope
    | none => s

/-- Every parked group, and every unfinished BARTW, is tested after every write (R51, R320, R321, R377, R448, R450). -/
def wakeAll (s : State) : State := latchTries ((s.groups.filter awaits).foldl wakeStep s)

/-- TRY_WAIT_HINT_EXPIRY: the hint of a TWAIT (id 0) or of a BARTW has elapsed. The condition is tested first
(R184, R457). -/
def execTryWaitHintExpiry (gid id : Nat) (s : State) : Host.Outcome State Fault Refusal :=
  .next (match findGroup s.groups gid with
    | none => s
    | some g =>
      if id = 0 then
        match g.park, g.queue with
        | .word, q :: _ =>
          (match entryInstr q with
           | some (.twait f cond w32 scope) =>
             if wakeOne s g ≠ g then wakeStep s g
             else if g.waitFrom.toNat + waitHint g q f ≤ s.pkg.time.toNat then
               setG s (readyG s.pkg.time (endTwait g f (scalarDest (.twait f cond w32 scope)) 0))
             else s
           | _ => s)
        | _, _ => s
      else
        match g.infl.find? fun i => i.id == id && i.kind == .tryBar with
        | none => s
        | some i =>
          if s.pkg.time.toNat < i.aux then s
          else match tryHolds s g i with
            | some sc => deliver (acquireL1 s g.gid g.core sc) g { i with sval := 1 }
            | none => if tryBad s g i then consume s g 0 0 0 else deliver s g { i with sval := 0 })

/-! ## Regions, conditions, and no operation -/

/-- IDEM: the pair is written when it differs, which resets the restart count (R351, R352). -/
def execIdem (f : LaneForm) (fin : Bool) (s : State) : Host.Outcome State Fault Refusal :=
  .next (laneExec s (.idem f fin) fun g q =>
    let pair : Dword × Dword := if fin then (0, 0) else (capOf q 0, capOf q 1)
    let g1 := if actives g q f = [] ∨ (g.idemspc, g.idemlpc) = pair then g
      else { g with idemspc := pair.1, idemlpc := pair.2, restarts := 0 }
    setG s (entered g1 f))

/-- The origin tag of a thread that met a lane condition (R278). -/
def originTag (g : Group) (t code : Nat) : Dword := dw (2 ^ 32 * (g.gid % 2 ^ 32) + 2 ^ 16 * (g.core % 2048) + 256 * t + code)

/-- A thread joins the first handler group that is being gathered for its die and grid, or begins another. -/
def gatherIn (new : Compact) (x : Nat × Nat × Dword × Dword × Nat) : List Compact → List Compact
  | [] => [new]
  | c :: r =>
    if c.die = new.die ∧ c.grid = new.grid ∧ c.thrs.length < 32 then { c with thrs := c.thrs ++ [x] } :: r
    else c :: gatherIn new x r

/-- A thread reaches its die's compaction unit (R277). -/
def gather (s : State) (die grid : Nat) (x : Nat × Nat × Dword × Dword × Nat) : State :=
  { s with compacts := gatherIn { die := die, grid := grid, since := s.pkg.time, thrs := [x] } x s.compacts }

/-- Threads that met a lane condition go to their die's compaction unit, and the group parks; with no lane-trap
kernel the grid is aborted (R277). -/
def laneCondition (s : State) (g : Group) (q : QEntry) (f : LaneForm) (code : Nat) (thrs : List (Nat × Dword)) : State :=
  match gridOf s g with
  | none => s
  | some r =>
    if r.k.trapk = 0 then abortGrid s g.grid (causeTrap code) (dieOf s g.core)
    else
      let new := thrs.map fun x => (g.gid, x.1, originTag g x.1 code, q.addr, x.2.toNat)
      let s := new.foldl (fun s x => gather s (dieOf s g.core) g.grid x) s
      parkG s (entered g f) (.lanes thrs.length f.mark) .none true

/-- CKTEST: the threads that fail meet the CHECK condition (R331). -/
def execCktest (f : LaneForm) (flt : Bool) (s : State) : Host.Outcome State Fault Refusal :=
  .next (laneExec s (.cktest f flt) fun g q =>
    let bad := (actives g q f).filterMap fun t => (ckTest flt g q f t).map fun v => (t, v)
    if bad = [] then setG s (entered g f) else laneCondition s g q f tCheck bad)

/-- TRAPL: every active thread meets the TRAPL condition (R446). -/
def execTrapl (f : LaneForm) (s : State) : Host.Outcome State Fault Refusal :=
  .next (laneExec s (.trapl f) fun g q =>
    let ts := (actives g q f).map fun t => (t, opA g f t)
    if ts = [] then setG s (entered g f) else laneCondition s g q f tTrapl ts)

/-- NOP (R370): the mask and mz of a prefix have no effect. -/
def execNop (f : LaneForm) (s : State) : Host.Outcome State Fault Refusal :=
  .next (laneExec s (.nop f) fun g _ => setG s (entered g f))

end Sys2Proof.Machine
end

