-- ==== Sys2Proof/Machine/Objects.lean ====
section
/-! DEFINITION. Descriptors and subscriptions: SDESC, SUBP, UPGP and UNSP, and the sharer messages (R120, R129,
R161 to R175, R418 to R421, R425, R426). -/

namespace Sys2Proof.Machine

/-! ## Streams -/

/-- Whether a stream descriptor passes its field checks (R129). -/
def streamOk (d : BitVec 256) : Bool :=
  let x := d.toNat
  nbits x 249 7 == 0 && nbits x 185 11 == 0 && nbits x 96 32 != 0 && nbits x 64 32 != 0 && nbits x 48 16 == 0 &&
  nbits x 40 8 != 0 && nbits x 36 4 == 0 && nbits x 34 2 != 3 && nbits x 32 2 != 3 && nbits x 0 32 == 0

/-- The pool address of a writable virtual address, resident or not. -/
def devicePa (s : State) (asid va : Nat) (n : Need) : Option Nat :=
  match leafOf s asid va with
  | .leaf l e => if grants n e && !ptePq e then some (leafPa va l e) else none
  | .bad _ _ => none

/-- Write a stream's status record: issued, accurate, late, useless, from the lowest address (R130). -/
def writeStat (s : State) (t : Stream) : State :=
  if sdStat t.desc = 0 then s
  else match devicePa s t.asid (sdStat t.desc) needStore with
    | none => s
    | some pa => devWrite s pa
        (leBytes 4 t.issued ++ leBytes 4 t.accurate ++ leBytes 4 t.late ++ leBytes 4 t.useless)

/-- Empty a stream slot of a core, with its status record written (R420). -/
def dropStream (s : State) (core slot : Nat) : State :=
  match s.streams.find? fun t => t.core == core && t.slot == slot with
  | none => s
  | some t =>
    let s := writeStat s t
    { s with streams := s.streams.filter fun t => !(t.core == core && t.slot == slot) }

/-- Install a stream descriptor. -/
def installStream (s : State) (g : Group) (slot : Nat) (d : BitVec 256) : State × Nat :=
  if !streamOk d then (s, 1)
  else
    let s := dropStream s g.core slot
    let t : Stream := { core := g.core, slot := slot, grid := g.grid, crew := g.crew, asid := g.asid, desc := d
                        here := none, fetched := [], arrived := [], used := [], issued := 0, accurate := 0, late := 0
                        useless := 0 }
    ({ s with streams := t :: s.streams }, 0)

/-! ## Stash entries -/

/-- Bytes of scratchpad that an entry occupies: its length, or whole rows of its object at its format (R120, R175). -/
def footOf (s : State) (asid : Nat) (e : Stash) : Nat :=
  if e.sfmt = 0 then e.len
  else match findObj s asid e.obj with
    | none => e.len
    | some o => e.len / max 1 o.pitch * stashStride o e.sfmt

/-- A stash entry as its descriptor lays it out (R120). -/
def stashOf (s : State) (asid slot : Nat) (d : BitVec 256) : Stash :=
  let x := d.toNat
  let e : Stash :=
    { slot := slot, sbase := nbits x 0 21, len := nbits x 64 32, foot := 0, gbase := nbits x 128 57, sfmt := nbits x 192 4
      obj := if nbits x 192 4 = 0 then 0 else nbits x 196 12, filled := [], dirty := [], dead := false }
  { e with foot := footOf s asid e }

/-- Whether a subscribing entry fits its object: whole rows, a live object, an admitted format (R165, R175). -/
def stashFits (s : State) (asid : Nat) (e : Stash) : Bool :=
  match findObj s asid e.obj with
  | none => false
  | some o =>
    admits o.hfmt e.sfmt && decide (o.base ≤ e.gbase) && (e.gbase - o.base) % o.pitch == 0 && e.len % o.pitch == 0 &&
    decide ((e.gbase - o.base) / o.pitch + e.len / o.pitch ≤ o.rows)

/-- Subscription slots of a core that are taken (R166). -/
def slotsTaken (s : State) (core : Nat) : Nat := (s.coh.subs.filter fun b => b.core == core).length

/-- Whether a stash descriptor passes its checks but for overlap (R120, R175). -/
def stashOk (s : State) (g : Group) (c : Crew) (slot : Nat) (d : BitVec 256) : Bool :=
  let x := d.toNat
  let e := stashOf s g.asid slot d
  nbits x 208 48 == 0 && [0, 4, 6, 7, 12, 13, 14].contains e.sfmt && nbits x 185 7 == 0 && e.gbase % 64 == 0 &&
  nbits x 96 32 == 0 && e.len != 0 && e.len % 64 == 0 && nbits x 21 43 == 0 && e.sbase % 64 == 0 &&
  (e.sfmt == 0 || (stashFits s g.asid e && decide (slotsTaken s g.core < 64 + (if c.stash.any (fun y => y.slot == slot && y.sfmt != 0 && !y.dead) then 1 else 0)))) &&
  inAlloc c e.sbase e.foot

/-- Whether the scratchpad ranges of two entries overlap. -/
def stashHits (a b : Stash) : Bool := decide (a.sbase < b.sbase + b.foot) && decide (b.sbase < a.sbase + a.foot)

/-- Empty a stash slot of a crew: dirty lines are written back, and its subscription ends (R420). -/
def dropStash (s : State) (asid : Nat) (grid num slot : Nat) : State :=
  match findCrew s grid num with
  | none => s
  | some c =>
    match c.stash.find? fun e => e.slot == slot with
    | none => s
    | some e =>
      let s := flushStashEntry s c.core e
      let s := (s.coh.subs.filter fun b => b.asid == asid && b.stash == some slot && b.crews.contains (grid, num)).foldl endSub s
      match findCrew s grid num with
      | none => s
      | some c => setCrew s { c with stash := c.stash.filter fun e => e.slot ≠ slot }

/-- The status of the installation of a stash entry: FIELD, OVERLAP, or DONE (R419). -/
def stashStatus (s : State) (g : Group) (slot : Nat) (d : BitVec 256) : Nat :=
  match crewOf s g with
  | none => 1
  | some c =>
    if !stashOk s g c slot d then 1
    else if c.stash.any fun x => x.slot != slot && stashHits x (stashOf s g.asid slot d) then 2
    else 0

/-- Install a stash entry; a status other than DONE changes nothing (R419). -/
def installStash (s : State) (g : Group) (slot : Nat) (d : BitVec 256) : State × Nat :=
  match crewOf s g, stashStatus s g slot d with
  | none, _ => (s, 1)
  | some _, st + 1 => (s, st + 1)
  | some c, 0 =>
      let e := stashOf s g.asid slot d
      let s := dropStash s g.asid g.grid g.crew slot
      let c := (crewOf s g).getD c
      let s := setCrew s { c with stash := e :: c.stash }
      if e.sfmt = 0 then (s, 0)
      else
        let b : Sub := { core := g.core, crews := [(g.grid, g.crew)], asid := g.asid, obj := e.obj, fmt := e.sfmt
                         update := false, stash := some slot }
        ({ s with coh := { s.coh with subs := b :: s.coh.subs } }, 0)

/-! ## Tile objects -/

/-- An object as its shape record lays it out (R162). -/
def objOf (asid : Nat) (d : BitVec 512) : Obj :=
  let x := d.toNat
  { asid := asid, num := nbits x 196 12, hfmt := nbits x 192 4, pitch := nbits x 128 64, cols := nbits x 96 32
    rows := nbits x 64 32, base := nbits x 0 64 }

/-- Whether a shape record passes its checks for a slot (R162, R163). -/
def objOk (slot : Nat) (d : BitVec 512) : Bool :=
  let o := objOf 0 d
  nbits d.toNat 208 304 == 0 && [4, 6, 7].contains o.hfmt && o.pitch % 64 == 0 && decide (rowBytes o ≤ o.pitch) &&
  o.cols != 0 && decide (o.cols ≤ 2 ^ 24) && o.rows != 0 && decide (o.rows ≤ 2 ^ 24) && o.base % 64 == 0 &&
  decide (o.base < 2 ^ 57) && o.num == slot && decide (o.base + (o.rows - 1) * o.pitch + rowBytes o ≤ 2 ^ 57)

/-- Whether two objects share an element address (R163). -/
def objHits (a b : Obj) : Bool :=
  (List.range a.rows).any fun i => rangeHits b (a.base + i * a.pitch) (a.base + i * a.pitch + rowBytes a)

/-- Install a tile object (R163). -/
def installObj (s : State) (asid slot : Nat) (d : BitVec 512) : State × Nat :=
  let o := objOf asid d
  let others := ((s.coh.objs.map (·.asid)).eraseDups).filter (· ≠ asid)
  if !objOk slot d then (s, 1)
  else if (findObj s asid slot).isSome then (s, 3)
  else if s.coh.objs.any fun x => x.asid == asid && objHits o x then (s, 2)
  else if (s.coh.objs.all fun x => x.asid != asid) && decide (64 ≤ others.length) then (s, 4)
  else ({ s with coh := { s.coh with objs := o :: s.coh.objs } }, 0)

/-- Retire an object: its subscriptions end (R163). -/
def retireObj (s : State) (asid slot : Nat) : State :=
  let s := endSubs s asid slot
  { s with coh := { s.coh with objs := s.coh.objs.filter fun o => !(o.asid == asid && o.num == slot) } }

/-- A status is written to row d of every active thread, as a pending n32 result (R171, R419). -/
def statusResult (s : State) (q : QEntry) (g : Group) (f : LaneForm) (act : List Nat) (status : Nat) : State :=
  let g := (findGroup s.groups g.gid).getD g
  let rows := [f.d.toNat]
  enterPending s g f act { newInfl s g q f .status rows with writes := writesOf rows act fun _ => [dw status] }

/-- Read a descriptor of `n` bytes that passed its probe, on a page of a kind, for a group's threads, as demand traffic (R27); `none` while an
access of the core to one of its lines is under way, or it waits for its charge. -/
def readDesc (s : State) (g : Group) (mask : Word) (ok pa n : Nat) : State × Option Nat :=
  if (linesOf pa n).any (lineBusy s g.core) then (s, none)
  else
    let r := readWords s g mask ((linesOf pa n).map fun l => (l, ok)) .sys
    (r.1, if r.2 then some (cohNat r.1 pa n) else none)

/-- What the removal or the replacement of a stash entry writes back first (R121). -/
def slotDrained (s : State) (g : Group) (kind : DescKind) (slot : Nat) : State × Bool :=
  match kind, crewOf s g with
  | .stash, some c => drainStash s c (laneWho g) fun e => e.slot == slot
  | _, _ => (s, true)

/-- SDESC: it acts once, through the lowest-numbered active thread (R419, R420). -/
def execSdesc (f : LaneForm) (kind : DescKind) (del : Bool) (s : State) : Host.Outcome State Fault Refusal :=
  .next (laneExec s (.sdesc f kind del) fun g q =>
    let slot := (opdDword g q 0 f.b 0).toNat
    match actives g q f with
    | [] => enterIdle s g f [f.d.toNat] none
    | u :: r =>
      if fenced s g false then s
      else if del then
        let out := slotDrained s g kind slot
        let s := out.1
        if !out.2 then s else
        let s := match kind with
          | .stream => dropStream s g.core slot
          | .stash => dropStash s g.asid g.grid g.crew slot
          | .obj => retireObj s g.asid slot
        statusResult s q g f (u :: r) 0
      else
        let x := (opA g f u).toNat
        let size := if kind = .obj then 64 else 32
        if x % size ≠ 0 then trapLane s g tAlign x u
        else spilled s g (fun va => decide (x ≤ va ∧ va < x + size)) fun s g => probeG s g true (asking needLoad [(u, x)]) fun s fs =>
          match fs with
          | [] => s
          | y :: _ =>
            if acquireWaits s g false (maskOf (u :: r)) y.ok then s
            else if poisoned s y.pa size then consume s g 0 y.pa y.va needLoad.acc
            else match readDesc s g (maskOf [u]) y.ok y.pa size with
              | (s, none) => s
              | (s, some d) =>
                let w := if kind = .stash ∧ stashStatus s g slot (BitVec.ofNat 256 d) ≠ 0 then (s, true) else slotDrained s g kind slot
                let s := w.1
                if !w.2 then s else
                let out := match kind with
                  | .stream => installStream s g slot (BitVec.ofNat 256 d)
                  | .stash => installStash s g slot (BitVec.ofNat 256 d)
                  | .obj => installObj s g.asid slot (BitVec.ofNat 512 d)
                statusResult out.1 q g f (u :: r) out.2)

/-! ## Subscriptions -/

/-- Fields of row a of SUBP, UPGP and UNSP (R425). -/
def subObj (x : Dword) : Nat := nbits x.toNat 0 12
def subFmt (x : Dword) : Nat := nbits x.toNat 16 4
def subMode (x : Dword) : Bool := x.getLsbD 20

/-- One address in each page that an object's elements span (R172). -/
def objPages (o : Obj) : List Nat :=
  ((List.range o.rows).flatMap fun i =>
    let lo := o.base + i * o.pitch
    tab ((lo + rowBytes o - 1) / 4096 - lo / 4096 + 1) fun k => max lo ((lo / 4096 + k) * 4096)).eraseDups

/-- The lines of an object that a core's L1 holds, of those whose pages are given as (virtual, pool) page
numbers. -/
def heldLines (s : State) (core asid obj : Nat) (pages : List (Nat × Nat)) : List Nat :=
  (s.mem.l1.filter fun l => l.core == core && pages.any fun p =>
    p.2 == l.line / 64 && (elemsTouched s asid (p.1 * 4096 + l.line % 64 * 64) 64).any fun x => x.1.num == obj).map (·.line)

/-- What a core discards of an object is written back first, as demand traffic; `false` while some waits (R27, R172). -/
def heldHome (s : State) (g : Group) (lines : List Nat) : State × Bool :=
  let a := flushLines s (laneWho g) g.gid g.core (((bufferedSi s g.core none).filter fun l => lines.contains l.line).map (·.line))
  if !a.2 then a
  else drainLines a.1 g.core (laneWho g) ((lines.filter fun l => dirtyCount a.1 noCore l != 0).map fun l => (0, l))

/-- A core discards the L1 lines of an object that it holds (R172). -/
def discardHeld (s : State) (core : Nat) (lines : List Nat) : State :=
  { s with mem := { s.mem with
      l1 := s.mem.l1.filter fun l => !(l.core == core && lines.contains l.line)
      invals := s.mem.invals.filter fun i => !(i.core == core && lines.contains i.line) } }

/-- SUBP: NOOBJ and BADFMT before the probe, CONFLICT and NOSLOT after it (R171, R172). -/
def execSubp (f : LaneForm) (s : State) : Host.Outcome State Fault Refusal :=
  .next (laneExec s (.subp f) fun g q =>
    match actives g q f with
    | [] => enterIdle s g f [f.d.toNat] none
    | u :: r =>
      let x := opA g f u
      let act := u :: r
      if fenced s g false then s
      else match findObj s g.asid (subObj x) with
        | none => statusResult s q g f act 1
        | some o =>
          if !admits o.hfmt (subFmt x) then statusResult s q g f act 2
          else probeG s g true (asking needSub ((objPages o).map fun va => (u, va))) fun s fs =>
            match l1Sub s g.core g.asid o.num with
            | some b =>
              if b.fmt ≠ subFmt x ∨ b.update ≠ subMode x then statusResult s q g f act 4
              else
                let join := fun (y : Sub) =>
                  if y = b ∧ !b.crews.contains (g.grid, g.crew) then { y with crews := (g.grid, g.crew) :: y.crews } else y
                statusResult { s with coh := { s.coh with subs := s.coh.subs.map join } } q g f act 0
            | none =>
              if 64 ≤ slotsTaken s g.core then statusResult s q g f act 3
              else
                let b : Sub := { core := g.core, crews := [(g.grid, g.crew)], asid := g.asid, obj := o.num
                                 fmt := subFmt x, update := subMode x, stash := none }
                let held := heldLines s g.core g.asid o.num (fs.map fun y => (y.va / 4096, pageOf y.pa))
                let w := heldHome s g held
                let s := discardHeld w.1 g.core held
                if !w.2 then w.1
                else statusResult { s with coh := { s.coh with subs := b :: s.coh.subs } } q g f act 0)

/-- The subscription that a crew holds through its core's L1. -/
def crewSub (s : State) (g : Group) (obj : Nat) : Option Sub :=
  match l1Sub s g.core g.asid obj with
  | some b => if b.crews.contains (g.grid, g.crew) && (findObj s g.asid obj).isSome then some b else none
  | none => none

/-- The order of formats that UPGP climbs (R173). -/
def fmtRank (f : Nat) : Nat :=
  match f with | 13 => 1 | 12 => 2 | 14 => 3 | 7 => 4 | 6 => 5 | 4 => 6 | _ => 0

/-- The addresses of the images of an object that a core holds. -/
def imagesHeld (s : State) (core asid obj : Nat) : List Nat :=
  (s.coh.images.filter fun i => i.core == core && i.asid == asid && i.obj == obj).map (·.va)

/-- A subscription takes a new format, and its core refills the images that it holds of the object (R173). -/
def upgrade (s : State) (core asid : Nat) (b : Sub) (o : Obj) (fmt : Nat) (here : List (Nat × Nat)) : State :=
  let mine := fun (i : Image) => i.core == core && i.asid == asid && i.obj == o.num
  let renew := fun (i : Image) =>
    match (if mine i then here.find? fun x => x.1 == i.va else none) with
    | some x => { i with bits := image fmt o.hfmt (elemBits s o x.2), since := s.nextId }
    | none => i
  let raise := fun (y : Sub) => if y = b then { y with fmt := fmt } else y
  { s with coh := { s.coh with subs := s.coh.subs.map raise, images := s.coh.images.map renew } }

/-- UPGP: the home records the new format, and the core refills the images it held (R173). A refill faults as a fill does,
at its probe (R177, R426). -/
def execUpgp (f : LaneForm) (s : State) : Host.Outcome State Fault Refusal :=
  .next (laneExec s (.upgp f) fun g q =>
    match actives g q f with
    | [] => enterIdle s g f [f.d.toNat] none
    | u :: r =>
      let x := opA g f u
      let act := u :: r
      if fenced s g false then s
      else match crewSub s g (subObj x), findObj s g.asid (subObj x) with
        | some b, some o =>
          if subFmt x = b.fmt then statusResult s q g f act 0
          else if !admits o.hfmt (subFmt x) || decide (fmtRank (subFmt x) < fmtRank b.fmt) then statusResult s q g f act 2
          else if b.crews.any (· ≠ (g.grid, g.crew)) then statusResult s q g f act 4
          else
            probeG s g true (asking needSub ((imagesHeld s g.core g.asid o.num).map fun va => (u, va))) fun s fs =>
              match (fs.map fun y => y.pa / 64).eraseDups with
              | [] => statusResult (upgrade s g.core g.asid b o (subFmt x) []) q g f act 0
              | lines =>
                let rd := reachCore s g.core (laneWho g) clsDemand lines
                if !rd.2 then rd.1
                else statusResult (upgrade rd.1 g.core g.asid b o (subFmt x) (fs.map fun y => (y.va, y.pa))) q g f act 0
        | _, _ => statusResult s q g f act 1)

/-- UNSP: the crew leaves; a subscription that the L1 shares with another crew stays for that crew (R166, R174). -/
def execUnsp (f : LaneForm) (s : State) : Host.Outcome State Fault Refusal :=
  .next (laneExec s (.unsp f) fun g q =>
    match actives g q f with
    | [] => enterIdle s g f [f.d.toNat] none
    | u :: r =>
      let act := u :: r
      if fenced s g false then s
      else match crewSub s g (subObj (opA g f u)) with
        | none => statusResult s q g f act 1
        | some b =>
          let leave := fun (y : Sub) =>
            if y = b then { y with crews := y.crews.filter (· ≠ (g.grid, g.crew)) } else y
          let s := if b.crews.all (· = (g.grid, g.crew)) then endSub s b
            else { s with coh := { s.coh with subs := s.coh.subs.map leave } }
          statusResult s q g f act 0)

/-! ## Sharer messages -/

/-- Whether an earlier message for the same quad and line is still on its way (R169): of one pool line, or, across a move,
of one line of virtual addresses (R177). -/
def msgBehind (s : State) (m : Msg) (core : Option Nat) : Bool :=
  s.coh.msgs.any fun x => decide (x.id < m.id) && x.quad == m.quad &&
    (x.line == m.line || m.elems.any fun c => x.names m.asid (c.va / 64)) &&
    (match core, x.cores with
     | _, none => true
     | some c, some l => l.contains c
     | none, some _ => false)

/-- The cores of a quad whose entries find a listed element whose encoding changed (R168). -/
def msgCores (s : State) (m : Msg) (o : Obj) : List Nat :=
  (tab 4 fun k => 4 * m.quad + k).filter fun core =>
    match entryFmt o.hfmt ((coreSubs s m.asid m.obj core).map (·.fmt)) with
    | none => false
    | some f => m.elems.any (changes f o.hfmt)

/-- Replace a message, or drop it once no core is left. -/
def setMsg (s : State) (m : Msg) (cores : List Nat) : State :=
  let one := fun (x : Msg) => if x.id = m.id then { x with cores := some cores } else x
  let msgs := if cores = [] then s.coh.msgs.filter fun x => x.id ≠ m.id else s.coh.msgs.map one
  { s with coh := { s.coh with msgs := msgs } }

/-- PRECISION_MESSAGE_QUAD (R168). -/
def execPrecisionMessageQuad (id : Nat) (s : State) : Host.Outcome State Fault Refusal :=
  .next (match s.coh.msgs.find? fun m => m.id == id with
    | none => s
    | some m =>
      if m.cores.isSome || msgBehind s m none then s
      else match findObj s m.asid m.obj with
        | none => setMsg s m []
        | some o => setMsg s m (msgCores s m o))

/-- PRECISION_MESSAGE_CORE (R168). -/
def execPrecisionMessageCore (id core : Nat) (s : State) : Host.Outcome State Fault Refusal :=
  .next (match s.coh.msgs.find? fun m => m.id == id with
    | none => s
    | some m =>
      match m.cores with
      | none => s
      | some l =>
        if !l.contains core || msgBehind s m (some core) then s
        else setMsg (applyMsg s m core) m (l.filter (· ≠ core)))

end Sys2Proof.Machine
end

