-- ==== Sys2Proof/Machine/Copying.lean ====
section
/-! DEFINITION. The copy engines: command checks, segments, transfer steps, replay and retirement (R153, R155,
R190, R191, R269). -/

namespace Sys2Proof.Machine

/-! ## Command fields (R190) -/

def cpKind (c : BitVec 512) : Nat := nbits c.toNat 0 8
def cpScope (c : BitVec 512) : Nat := nbits c.toNat 10 3
def cpSeq (c : BitVec 512) : Nat := nbits c.toNat 16 48
def cpBoff (c : BitVec 512) : Nat := nbits c.toNat 64 21
def cpBsel (c : BitVec 512) : Nat := nbits c.toNat 85 2
def cpBen (c : BitVec 512) : Bool := c.getLsbD 87
def cpDsp (c : BitVec 512) : Bool := c.getLsbD 88
def cpSsp (c : BitVec 512) : Bool := c.getLsbD 89
def cpDst (c : BitVec 512) : Nat := nbits c.toNat 128 64
def cpSrc (c : BitVec 512) : Nat := nbits c.toNat 192 64
def cpXb (c : BitVec 512) : Nat := nbits c.toNat 256 32
def cpYc (c : BitVec 512) : Nat := nbits c.toNat 288 16
def cpZc (c : BitVec 512) : Nat := nbits c.toNat 304 16
def cpSys (c : BitVec 512) : Int := toSigned 32 (nbits c.toNat 320 32)
def cpSzs (c : BitVec 512) : Int := toSigned 32 (nbits c.toNat 352 32)
def cpDys (c : BitVec 512) : Int := toSigned 32 (nbits c.toNat 384 32)
def cpDzs (c : BitVec 512) : Int := toSigned 32 (nbits c.toNat 416 32)

/-- Bytes that a command moves. -/
def cpTotal (c : BitVec 512) : Nat := cpXb c * (cpYc c + 1) * (cpZc c + 1)

/-- Whether every row of a strided scratchpad range lies in an allocation (R190). -/
def rowsInAlloc (crew : Crew) (base : Nat) (ys zs : Int) (yc zc xb : Nat) : Bool :=
  [(0, 0), (yc, 0), (0, zc), (yc, zc)].all fun (p : Nat × Nat) => inAlloc crew (base + ys * p.1 + zs * p.2) xb

/-- Whether bits [63:57] of an address are 0. -/
def vaOk (x : Nat) : Bool := decide (x < 2 ^ 57)

/-- The field checks that a command from SC.PUSH and one from a COPY packet share (R190). -/
def cpFieldsOk (c : BitVec 512) : Bool :=
  let x := c.toNat
  let k := cpKind c
  nbits x 448 64 == 0 && cpXb c != 0 && (k != 1 || vaOk (cpSrc c)) && vaOk (cpDst c) && nbits x 90 38 == 0 &&
  nbits x 13 3 == 0 && nbits x 8 2 == 0 && (k == 1 || k == 2 || k == 3) && !(cpSsp c && k != 1) &&
  !(cpDsp c && k == 3) && !(cpBen c && k == 3) && (cpBen c || cpBsel c == 0) && !(cpBen c && cpBsel c == 0) &&
  !(k == 2 && cpBsel c / 2 == 1) && (!cpBen c || cpTotal c % 64 == 0) && !(k == 3 && cpDst c % 8 != 0)

/-- Whether a pushed command passes its checks (R190). -/
def copyOk (crew : Crew) (c : BitVec 512) : Bool :=
  cpFieldsOk c && cpScope c != 7 && decide (crew.copies.last < cpSeq c) &&
  (!cpBen c || (cpBoff c % 16 == 0 && inAlloc crew (cpBoff c) 16)) &&
  (!cpSsp c || rowsInAlloc crew (cpSrc c) (cpSys c) (cpSzs c) (cpYc c) (cpZc c) (cpXb c)) &&
  (!cpDsp c || rowsInAlloc crew (cpDst c) (cpDys c) (cpDzs c) (cpYc c) (cpZc c) (cpXb c))

/-- A queued copy command. -/
def newCopy (s : State) (c : BitVec 512) (grid crew core quad asid : Nat) (queue : Option Nat) (seq : Nat) : Copy :=
  { id := s.nextId, grid := grid, crew := crew, queue := queue, seq := seq, cmd := c, core := core, quad := quad
    asid := asid, z := 0, y := 0, xoff := 0, moved := 0, stage := .queued, fva := 0, stamp := 0, cause := 0, side := 0
    held := [], ahead := [], tainted := false, owed := 0, vpages := [] }

/-- Unretired commands of a core's copy queue (R189). -/
def copiesHeld (s : State) (core : Nat) : Nat := (s.copies.filter fun c => c.core == core && c.queue.isNone).length

/-- SC.PUSH to queue 1: the status, and the state (R189, R190). -/
def pushCopy (s : State) (g : Group) (c : BitVec 512) : State × Nat :=
  match crewOf s g with
  | none => (s, 2)
  | some crew =>
    if !copyOk crew c then (s, 2)
    else if 32 ≤ copiesHeld s g.core then (s, 1)
    else
      let x := newCopy s c g.grid g.crew g.core (quadOf g.core) g.asid none (cpSeq c)
      let s := setCrew s { crew with copies := crew.copies.accept (cpSeq c) }
      ({ s with nextId := s.nextId + 1, copies := s.copies ++ [x] }, 0)

/-! ## Segments -/

def findCopy (s : State) (id : Nat) : Option Copy := s.copies.find? fun c => c.id == id
def setCopy (s : State) (c : Copy) : State := { s with copies := s.copies.map fun x => if x.id = c.id then c else x }

/-- The agent number of a copy in a sharer message. -/
def copyAgent (c : Copy) : Nat := 2 ^ 33 + c.id

/-- Addresses of the next segment's source and destination. -/
def cpSrcAt (c : Copy) : Nat :=
  (((cpSrc c.cmd : Int) + cpSys c.cmd * c.y + cpSzs c.cmd * c.z + c.xoff) % 2 ^ 64).toNat
def cpDstAt (c : Copy) : Nat :=
  (((cpDst c.cmd : Int) + cpDys c.cmd * c.y + cpDzs c.cmd * c.z + c.xoff) % 2 ^ 64).toNat

/-- Bytes up to the end of the 4 KiB page. -/
def toPageEnd (va : Nat) : Nat := 4096 - va % 4096

/-- Bytes of the next segment: to the end of the destination's 64 bytes, or of the row, so that every aligned unit of the
destination is written whole (R134). -/
def cpLen (c : Copy) : Nat := min (64 - cpDstAt c % 64) (cpXb c.cmd - c.xoff)

/-- The source bytes that a segment reads: from, and how many. It reads aligned units whole, within the row, beyond what
was read with the segment before (R134). -/
def cpReads (c : Copy) (n : Nat) : Nat × Nat :=
  let a := cpSrcAt c
  let stop := min ((a + n + 7) / 8 * 8) (a + (cpXb c.cmd - c.xoff))
  (a + c.ahead.length, if cpKind c.cmd = 1 then stop - (a + c.ahead.length) else 0)

/-- The parts of a short range, one in each page. -/
def pageParts (va n : Nat) : List (Nat × Nat) :=
  if n = 0 then [] else if n ≤ toPageEnd va then [(va, n)] else [(va, toPageEnd va), (va + toPageEnd va, n - toPageEnd va)]

/-- A copy after a segment of `n` bytes. -/
def cpAdvance (c : Copy) (n : Nat) : Copy :=
  let x := c.xoff + n
  let c := { c with moved := c.moved + n }
  if x < cpXb c.cmd then { c with xoff := x }
  else if c.y < cpYc c.cmd then { c with xoff := 0, y := c.y + 1 }
  else if c.z < cpZc c.cmd then { c with xoff := 0, y := 0, z := c.z + 1 }
  else { c with xoff := 0, y := 0, z := 0, stage := .finished }

/-- Put a copy's scratchpad access on its core (R117). -/
def cpCore (s : State) (c : Copy) : Nat :=
  match findCrew s c.grid c.crew with
  | some x => x.core
  | none => c.core

/-- A copy is discarded: its timeline advances past it, or its packet completes (R263). -/
def discardCopy (s : State) (c : Copy) : State :=
  let s := { s with copies := s.copies.filter fun x => x.id ≠ c.id }
  match c.queue with
  | some q => packetDone s q (.copy c.id)
  | none => retireCopyNo s c.grid c.crew c.seq

/-- Whether what a copy has written is performed, with the transfer steps that this makes: no message of it is on its way
(R153, R169, R191). -/
def copySent (s : State) (c : Copy) : Bool := s.coh.msgs.any fun m => m.gid == copyAgent c
def copyPerformed (s : State) (c : Copy) : Bool := c.owed == 0 && !copySent s c

/-- A copy ends before it is done: it retires once what it has written is performed (R153, R263). -/
def endCopy (s : State) (c : Copy) : State :=
  if copyPerformed s c then discardCopy s c else setCopy s { c with stage := .finished }

/-- The die of a copy's engine. -/
def cpDie (s : State) (c : Copy) : Nat := dieOfQuad s c.quad

/-- The grid that owns a copy; a packet's copy has none. -/
def cpGrid (c : Copy) : Option Nat := if c.queue.isSome then none else some c.grid

/-- A copy consumed poison on one of its sides (R269, R282). No unit of R283 restarts a copy: the grid that owns it is
aborted. -/
def copyPoison (s : State) (c : Copy) (side va pa cause acc : Nat) : State :=
  let x := { c with stage := .faulted 1, fva := dw va, stamp := s.pkg.time, cause := 3, side := side, vpages := [] }
  let s := addFault (setCopy s x) 4 acc c.asid (srcCopy c.quad) noGid va [pa, cause, 0, 0] none none (cpDie s c)
  match cpGrid c with
  | some id => abortGrid s id (causeKind 4) (cpDie s c)
  | none => endCopy s c

/-- A segment's access failed its probe: the record is written and the fault goes its way (R155, R262, R269). -/
def copyFault (s : State) (c : Copy) (side va : Nat) (n : Need) (h : Hit) : State :=
  let stop := fun (cause : Nat) =>
    { c with stage := .faulted 1, fva := dw va, stamp := s.pkg.time, cause := cause, side := side, vpages := [] }
  match h with
  | .ok _ _ => s
  | .absent pa => addPageWait (setCopy s (stop 0)) (pageOf pa) (srcCopy c.quad) (.copy c.id) false
  | .xlate _ _ => report (setCopy s (stop 1)) c.asid (srcCopy c.quad) noGid va n h (.copy c.id) (cpGrid c) (cpDie s c)
  | .prot _ => report (setCopy s (stop 2)) c.asid (srcCopy c.quad) noGid va n h (.copy c.id) (cpGrid c) (cpDie s c)
  | .devOnly => endCopy s c
  | .far => s
  | .quar pa => copyPoison s c side va pa 3 n.acc

/-- Whether a command's source and destination may overlap. -/
def cpMayOverlap (c : Copy) : Bool := cpKind c.cmd == 1 && cpSsp c.cmd == cpDsp c.cmd

/-- Where a segment's side lies: a scratchpad offset or a pool address. -/
def cpPlace (spad : Bool) (va pa : Nat) : Nat := if spad then va % 2 ^ 21 else pa

/-- The bytes that a segment moves: of a source position that the command has already written, the old byte or the
new one, by a free choice (R191, log 6). -/
def cpChoose (draw at0 : Nat) (held : Cells Byte) (bs : List Byte) : List Byte :=
  bs.zipIdx.map fun x =>
    match held.find (at0 + x.2) with
    | some old => if Config.freeBool (draw + x.2) then old else x.1
    | none => x.1

/-- The bytes that a segment reads, and whether they are poisoned: from the scratchpad, or from parts of global memory,
each a pool address and a length. -/
def cpRead (s : State) (c : Copy) (rd : Nat × Nat) (parts : List (Nat × Nat)) : List Byte × Bool :=
  if cpSsp c.cmd then
    let bs := tab rd.2 fun k => spadByte s (cpCore s c) (rd.1 + k)
    (cpChoose s.draws (cpPlace true rd.1 0) c.held bs, spadPoison s (cpCore s c) rd.1 rd.2)
  else
    (parts.flatMap fun p => cpChoose (s.draws + p.1 % 4096) p.1 c.held (tab p.2 fun k => cohByte s (p.1 + k)),
     parts.any fun p => poisoned s p.1 p.2)

/-- The value of a FILL, repeated from the first byte of the row (R191). -/
def cpFill (c : Copy) (n : Nat) : List Byte := tab n fun k => BitVec.ofNat 8 (cpSrc c.cmd / 2 ^ (8 * ((c.xoff + k) % 8)))

/-- Keep the old bytes of a destination that the command is about to write. -/
def cpHold (s : State) (c : Copy) (n dstPa : Nat) : Cells Byte :=
  if !cpMayOverlap c then c.held
  else
    let at0 := cpPlace (cpDsp c.cmd) (cpDstAt c) dstPa
    (List.range n).foldl (fun h k =>
      if (h.find (at0 + k)).isSome then h
      else h.put (at0 + k)
        (if cpDsp c.cmd then spadByte s (cpCore s c) (cpDstAt c + k) else cohByte s (dstPa + k))) c.held

/-- Mark or clean the scratchpad words of a range that copied data was written to (R282). -/
def markSpad (s : State) (core off n : Nat) (bad : Bool) : State :=
  let words := (List.range (n / 4 + 2)).filterMap fun k =>
    let w := off / 4 + k
    if 4 * w < off + n then some w else none
  let whole := words.filter fun w => decide (off ≤ 4 * w) && decide (4 * w + 4 ≤ off + n)
  let old := s.poisonSpad.filter fun p => !(p.1 == core && whole.contains p.2)
  { s with poisonSpad := (if bad then words.map fun w => (core, w) else []) ++ old }

/-- Write a segment. -/
def cpWrite (s : State) (c : Copy) (dstPa : Nat) (bs : List Byte) (bad : Bool) : State :=
  let n := bs.length
  if cpDsp c.cmd then markSpad (spadWrite s (cpCore s c) (cpDstAt c) bs) (cpCore s c) (cpDstAt c) n bad
  else
    let s := writeBy s (worker (copyAgent c) c.grid) dstPa bs
    if bad then (linesOf dstPa n).foldl markPoison s else carryPoison s none dstPa n

/-- One transfer step of a copy on its barrier object; steps for a crew that has exited are dropped (R191). Poisoned words of
the object are consumed, with the object as the side of the record (R269, R282). -/
def cpStep (s : State) (c : Copy) (inbound : Bool) : State :=
  match findCrew s c.grid c.crew with
  | none => s
  | some crew =>
    if crew.status = .exiting then s
    else
      let off := cpBoff c.cmd
      let old := spadNat s crew.core off 16
      let v := barTransfer (objVal old) inbound
      if spadPoison s crew.core off 16 then copyPoison s c 2 0 0 2 0
      else spadWrite s crew.core off (leBytes 16 (old - objBits (objVal old) + objBits v))

/-- The steps on inc that a copy owes, once the bytes that it has written are performed: what their writes sent has been
applied (R169, R191). -/
def settleCopy (s : State) (id : Nat) : State :=
  match findCopy s id with
  | none => s
  | some c =>
    if c.owed = 0 || copySent s c then s
    else (List.range c.owed).foldl (fun s _ => cpStep s c true) (setCopy s { c with owed := 0 })

/-- The copies whose writes a step has brought to an end make the steps that they owe. -/
def settleCopies (s : State) : State := (s.copies.filter fun c => c.owed ≠ 0).foldl (fun s c => settleCopy s c.id) s

/-- A copy after a segment, and the transfer steps where the segment completes 64 bytes: on outc for those read, and on inc for
those written as they are performed (R191). -/
def cpSteps (s : State) (c0 c : Copy) : State :=
  if !cpBen c.cmd || decide (c.moved / 64 = c0.moved / 64) then setCopy s c
  else
    let c := { c with owed := c.owed + cpBsel c.cmd % 2 }
    let s := setCopy s c
    settleCopy (if cpBsel c.cmd / 2 = 1 then cpStep s c false else s) c.id

/-- Whether a copy stands at a 64-byte boundary: of the bytes that it has moved, or of its destination (R269, log 22). -/
def cpBoundary (c : Copy) : Bool := c.moved % 64 == 0 || cpDstAt c % 64 == 0

/-- Whether a copy touches the scratchpad of its crew (R190). -/
def touchesSpad (c : Copy) : Bool := c.queue.isNone && (cpSsp c.cmd || cpDsp c.cmd || cpBen c.cmd)

/-- Whether the crew whose scratchpad a copy touches is on its core (R269). -/
def cpHome (s : State) (c : Copy) : Bool := !touchesSpad c || (findCrew s c.grid c.crew).isSome

/-- Whether a copy engine may work: a die whose energy budget is used up starts no command, and goes on with those in
flight (R30). -/
def cpMay (s : State) (c : Copy) : Bool :=
  s.pkg.up && (c.stage == .running || !s.gov.stopped.contains (cpDie s c)) && cpHome s c

/-- What one side of a segment finds; a scratchpad side, or a side that the kind lacks, always passes. -/
def cpLook (s : State) (c : Copy) (spad : Bool) (va : Nat) (n : Need) : Hit :=
  if spad then .ok 0 0 else look s c.asid va n

/-- The first part of a segment's source that fails its probe, and the pool addresses of parts that pass. -/
def cpMiss (s : State) (c : Copy) (parts : List (Nat × Nat)) : Option (Nat × Hit) :=
  parts.findSome? fun p => match look s c.asid p.1 needLoad with | .ok _ _ => none | h => some (p.1, h)
def cpFound (s : State) (c : Copy) (parts : List (Nat × Nat)) : List (Nat × Nat) :=
  parts.filterMap fun p => match look s c.asid p.1 needLoad with | .ok pa _ => some (pa, p.2) | _ => none

/-- The lines that a segment reads and writes: each is charged to the copy class (R27, R28). -/
def cpLines (c : Copy) (srcs : List (Nat × Nat)) (dstPa n : Nat) : List Nat :=
  (srcs.flatMap fun p => linesOf p.1 p.2) ++ (if cpDsp c.cmd then [] else linesOf dstPa n)

/-- The virtual pages that a segment reads and writes. -/
def cpPages (c : Copy) (parts : List (Nat × Nat)) : List Nat :=
  parts.map (fun p => p.1 / 4096) ++ if cpDsp c.cmd then [] else [cpDstAt c / 4096]

/-- Move the bytes of a segment whose traffic has been charged: the bytes, and the transfer steps (R191). -/
def cpMove (s : State) (c : Copy) (n dstPa : Nat) (srcs : List (Nat × Nat)) : State :=
  let got := if cpKind c.cmd = 2 then (cpFill c n, false) else cpRead s c (cpReads c n) srcs
  let bs := c.ahead ++ got.1
  let bad := (c.tainted && c.ahead != []) || got.2
  let c1 := { cpAdvance c n with held := cpHold s c n dstPa, ahead := bs.drop n, tainted := bad }
  let s := if c.held = [] then s else { s with draws := s.draws + 4096 + 64 }
  cpSteps (cpWrite s c dstPa (bs.take n) bad) c c1

/-- Perform one segment of a COPY or FILL (R155, R191): source probe, destination probe, charge, then the bytes. -/
def copyUnit (s : State) (c0 : Copy) : State :=
  if !cpMay s c0 then s
  else
    let c := { c0 with stage := .running }
    let n := cpLen c
    let parts := if cpSsp c.cmd then [] else pageParts (cpReads c n).1 (cpReads c n).2
    match cpMiss s c parts with
    | some x => copyFault s c 0 x.1 needLoad x.2
    | none =>
      match cpLook s c (cpDsp c.cmd) (cpDstAt c) needStore with
      | .ok dstPa _ =>
        let srcs := cpFound s c parts
        let r := reach (setCopy s c) (.copy c.id) clsCopy (cpLines c srcs dstPa n)
        if r.2 then cpMove r.1 { c with vpages := addRows c.vpages (cpPages c parts) } n dstPa srcs else r.1
      | h => copyFault s c 1 (cpDstAt c) needStore h

/-- Whether a command is under way. -/
def copyRuns (c : Copy) : Bool := c.stage == .queued || c.stage == .running

/-- Perform up to a number of segments of a command, while it runs. -/
def copySegments (s : State) (id : Nat) : Nat → State
  | 0 => s
  | n + 1 =>
    match findCopy s id with
    | none => s
    | some c =>
      if copyRuns c then
        let s1 := copyUnit s c
        match findCopy s1 id with
        | some c1 => if c1.moved = c.moved then s1 else copySegments s1 id n
        | none => s1
      else s

/-- The greatest number of segments of a command. -/
def copyFuel (c : Copy) : Nat := cpTotal c.cmd

/-- COPY_TRANSFER_STEP: one 64-byte unit of a COPY or FILL, or what is left of it (R191). -/
def execCopyTransferStep (id : Nat) (s : State) : Host.Outcome State Fault Refusal :=
  .next (match findCopy s id with
    | none => s
    | some c => if copyRuns c ∧ cpKind c.cmd ≠ 3 then copyUnit s c else s)

/-- COPY_CMD_COPY: a COPY command goes on with its rows until it is done, or meets a fault or its budget
(R191). -/
def execCopyCmdCopy (id : Nat) (s : State) : Host.Outcome State Fault Refusal :=
  .next (match findCopy s id with
    | none => s
    | some c => if cpKind c.cmd = 1 then copySegments s id (copyFuel c) else s)

/-- COPY_CMD_FILL: a FILL command goes on with its rows (R191). -/
def execCopyCmdFill (id : Nat) (s : State) : Host.Outcome State Fault Refusal :=
  .next (match findCopy s id with
    | none => s
    | some c => if cpKind c.cmd = 2 then copySegments s id (copyFuel c) else s)

/-- Whether every command of a copy's context with a lower number has retired (R191). -/
def lowerRetired (s : State) (c : Copy) : Bool :=
  match c.queue with
  | some q => s.copies.all fun x => !(x.queue == some q && decide (x.seq < c.seq))
  | none => match anyCrew s c.grid c.crew with
    | none => true
    | some x => x.copies.openN.all fun n => decide (c.seq ≤ n)

/-- COPY_CMD_SIGNAL: the value is written as a release once every lower-numbered command has retired (R191). -/
def execCopyCmdSignal (id : Nat) (s : State) : Host.Outcome State Fault Refusal :=
  .next (match findCopy s id with
    | none => s
    | some c =>
      if cpKind c.cmd ≠ 3 ∨ !copyRuns c ∨ !lowerRetired s c ∨ !cpMay s c then s
      else match look s c.asid (cpDst c.cmd) needStore with
        | .ok pa _ =>
          let r := reach s (.copy id) clsCopy [pa / 64]
          if r.2 then
            setCopy (writeBy r.1 (worker (copyAgent c) c.grid) pa (leBytes 8 (cpSrc c.cmd))) { c with stage := .finished }
          else r.1
        | h => copyFault s c 1 (cpDst c.cmd) needStore h)

/-- COPY_RETIRE: every access is performed, with the messages it caused, and the command retires (R153, R155,
R169). -/
def execCopyRetire (id : Nat) (s : State) : Host.Outcome State Fault Refusal :=
  .next (match findCopy s id with
    | none => s
    | some c =>
      if c.stage = .finished ∧ copyPerformed s c then discardCopy s c else s)

end Sys2Proof.Machine
end

