-- ==== Sys2Proof/Machine/Matrix.lean ====
section
/-! DEFINITION. The matrix engine: the checks of a pushed tile task, the sequencer, the seven kinds of task, pair
mode and retirement (R199 to R221). -/

namespace Sys2Proof.Machine

/-! ## Record fields (R203) -/

def tkKind (d : BitVec 512) : Nat := nbits d.toNat 0 8
def tkOpt (d : BitVec 512) : Bool := d.getLsbD 8
def tkRmCode (d : BitVec 512) : Nat := nbits d.toNat 9 3
def tkTid (d : BitVec 512) : Nat := nbits d.toNat 16 16
def tkP0 (d : BitVec 512) : Nat := nbits d.toNat 32 16
def tkP1 (d : BitVec 512) : Nat := nbits d.toNat 48 16
def tkSeq (d : BitVec 512) : Nat := nbits d.toNat 64 48
def tkScope (d : BitVec 512) : Nat := nbits d.toNat 112 3
def tkTa (d : BitVec 512) : Nat := nbits d.toNat 115 5
def tkTb (d : BitVec 512) : Nat := nbits d.toNat 120 5
def tkAcc (d : BitVec 512) : Nat := nbits d.toNat 125 3
def tkFmtw (d : BitVec 512) : Word := d.extractLsb' 128 32
def tkRsv (d : BitVec 512) : Nat := nbits d.toNat 160 10
def tkCsv (d : BitVec 512) : Nat := nbits d.toNat 170 10
def tkHsz (d : BitVec 512) : Nat := nbits d.toNat 180 2
def tkAddr (d : BitVec 512) : Nat := nbits d.toNat 192 64
def tkPitch (d : BitVec 512) : Int := toSigned 32 (nbits d.toNat 256 32)
def tkRows (d : BitVec 512) : Nat := nbits d.toNat 288 6 + 1
def tkCols (d : BitVec 512) : Nat := nbits d.toNat 294 6 + 1
def tkStat (d : BitVec 512) : Nat := nbits d.toNat 320 64

/-- The rounding mode of a task (R203). -/
def tkRm (d : BitVec 512) : Rm :=
  match tkRmCode d with | 1 => .rtz | 2 => .rup | 3 => .rdn | 4 => .rna | _ => .rne

/-- The kinds (R203). -/
def kTload : Nat := 1
def kTstore : Nat := 2
def kTmma : Nat := 3
def kThad : Nat := 4
def kTzero : Nat := 5
def kTcvt : Nat := 6
def kTjoin : Nat := 7

/-- No scale (R203). -/
def noScale : Nat := 0x3FF

/-- The statuses of a task (R206). -/
def stBadfmt : Nat := 1
def stScalechain : Nat := 2
def stShape : Nat := 3
def stFault : Nat := 4

/-! ## Shapes and tiles (R79, R199, R200) -/

/-- The shape that a shape register holds (R79). -/
def shapeOf (v : Dword) : Shape :=
  { fmt := nbits v.toNat 0 4, rows := nbits v.toNat 4 6 + 1, cols := nbits v.toNat 10 6 + 1 }

/-- Whether a type code is an element format of the engine (R200). -/
def tileFmtOk (f : Nat) : Bool := [4, 6, 7, 12, 13, 14, 15].contains f
/-- Bytes of an element (R199); a code that is no format has unit 1 (R204). -/
def tileElemSize (f : Nat) : Nat := match f with | 4 => 4 | 6 => 2 | 7 => 2 | _ => 1
/-- The element unit (R204). -/
def elemUnit (f : Nat) : Nat := if f = 15 then 8 else tileElemSize f
/-- Bytes of a row (R199). -/
def tileRow (f cols : Nat) : Nat := if f = 15 then 8 * ((cols + 9) / 10) else tileElemSize f * cols
/-- Whether a shape fits a tile register (R200). -/
def shapeFits (p : Shape) : Bool := decide (p.rows * tileRow p.fmt p.cols ≤ 8192)

/-- Bytes of a tile register, as a number. -/
def tileNat (m : Matrix) (t off n : Nat) : Nat := leNat (tab n fun k => m.tiles.get 0 (8192 * t + off + k))

/-- Element (i, j) of a tile read through a shape (R199). -/
def tileElem (m : Matrix) (t : Nat) (p : Shape) (i j : Nat) : Nat :=
  let row := i * tileRow p.fmt p.cols
  if p.fmt = 15 then nbits (tileNat m t (row + 8 * (j / 10)) 8) (6 * (j % 10)) 6
  else tileNat m t (row + tileElemSize p.fmt * j) (tileElemSize p.fmt)

/-- Elements packed ten to a unit of 8 bytes; the slots of the last unit past the last element are written 0, as its bits
[63:60] are (R199; DESIGN CHOICE, log 50). -/
def packUnits : Nat → List Nat → List Byte
  | 0, _ => []
  | n + 1, es => leBytes 8 (packElems 6 (es.take 10)) ++ packUnits n (es.drop 10)

/-- The bytes of a row of elements (R199). -/
def rowOut (f : Nat) (es : List Nat) : List Byte :=
  if f = 15 then packUnits ((es.length + 9) / 10) es else es.flatMap fun e => leBytes (tileElemSize f) e

/-- Row bytes as a tile register keeps them: bits [63:60] of a tf6 unit are written 0 (R199). -/
def rowIn (f : Nat) (bs : List Byte) : List Byte :=
  (bs.zipIdx).map fun b => if f = 15 ∧ b.2 % 8 = 7 then b.1 &&& 0x0F else b.1

/-- Poison places (R282): word w of tile storage, and 65536 + element of accumulator storage. -/
def tileBad (m : Matrix) (t off n : Nat) : Bool :=
  m.bad.any fun p => decide (p < 65536) && decide (8192 * t + off < 4 * p + 4) && decide (4 * p < 8192 * t + off + n)
def accBad (m : Matrix) (a rows cols : Nat) : Bool :=
  m.bad.any fun p => decide (65536 + 4096 * a ≤ p) && decide (p < 65536 + 4096 * (a + 1)) &&
    decide ((p - 65536) / 64 % 64 < rows) && decide (p % 64 < cols)

/-- Write bytes of a tile register: words wholly written are clean; `bad` marks every word touched (R282). -/
def tilePut (m : Matrix) (t off : Nat) (bs : List Byte) (bad : Bool) : Matrix :=
  let lo := 8192 * t + off
  let hi := lo + bs.length
  let words := (List.range (bs.length / 4 + 2)).filterMap fun k => if 4 * (lo / 4 + k) < hi then some (lo / 4 + k) else none
  let keep := m.bad.filter fun p => !(decide (p < 65536) && decide (lo ≤ 4 * p) && decide (4 * p + 4 ≤ hi))
  { m with
    tiles := (bs.zipIdx).foldl (fun c b => Cells.set 0 c (lo + b.2) b.1) m.tiles
    bad := if bad then words ++ keep else keep }

/-- An accumulator element. -/
def accGet (m : Matrix) (a i j : Nat) : Nat := (m.accs.get 0 (4096 * a + 64 * i + j)).toNat

/-- The pairs (i, j) of a rectangle, row by row. -/
def cells (rows cols : Nat) : List (Nat × Nat) := (List.range rows).flatMap fun i => tab cols fun j => (i, j)

/-! ## Taking the engine, and pushes (R202 to R205, R207) -/

/-- Whether the crew of a group may use its core's engine: it holds it, or no crew does (R202). -/
def engineFree (s : State) (g : Group) : Bool :=
  match (engineOf s g.core).holder with
  | none => true
  | some h => h == (g.grid, g.crew)

/-- The engine as a group's crew finds it: reset when it takes it (R202). -/
def engineFor (s : State) (g : Group) : Matrix :=
  let m := engineOf s g.core
  if m.holder.isNone then resetMatrix (some (g.grid, g.crew)) else m

/-- The even core of a core's pair (R217). -/
def pairCore (core : Nat) : Nat := core - core % 2

/-- Whether pair mode is in force for a core's pair (R217). -/
def pairOn (s : State) (core : Nat) : Bool :=
  let a := engineOf s (pairCore core)
  let b := engineOf s (pairCore core + 1)
  a.tmask.getLsbD 0 && b.tmask.getLsbD 0 &&
  (match a.holder, b.holder with
   | some x, some y => x.1 == y.1
   | _, _ => false)

/-- A field that only some kinds use is 0 for the others. -/
def onlyFor (used : Bool) (x : Nat) : Bool := used || x == 0

/-- The field checks of a record (R203, R204), with the shape of ta and the effective format word. -/
def taskOk (crew : Crew) (sa : Shape) (fmtw : Word) (d : BitVec 512) : Bool :=
  let x := d.toNat
  let k := tkKind d
  let mem := k == kTload || k == kTstore
  let drains := k == kTstore || (k == kTcvt && tkOpt d)
  let scaled := k == kTmma || k == kTcvt
  let unit := if k = kTload then elemUnit sa.fmt else elemUnit (fmtO fmtw)
  nbits x 384 128 == 0 && tkStat d % 8 == 0 && vaOk (tkStat d) && nbits x 300 20 == 0 &&
  onlyFor drains (nbits x 288 12) &&
  (if mem then nbits x 256 32 % unit == 0 && tkAddr d % unit == 0 && vaOk (tkAddr d)
   else nbits x 256 32 == 0 && tkAddr d == 0) &&
  nbits x 182 10 == 0 && onlyFor (k == kThad) (tkHsz d) && tkHsz d != 3 &&
  (scaled || (tkRsv d == noScale && tkCsv d == noScale)) && tkScope d != 7 &&
  decide (crew.tasks.last < tkSeq d) && tkTid d != 0 && nbits x 12 4 == 0 && decide (tkRmCode d < 5) &&
  (k == kTload || k == kTcvt || !tkOpt d) && decide (1 ≤ k) && decide (k ≤ 7)

/-- Whether a new task finds no place in the window (R207). -/
def windowFull (m : Matrix) : Bool :=
  decide (64 ≤ m.window.length) && (match m.window with | [] => false | t :: _ => t.stage != .retired)

/-- SC.PUSH to queue 0: the status and the state (R189, R202 to R207). A record that is not accepted has no
effect. -/
def pushMatrix (s : State) (g : Group) (d : BitVec 512) : State × Nat :=
  match crewOf s g with
  | none => (s, 2)
  | some crew =>
    let m := engineFor s g
    let sa := shapeOf (m.shapes.get 0 (tkTa d))
    let fmtw : Word := if tkFmtw d = 0 then g.fmtword.setWidth 32 else tkFmtw d
    let pair := pairOn s g.core
    if !engineFree s g || !taskOk crew sa fmtw d || (pair && decide (g.core % 2 = 1)) then (s, 2)
    else if windowFull m then (s, 1)
    else
      let t : Task :=
        { key := m.nextKey, grid := g.grid, crew := g.crew, asid := g.asid, desc := d, sa := sa
          sb := shapeOf (m.shapes.get 0 (tkTb d)), fmtw := fmtw, pair := pair
          mate := if pair then (((engineOf s (g.core + 1)).holder).map Prod.snd).getD 0 else 0, stage := .accepted, status := 0
          flags := 0, prog := 0, prog1 := 0, staged := [], holds := [], fail := false, skip := false
          vpages := [] }
      let old := if 64 ≤ m.window.length then m.window.tail else m.window
      let s := setCrew s { crew with tasks := crew.tasks.accept (tkSeq d) }
      (setEngine s g.core { m with window := old ++ [t], nextKey := m.nextKey + 1 }, 0)

/-! ## The sequencer (R207 to R209) -/

def findTask (m : Matrix) (key : Nat) : Option Task := m.window.find? fun t => t.key == key
def putTask (m : Matrix) (t : Task) : Matrix := { m with window := m.window.map fun x => if x.key = t.key then t else x }
def setTask (s : State) (core : Nat) (t : Task) : State := setEngine s core (putTask (engineOf s core) t)

/-- Whether a predecessor id is satisfied (R207). -/
def predOk (m : Matrix) (t : Task) (p : Nat) : Bool :=
  p == 0 ||
  (match (m.window.filter fun x => decide (x.key < t.key) && tkTid x.desc == p).getLast? with
   | none => true
   | some x => x.stage == .retired)
def predsOk (m : Matrix) (t : Task) : Bool := predOk m t (tkP0 t.desc) && predOk m t (tkP1 t.desc)

/-- Whether the sequencer may issue a task: the oldest unissued one whose predecessors are satisfied, unless halt
is set (R208). -/
def mayIssue (m : Matrix) (t : Task) : Bool :=
  t.stage == .accepted && !m.tmask.getLsbD 1 && predsOk m t &&
  m.window.all fun x => !(decide (x.key < t.key) && x.stage == .accepted && predsOk m x)

/-- The tiles that a task names through a shape: ta and tb (R200). -/
def namesTa (d : BitVec 512) : Bool :=
  let k := tkKind d
  k == kTload || k == kTmma || k == kThad || (k == kTcvt && !tkOpt d)
def namesTb (d : BitVec 512) : Bool :=
  let k := tkKind d
  k == kTmma || k == kThad || k == kTcvt

/-- Points of a THAD (R203). -/
def hadPoints (d : BitVec 512) : Nat := 16 * 2 ^ tkHsz d

/-- Whether the sizes and extents of a task fit (R211 to R213). -/
def extentsOk (t : Task) : Bool :=
  let d := t.desc
  (!namesTa d || shapeFits t.sa) && (!namesTb d || shapeFits t.sb) &&
  (match tkKind d with
   | 3 => t.sa.cols == t.sb.cols
   | 4 => t.sa.rows == t.sb.rows && t.sa.cols == t.sb.cols && t.sa.cols % hadPoints d == 0 && [4, 6, 7].contains t.sa.fmt
   | 6 => tkCsv d == noScale &&
     (if tkOpt d then t.sb.rows == tkRows d && t.sb.cols == tkCols d
      else t.sb.rows == t.sa.rows && t.sb.cols == t.sa.cols)
   | _ => true)

/-- The checks at issue but for the chain, in order (R208): a status, 0 when they pass. -/
def issueStatus (t : Task) : Nat :=
  let d := t.desc
  let w := t.fmtw.toNat
  if !fmtWordOk t.fmtw then stBadfmt
  else if (namesTa d && !tileFmtOk t.sa.fmt) || (namesTb d && !tileFmtOk t.sb.fmt) then stBadfmt
  else if tkKind d = kTmma ∧ (t.sa.fmt ≠ nbits w 0 4 ∨ t.sb.fmt ≠ nbits w 4 4) then stBadfmt
  else if !extentsOk t then stShape
  else 0

/-- Whether a task names an accumulator whose tasks keep acceptance order (R209). -/
def usesAcc (d : BitVec 512) : Bool :=
  let k := tkKind d
  k == kTmma || k == kTzero || k == kTstore || (k == kTcvt && tkOpt d)

/-- Whether every earlier task of a task's accumulator has taken effect (R209). -/
def accReady (m : Matrix) (t : Task) : Bool :=
  !usesAcc t.desc ||
  m.window.all fun x => !(decide (x.key < t.key) && usesAcc x.desc && tkAcc x.desc == tkAcc t.desc &&
    (x.stage == .accepted || x.stage == .issued))

/-! ## Arithmetic of the tasks -/

/-- A scale value: element i of a scale id; 1 with no scale (R214). -/
def scaleAt (m : Matrix) (id i : Nat) : Nat :=
  if id = noScale then 0x3F800000 else tileNat m (id / 32) (256 * (id % 32) + 4 * i) 4

/-- A rounded element under the policy of a format word: under policies 00 and 10 an infinity becomes the
largest magnitude, and under 10 a NaN becomes +0 (R101, R104). The replacement raises no flag of its own: R94 says so of the
narrow formats, and no rule says which flags it raises in f32, f16 and bf16 (DESIGN CHOICE, log 57). -/
def outElem (w : Word) (f : Nat) (rm : Rm) (v : Val) : Nat × Flags :=
  let fmt := (fmtCode f).getD .bf16
  let r := convF fmt rm (fmtPol w == 1) v
  if fmtPol w = 1 then r
  else match dec fmt r.1 with
    | .inf neg => (signBit fmt neg + fmt.maxBits, r.2)
    | .nan _ => (if fmtPol w = 2 then 0 else r.1, r.2)
    | .fin _ _ => r

/-- The pair of scales that a drain of an accumulator uses (R214). -/
def boundScales (m : Matrix) (a : Nat) : Nat × Nat := (m.chains.get none a).getD (noScale, noScale)

/-- `drain` of an accumulator element (R104). -/
def drainElem (m : Matrix) (t : Task) (i j : Nat) : Nat × Flags :=
  let sc := boundScales m (tkAcc t.desc)
  let y := fmul .f32 .rne (accGet m (tkAcc t.desc) i j) (scaleAt m sc.1 i)
  let z := fmul .f32 .rne y.1 (scaleAt m sc.2 j)
  let o := outElem t.fmtw (fmtO t.fmtw) (tkRm t.desc) (dec .f32 z.1)
  (o.1, y.2 ||| z.2 ||| o.2)

/-- TMMA on one engine (R212): the accumulator, the flags, and the chain bound when it was open. -/
def tmmaOn (m : Matrix) (t : Task) : Matrix × Flags :=
  let a := tkAcc t.desc
  let fa := (fmtCode t.sa.fmt).getD .bf16
  let fb := (fmtCode t.sb.fmt).getD .bf16
  let rowA := fun i => tab t.sa.cols fun k => decOperand fa (tileElem m (tkTa t.desc) t.sa i k)
  let rowB := fun j => tab t.sb.cols fun k => decOperand fb (tileElem m (tkTb t.desc) t.sb j k)
  let out := (cells t.sa.rows t.sb.rows).foldl (fun (x : Cells Word × Flags) p =>
    let r := chunks 4 (accGet m a p.1 p.2) ((rowA p.1).zip (rowB p.2))
    (Cells.set 0 x.1 (4096 * a + 64 * p.1 + p.2) (BitVec.ofNat 32 r.1), x.2 ||| r.2)) (m.accs, 0)
  let chain := match m.chains.get none a with
    | some c => some c
    | none => some (tkRsv t.desc, tkCsv t.desc)
  ({ m with accs := out.1, chains := Cells.set none m.chains a chain }, out.2)

/-- The chain of a task's accumulator after one earlier task that has not taken effect yet (R209, R214). -/
def chainAfter (t : Task) (c : Option (Nat × Nat)) (x : Task) : Option (Nat × Nat) :=
  if x.key < t.key ∧ tkAcc x.desc = tkAcc t.desc ∧ (x.stage = .accepted ∨ x.stage = .issued) ∧ issueStatus x = 0 then
    if tkKind x.desc = kTzero then none
    else if tkKind x.desc = kTmma ∧ c.isNone then some (tkRsv x.desc, tkCsv x.desc)
    else c
  else c

/-- Whether a TMMA agrees with the chain that its accumulator will have when its turn comes: that of an engine, after the
earlier tasks of a window, which take effect first, in acceptance order (R208, R209, R214). -/
def chainOk (window : List Task) (m : Matrix) (t : Task) : Bool :=
  match window.foldl (chainAfter t) (m.chains.get none (tkAcc t.desc)) with
  | none => true
  | some c => c == (tkRsv t.desc, tkCsv t.desc)

/-- TZERO on one engine (R213). -/
def tzeroOn (m : Matrix) (t : Task) : Matrix × Flags :=
  let a := tkAcc t.desc
  ({ m with
     accs := m.accs.filter fun e => !(e.1 / 4096 == a)
     chains := Cells.set none m.chains a none
     bad := m.bad.filter fun p => !(decide (65536 + 4096 * a ≤ p) && decide (p < 65536 + 4096 * (a + 1))) }, 0)

/-- One butterfly stage of THAD over a block, with h = 2^s (R213). -/
def hadStage (s : Nat) (x : List Nat) : List Nat × Flags :=
  let h := 2 ^ s
  let rs := tab x.length fun j =>
    if !j.testBit s then fadd .f32 .rne (x.getD j 0) (x.getD (j + h) 0)
    else fsub .f32 .rne (x.getD (j - h) 0) (x.getD j 0)
  (rs.map Prod.fst, unionFlags (rs.map Prod.snd))

/-- The stages of THAD from stage s on. -/
def hadStages : Nat → Nat → List Nat → List Nat × Flags
  | 0, _, x => (x, 0)
  | n + 1, s, x =>
    let r := hadStage s x
    let q := hadStages n (s + 1) r.1
    (q.1, r.2 ||| q.2)

/-- THAD of one block of n = 16 × 2^hsz elements (R213). -/
def hadBlock (t : Task) (es : List Nat) : List Nat × Flags :=
  let fa := (fmtCode t.sa.fmt).getD .bf16
  let wide := es.map fun e => convF .f32 .rne true (dec fa e)
  let st := hadStages (4 + tkHsz t.desc) 0 (wide.map Prod.fst)
  let factor := enc .f32 (.fin false ((Q.int 1).scale (-((4 + tkHsz t.desc) / 2 : Nat))))
  let ys := st.1.map fun x => fmul .f32 .rne x factor
  let os := ys.map fun y => outElem t.fmtw t.sb.fmt (tkRm t.desc) (dec .f32 y.1)
  (os.map Prod.fst,
   st.2 ||| unionFlags (wide.map Prod.snd) ||| unionFlags (ys.map Prod.snd) ||| unionFlags (os.map Prod.snd))

/-- A row of elements written to tb, with the flags so far. -/
def rowToTb (t : Task) (i : Nat) (x : Matrix × Flags) (es : List Nat) (fl : Flags) : Matrix × Flags :=
  (tilePut x.1 (tkTb t.desc) (i * tileRow t.sb.fmt t.sb.cols) (rowOut t.sb.fmt es) false, x.2 ||| fl)

/-- THAD on one engine: every element of ta is read before any of tb is written (R213). -/
def thadOn (m : Matrix) (t : Task) : Matrix × Flags :=
  let n := hadPoints t.desc
  (List.range t.sa.rows).foldl (fun x i =>
    let bs := tab (t.sa.cols / n) fun b => hadBlock t (tab n fun k => tileElem m (tkTa t.desc) t.sa i (n * b + k))
    rowToTb t i x (bs.flatMap Prod.fst) (unionFlags (bs.map Prod.snd))) (m, 0)

/-- One element of TCVT (R213). -/
def cvtElem (m : Matrix) (t : Task) (i j : Nat) : Nat × Flags :=
  let d := t.desc
  let v := if tkOpt d then dec .f32 (accGet m (tkAcc d) i j)
    else decOperand ((fmtCode t.sa.fmt).getD .bf16) (tileElem m (tkTa d) t.sa i j)
  let y : Val × Flags :=
    if tkRsv d = noScale then (v, 0)
    else
      let sc := dec .f32 (scaleAt m (tkRsv d) i)
      let r := convF .f32 .rne true (mulV v sc)
      (dec .f32 r.1, r.2 ||| (if anySig [v, sc] || badProd v sc then nvF else 0))
  let o := outElem t.fmtw t.sb.fmt (tkRm d) y.1
  (o.1, y.2 ||| o.2)

/-- TCVT on one engine (R213). Where tb is also ta, or holds its row-scale vector, every element and scale is read before any of
tb is written (DESIGN CHOICE, log 64). -/
def tcvtOn (m : Matrix) (t : Task) : Matrix × Flags :=
  (List.range t.sb.rows).foldl (fun x i =>
    let es := tab t.sb.cols fun j => cvtElem m t i j
    rowToTb t i x (es.map Prod.fst) (unionFlags (es.map Prod.snd))) (m, 0)

/-- Whether a task would use poisoned storage of an engine (R282). -/
def usesBad (m : Matrix) (t : Task) : Bool :=
  let d := t.desc
  let scale := fun (id n : Nat) => id != noScale && tileBad m (id / 32) (256 * (id % 32)) (4 * n)
  let tile := fun (r : Nat) (p : Shape) => tileBad m r 0 (p.rows * tileRow p.fmt p.cols)
  match tkKind d with
  | 2 =>
    let sc := boundScales m (tkAcc d)
    accBad m (tkAcc d) (tkRows d) (tkCols d) || scale sc.1 (tkRows d) || scale sc.2 (tkCols d)
  | 3 => tile (tkTa d) t.sa || tile (tkTb d) t.sb || accBad m (tkAcc d) t.sa.rows t.sb.rows
  | 4 => tile (tkTa d) t.sa
  | 6 => (if tkOpt d then accBad m (tkAcc d) (tkRows d) (tkCols d) else tile (tkTa d) t.sa) ||
      scale (tkRsv d) t.sb.rows
  | _ => false

/-! ## Running a task -/

/-- The cores whose engines a task runs on (R218). -/
def taskCores (core : Nat) (t : Task) : List Nat := if t.pair then [core, core + 1] else [core]

/-- The core of a half of a task; the status word is written for half 0 (R206, R218). -/
def halfCore (core half : Nat) : Nat := if half = 1 then core + 1 else core

/-- Whether the other half of a paired task is there: the crew that held its engine when the task was accepted holds that
engine (R219). -/
def pairReady (s : State) (core : Nat) (t : Task) : Bool := !t.pair || (engineOf s (core + 1)).holder == some (t.grid, t.mate)

/-- A task ends with a status; one that is not DONE has no flags (R206). -/
def endTask (s : State) (core : Nat) (t : Task) (status : Nat) (fl : Flags) : State :=
  setTask s core { t with stage := .ended, status := status, flags := if status = 0 then fl else 0, staged := [] }

/-- The engine of a core is restarted: it is reset for its holder (R202, R283). The numbers of its tasks count as retired, so that
the timeline advances past them (DESIGN CHOICE, log 64). -/
def restartEngine (s : State) (core : Nat) : State :=
  let m := engineOf s core
  let s := setEngine s core { resetMatrix m.holder with nextKey := m.nextKey }
  match m.holder with
  | none => s
  | some (grid, num) =>
    let s := dropWaiters s (waitsTask grid num)
    match findCrew s grid num with
    | none => s
    | some c =>
      let r := bumpCtx s { c.tasks with openN := [], doneN := c.tasks.openN ++ c.tasks.doneN }
      setCrew r.1 { c with tasks := r.2 }

/-- A half of a matrix task consumed poison on its engine, by its pool and its virtual address, each 0 where it has none: the
engine and every group of the holding crew, of both halves of a paired task, are the unit (R24, R264, R283). -/
def consumeTask (s : State) (core half : Nat) (t : Task) (cause pa va : Nat) (acc : Nat := 0) : State :=
  let cores := taskCores core t
  let gs := cores.flatMap fun c =>
    match (engineOf s c).holder with
    | some h => crewGroups s h.1 h.2
    | none => []
  let at' := halfCore core half
  let s1 := consumeAll s gs (srcEngine at') cause pa va t.asid (dieOf s at') acc
  if allIdem gs then cores.foldl restartEngine s1 else s1

/-- The first of a task's cores on whose engine it would use poisoned storage (R282). -/
def badCore (s : State) (core : Nat) (t : Task) : Option Nat := (taskCores core t).find? fun c => usesBad (engineOf s c) t

/-- A task of a kind that touches no memory takes its effect on each of its engines (R212, R213, R218). Its whole effect is
one turn, so that a task which may overlap it sees each tile wholly before or wholly after it: one of the outcomes that R209
allows element by element (DESIGN CHOICE, log 50). -/
def runOn (s : State) (core : Nat) (t : Task) (op : Matrix → Task → Matrix × Flags) : State :=
  let cores := taskCores core t
  match badCore s core t with
  | some c => consumeTask s core (c - core) t 2 0 0
  | none =>
    let out := cores.foldl (fun (x : State × Flags) c =>
      let r := op (engineOf x.1 c) t
      (setEngine x.1 c r.1, x.2 ||| r.2)) (s, 0)
    endTask out.1 core t 0 out.2

/-! ## Rows (R211, R215, R218) -/

/-- The agent number of a crew's matrix context in a sharer message: it stays the crew's own when the crew moves to another
core (R155, R210). -/
def taskAgent (t : Task) : Nat := 2 ^ 34 * (t.grid + 1) + t.crew

/-- Rows of a memory task, for each half. -/
def memRows (t : Task) : Nat := if tkKind t.desc = kTload then t.sa.rows else tkRows t.desc
/-- Bytes of a row. -/
def memRowBytes (t : Task) : Nat :=
  if tkKind t.desc = kTload then tileRow t.sa.fmt t.sa.cols else tileRow (fmtO t.fmtw) (tkCols t.desc)
/-- The address of a row of a half (R218). -/
def rowVa (t : Task) (half i : Nat) : Nat :=
  let k := if tkKind t.desc = kTload ∧ tkOpt t.desc then i else i + half * memRows t
  (((tkAddr t.desc : Int) + tkPitch t.desc * k) % 2 ^ 64).toNat

/-- The parts of a row in its pages. -/
def rowParts (va n : Nat) : List (Nat × Nat) :=
  let k := min n (toPageEnd va)
  if k < n then [(va, k), ((va + k) % 2 ^ 64, n - k)] else [(va, n)]

/-- What the probe of a row comes to: pool addresses of its parts, or a state in which the task waits or ends. -/
inductive RowHit where
  | ok (ps : List (Nat × Nat × Nat))
  | stop (s : State)

/-- Probe a row (R215, R261, R263), which waits while its tables cannot be read (R23). A device-only page answers as the driver's trap does: a row ends the task, and a status
word is dropped (R206, R268, log 24). -/
def rowProbe (s : State) (core : Nat) (t : Task) (half va n : Nat) (need : Need) : RowHit :=
  let hits := (rowParts va n).map fun p => (p, look s t.asid p.1 need)
  let oks := hits.filterMap fun h => match h.2 with | .ok pa _ => some (h.1.1, pa, h.1.2) | _ => none
  if oks.length = hits.length then .ok oks
  else if hits.any fun h => h.2 == .far then .stop s
  else match List.find? (fun (h : (Nat × Nat) × Hit) => match h.2 with | .quar _ => true | _ => false) hits with
    | some h => .stop (consumeTask s core half t 3 (match h.2 with | .quar pa => pa | _ => 0) h.1.1 need.acc)
    | none =>
      if hits.any fun h => h.2 == .devOnly then
        .stop (if half = 2 then setTask s core { t with skip := true } else endTask s core t stFault 0)
      else
        let bad := hits.filter fun h => h.2.waits
        let w : Waiter := .task t.grid t.crew t.key half
        let at' := halfCore core half
        let s := bad.foldl (fun s h =>
          report s t.asid (srcEngine at') noGid h.1.1 need h.2 w (some t.grid) (dieOf s at')) s
        .stop (setTask s core { t with holds := t.holds ++ List.replicate bad.length half })

/-- Learn and charge a row's lines; `false` while they have to wait (R27, R29, R131). -/
def rowCharge (s : State) (core half : Nat) (t : Task) (ps : List (Nat × Nat × Nat)) : State × Bool :=
  let lines := (ps.flatMap fun p => linesOf p.2.1 p.2.2).eraseDups
  let s := ps.foldl (fun s p => learn s t.asid p.1) s
  reachCore s (halfCore core half) (.task core t.key half) clsDemand lines

/-- The bytes of a row in memory, and whether they are poisoned. -/
def rowRead (s : State) (ps : List (Nat × Nat × Nat)) : List Byte × Bool :=
  (ps.flatMap fun p => tab p.2.2 fun k => cohByte s (p.2.1 + k), ps.any fun p => poisoned s p.2.1 p.2.2)

/-- Write a row's bytes to its parts (R176, R211); the cores whose engines made them keep no older copy (R154). -/
def rowWrite (s : State) (core : Nat) (t : Task) : List (Nat × Nat × Nat) → List Byte → State
  | [], _ => s
  | p :: r, bs =>
    let s := writeBy s (worker (taskAgent t) t.grid) p.2.1 (bs.take p.2.2)
    let s := (linesOf p.2.1 p.2.2).foldl (fun s l => (taskCores core t).foldl (fun s c => freshLine s c l) s) s
    rowWrite (carryPoison s none p.2.1 p.2.2) core t r (bs.drop p.2.2)

/-- Progress of a half. -/
def progOf (t : Task) (half : Nat) : Nat := if half = 0 then t.prog else t.prog1
/-- A half after one more row. -/
def progNext (t : Task) (half : Nat) : Task :=
  if half = 0 then { t with prog := t.prog + 1 } else { t with prog1 := t.prog1 + 1 }

/-- One row of a TLOAD: committed at once, or staged in pair mode. A row of poisoned bytes carries the mark (R282). -/
def loadRowStep (s : State) (core : Nat) (t : Task) (half i : Nat) (ps : List (Nat × Nat × Nat)) : State :=
  let b := rowRead s ps
  let bs := rowIn t.sa.fmt b.1
  if t.pair then setTask s core (progNext { t with staged := t.staged ++ [(64 * half + i, bs, b.2)] } half)
  else
    let m := tilePut (engineOf s core) (tkTa t.desc) (i * tileRow t.sa.fmt t.sa.cols) bs b.2
    setEngine s core (putTask m (progNext t half))

/-- The drained bytes of a row, and its flags (R211). -/
def drainRow (m : Matrix) (t : Task) (i : Nat) : List Byte × Flags :=
  let es := tab (tkCols t.desc) fun j => drainElem m t i j
  (rowOut (fmtO t.fmtw) (es.map Prod.fst), unionFlags (es.map Prod.snd))

/-- One row of a TSTORE: written at once, or staged in pair mode. -/
def storeRowStep (s : State) (core : Nat) (t : Task) (half i : Nat) (ps : List (Nat × Nat × Nat)) : State :=
  let out := drainRow (engineOf s (core + half)) t i
  let t := { t with flags := t.flags ||| out.2 }
  if t.pair then setTask s core (progNext { t with staged := t.staged ++ [(64 * half + i, out.1, false)] } half)
  else setTask (rowWrite s core t ps out.1) core (progNext t half)

/-- Rows of one half, until they are done or the half has to wait. -/
def runRows (s : State) (core key half : Nat) (load : Bool) : Nat → State
  | 0 => s
  | n + 1 =>
    match findTask (engineOf s core) key with
    | none => s
    | some t =>
      let i := progOf t half
      if t.stage ≠ .issued ∨ t.holds.contains half ∨ memRows t ≤ i then s
      else match rowProbe s core t half (rowVa t half i) (memRowBytes t) (if load then needLoad else needStore) with
        | .stop s => s
        | .ok ps =>
          let r := rowCharge s core half t ps
          let t := { t with vpages := addRows t.vpages (ps.map fun p => p.1 / 4096) }
          if !r.2 then r.1
          else runRows (if load then loadRowStep r.1 core t half i ps else storeRowStep r.1 core t half i ps) core key half load n

/-- Whether every row of a half is done. -/
def halfDone (t : Task) (half : Nat) : Bool := decide (memRows t ≤ progOf t half)

/-- Both halves of a paired TLOAD commit together (R218). -/
def commitLoad (s : State) (core : Nat) (t : Task) : State :=
  let s := t.staged.foldl (fun s r =>
    let c := core + r.1 / 64
    setEngine s c (tilePut (engineOf s c) (tkTa t.desc) (r.1 % 64 * tileRow t.sa.fmt t.sa.cols) r.2.1 r.2.2)) s
  endTask s core t 0 t.flags

/-- Both halves of a paired TSTORE commit together: every staged row is probed once more, and a row whose page has
gone makes its half wait (R218). The rows were charged as they were staged (log 48). -/
def commitStore (s : State) (core : Nat) (t : Task) : State :=
  let probe := fun (r : Nat × List Byte × Bool) => rowProbe s core t (r.1 / 64) (rowVa t (r.1 / 64) (r.1 % 64)) (memRowBytes t) needStore
  match t.staged.findSome? fun r => match probe r with | .stop s => some s | .ok _ => none with
  | some s => s
  | none =>
    let lines := t.staged.flatMap fun r => match probe r with | .ok ps => ps.flatMap fun p => linesOf p.2.1 p.2.2 | .stop _ => []
    if !reachable s lines then s else
    let s := t.staged.foldl (fun s r => match probe r with | .ok ps => rowWrite s core t ps r.2.1 | .stop _ => s) s
    endTask s core t 0 t.flags

/-- Run the rows of a TLOAD or TSTORE on its halves, and end it when all are done (R211, R218). -/
def runMem (s : State) (core : Nat) (t : Task) (load : Bool) : State :=
  match (if load then none else badCore s core t) with
  | some c => consumeTask s core (c - core) t 2 0 0
  | none =>
    let s := runRows s core t.key 0 load 64
    let s := if t.pair then runRows s core t.key 1 load 64 else s
    match findTask (engineOf s core) t.key with
    | none => s
    | some t =>
      if t.stage ≠ .issued ∨ t.holds ≠ [] ∨ !halfDone t 0 then s
      else if !t.pair then endTask s core t 0 t.flags
      else if !halfDone t 1 then s
      else if load then commitLoad s core t
      else commitStore s core t

/-- Whether a core's engine may issue tasks: its die's energy budget is not used up (R30). -/
def engineMay (s : State) (core : Nat) : Bool := !s.gov.stopped.contains (dieOf s core)

/-- Whether a crew that holds an engine of a task is about to be saved: the task is issued after the restore (R216,
R219). -/
def engineSaving (s : State) (core : Nat) (t : Task) : Bool :=
  (taskCores core t).any fun c => match (engineOf s c).holder with
    | some h => (match findCrew s h.1 h.2 with | some x => x.status == .saving | none => false)
    | none => false

/-- An issued task goes on: a driver's answer trap ends it, its accumulator's turn is awaited, then it runs. -/
def goTask (s : State) (core : Nat) (t : Task) (run : State → Task → State) : State :=
  if t.fail then endTask s core t stFault 0
  else if accReady (engineOf s core) t && pairReady s core t then run s t
  else s

/-- A task of a kind is issued with the checks of R208, or goes on; an issued task needs no energy budget (R30). -/
def taskStep (s : State) (core key kind : Nat) (run : State → Task → State) : State :=
  let m := engineOf s core
  match findTask m key with
  | none => s
  | some t =>
    if !s.pkg.up || tkKind t.desc != kind then s
    else match t.stage with
      | .accepted =>
        if !engineMay s core || engineSaving s core t || !mayIssue m t then s
        else if issueStatus t ≠ 0 then endTask s core t (issueStatus t) 0
        else if tkKind t.desc = kTmma ∧ (taskCores core t).any (fun c => !chainOk m.window (engineOf s c) t) then
          endTask s core t stScalechain 0
        else
          let t := { t with stage := .issued }
          goTask (setTask s core t) core t run
      | .issued => goTask s core t run
      | _ => s

/-- TLOAD (R211). -/
def execTload (core task : Nat) (s : State) : Host.Outcome State Fault Refusal :=
  .next (taskStep s core task kTload fun s t => runMem s core t true)
/-- TSTORE (R211). -/
def execTstore (core task : Nat) (s : State) : Host.Outcome State Fault Refusal :=
  .next (taskStep s core task kTstore fun s t => runMem s core t false)
/-- TMMA (R212, R214). -/
def execTmma (core task : Nat) (s : State) : Host.Outcome State Fault Refusal :=
  .next (taskStep s core task kTmma fun s t => runOn s core t tmmaOn)
/-- THAD (R213). -/
def execThad (core task : Nat) (s : State) : Host.Outcome State Fault Refusal :=
  .next (taskStep s core task kThad fun s t => runOn s core t thadOn)
/-- TZERO (R213). -/
def execTzero (core task : Nat) (s : State) : Host.Outcome State Fault Refusal :=
  .next (taskStep s core task kTzero fun s t => runOn s core t tzeroOn)
/-- TCVT (R213). -/
def execTcvt (core task : Nat) (s : State) : Host.Outcome State Fault Refusal :=
  .next (taskStep s core task kTcvt fun s t => runOn s core t tcvtOn)
/-- TJOIN (R213). -/
def execTjoin (core task : Nat) (s : State) : Host.Outcome State Fault Refusal :=
  .next (taskStep s core task kTjoin fun s t => runOn s core t fun m _ => (m, 0))

/-! ## Retirement (R206, R210) -/

/-- The status word (R206). -/
def statusWord (t : Task) : Nat := tkTid t.desc * 2 ^ 16 + t.flags.toNat * 2 ^ 8 + t.status

/-- A task retires: its number retires in the context of the crew that pushed it (R153). -/
def retireTask (s : State) (core : Nat) (t : Task) : State :=
  retireTaskNo (setTask s core { t with stage := .retired }) t.grid t.crew (tkSeq t.desc)

/-- MATRIX_TASK_RETIRE: the status word is written, then the task retires, once every access of the task and the
messages it caused are performed (R153, R155, R169, R206, R210). A driver's answer trap drops the status word;
`skip` says that the word is settled. -/
def execMatrixTaskRetire (core task : Nat) (s : State) : Host.Outcome State Fault Refusal :=
  .next (match findTask (engineOf s core) task with
    | none => s
    | some t =>
      if t.stage ≠ .ended ∨ t.holds.contains 2 ∨ s.coh.msgs.any (fun m => m.gid == taskAgent t) then s
      else if tkStat t.desc = 0 ∨ t.skip then retireTask s core t
      else match rowProbe s core t 2 (tkStat t.desc) 8 needStore with
        | .stop s => s
        | .ok ps =>
          let r := rowCharge s core 2 t ps
          if !r.2 then r.1
          else
            let s := rowWrite r.1 core t ps (leBytes 8 (statusWord t))
            if s.coh.msgs.any fun m => m.gid == taskAgent t then setTask s core { t with skip := true }
            else retireTask s core t)

/-! ## Pair mode (R217) -/

/-- Whether an engine has an unretired task. -/
def busyEngine (m : Matrix) : Bool := m.window.any fun t => t.stage != .retired

/-- Whether a change of cr.tmask.pair has to wait (R217). -/
def pairBusy (s : State) (core : Nat) : Bool :=
  busyEngine (engineOf s (pairCore core)) || busyEngine (engineOf s (pairCore core + 1))

/-- TMASK_PAIR_WRITE_RESUME: a write of cr.tmask that waits takes effect once neither core of the pair has an
unretired task (R217). -/
def execTmaskPairWriteResume (gid : Nat) (s : State) : Host.Outcome State Fault Refusal :=
  .next (match findGroup s.groups gid with
    | none => s
    | some g =>
      match g.pairWait with
      | none => s
      | some v =>
        if pairBusy s g.core then s
        else
          let s := setEngine s g.core { engineOf s g.core with tmask := v }
          setG s (nextSpc { g with pairWait := none }))

end Sys2Proof.Machine
end

