-- ==== Sys2Proof/Machine/Scalar.lean ====
section
/-! DEFINITION. Scalar arithmetic, moves and control flow (R72, R391, R392, R395 to R397, R405, R409, R410, R412
to R414). -/

namespace Sys2Proof.Machine

/-- Bits [127:64] of the signed product (R391). -/
def mulHigh (x y : Dword) : Dword := BitVec.ofInt 64 ((x.toInt * y.toInt) / 2 ^ 64)

/-- SC.DIV with its special cases (R392). -/
def scDiv (x y : Dword) : Dword :=
  if y = 0 then BitVec.allOnes 64 else BitVec.ofInt 64 (x.toInt.tdiv y.toInt)

/-- SC.REM: x − q × y, x where y is 0 (R391, R392). -/
def scRem (x y : Dword) : Dword := if y = 0 then x else x - scDiv x y * y

/-- A scalar operation on two registers, and on a register and an immediate (R71, R391). -/
def scalarRR (s : State) (d a b : SReg) (op : Dword → Dword → Dword) : State :=
  scalarOp s d [a, b] fun g => op (scal g a.toNat) (scal g b.toNat)
def scalarRI (s : State) (d a : SReg) (imm : BitVec 13) (op : Dword → Dword → Dword) : State :=
  scalarOp s d [a] fun g => op (scal g a.toNat) (imm13 imm)

/-- SC.ADD (R391). -/
def execScAdd (d a b : SReg) (s : State) : Host.Outcome State Fault Refusal :=
  .next (scalarRR s d a b fun x y => x + y)
def execScAddImm (d a : SReg) (imm : BitVec 13) (s : State) : Host.Outcome State Fault Refusal :=
  .next (scalarRI s d a imm fun x y => x + y)

/-- SC.SUB (R391). -/
def execScSub (d a b : SReg) (s : State) : Host.Outcome State Fault Refusal :=
  .next (scalarRR s d a b fun x y => x - y)
def execScSubImm (d a : SReg) (imm : BitVec 13) (s : State) : Host.Outcome State Fault Refusal :=
  .next (scalarRI s d a imm fun x y => x - y)

/-- SC.MUL (R391). -/
def execScMul (d a b : SReg) (s : State) : Host.Outcome State Fault Refusal :=
  .next (scalarRR s d a b fun x y => x * y)
def execScMulImm (d a : SReg) (imm : BitVec 13) (s : State) : Host.Outcome State Fault Refusal :=
  .next (scalarRI s d a imm fun x y => x * y)

/-- SC.MULH (R391). -/
def execScMulh (d a b : SReg) (s : State) : Host.Outcome State Fault Refusal :=
  .next (scalarRR s d a b fun x y => mulHigh x y)
def execScMulhImm (d a : SReg) (imm : BitVec 13) (s : State) : Host.Outcome State Fault Refusal :=
  .next (scalarRI s d a imm fun x y => mulHigh x y)

/-- SC.DIV (R391). -/
def execScDiv (d a b : SReg) (s : State) : Host.Outcome State Fault Refusal :=
  .next (scalarRR s d a b fun x y => scDiv x y)
def execScDivImm (d a : SReg) (imm : BitVec 13) (s : State) : Host.Outcome State Fault Refusal :=
  .next (scalarRI s d a imm fun x y => scDiv x y)

/-- SC.REM (R391). -/
def execScRem (d a b : SReg) (s : State) : Host.Outcome State Fault Refusal :=
  .next (scalarRR s d a b fun x y => scRem x y)
def execScRemImm (d a : SReg) (imm : BitVec 13) (s : State) : Host.Outcome State Fault Refusal :=
  .next (scalarRI s d a imm fun x y => scRem x y)

/-- SC.AND (R391). -/
def execScAnd (d a b : SReg) (s : State) : Host.Outcome State Fault Refusal :=
  .next (scalarRR s d a b fun x y => x &&& y)
def execScAndImm (d a : SReg) (imm : BitVec 13) (s : State) : Host.Outcome State Fault Refusal :=
  .next (scalarRI s d a imm fun x y => x &&& y)

/-- SC.OR (R391). -/
def execScOr (d a b : SReg) (s : State) : Host.Outcome State Fault Refusal :=
  .next (scalarRR s d a b fun x y => x ||| y)
def execScOrImm (d a : SReg) (imm : BitVec 13) (s : State) : Host.Outcome State Fault Refusal :=
  .next (scalarRI s d a imm fun x y => x ||| y)

/-- SC.XOR (R391). -/
def execScXor (d a b : SReg) (s : State) : Host.Outcome State Fault Refusal :=
  .next (scalarRR s d a b fun x y => x ^^^ y)
def execScXorImm (d a : SReg) (imm : BitVec 13) (s : State) : Host.Outcome State Fault Refusal :=
  .next (scalarRI s d a imm fun x y => x ^^^ y)

/-- SC.SHL (R391). -/
def execScShl (d a b : SReg) (s : State) : Host.Outcome State Fault Refusal :=
  .next (scalarRR s d a b fun x y => x <<< (y.toNat % 64))
def execScShlImm (d a : SReg) (imm : BitVec 13) (s : State) : Host.Outcome State Fault Refusal :=
  .next (scalarRI s d a imm fun x y => x <<< (y.toNat % 64))

/-- SC.SHR (R391). -/
def execScShr (d a b : SReg) (s : State) : Host.Outcome State Fault Refusal :=
  .next (scalarRR s d a b fun x y => x >>> (y.toNat % 64))
def execScShrImm (d a : SReg) (imm : BitVec 13) (s : State) : Host.Outcome State Fault Refusal :=
  .next (scalarRI s d a imm fun x y => x >>> (y.toNat % 64))

/-- SC.SRA (R391). -/
def execScSra (d a b : SReg) (s : State) : Host.Outcome State Fault Refusal :=
  .next (scalarRR s d a b fun x y => x.sshiftRight (y.toNat % 64))
def execScSraImm (d a : SReg) (imm : BitVec 13) (s : State) : Host.Outcome State Fault Refusal :=
  .next (scalarRI s d a imm fun x y => x.sshiftRight (y.toNat % 64))

/-- A count of bits (R395). -/
def bitCount (c : BitCount) (x : Dword) : Nat :=
  match c with
  | .popc => popCount 64 x.toNat
  | .clz => leadZeros 64 x.toNat
  | .ctz => trailZeros 64 x.toNat

/-- SC.BITC (R395). -/
def execScBitc (d a : SReg) (cnt : BitCount) (s : State) : Host.Outcome State Fault Refusal :=
  .next (scalarOp s d [a] fun g => dw (bitCount cnt (scal g a.toNat)))

/-- A condition of SC.SET (R414). -/
def scalarCond (c : SCond) (x y : Dword) : Bool :=
  match c with
  | .eq => x == y
  | .ne => x != y
  | .lt => x.slt y
  | .le => x.sle y
  | .ltu => x.ult y
  | .leu => x.ule y

/-- SC.SET (R414). -/
def execScSet (d a b : SReg) (cond : SCond) (s : State) : Host.Outcome State Fault Refusal :=
  .next (scalarRR s d a b fun x y => if scalarCond cond x y then 1 else 0)

/-- SC.SEL (R413). -/
def execScSel (d a b sel : SReg) (s : State) : Host.Outcome State Fault Refusal :=
  .next (scalarOp s d [a, b, sel] fun g => if scal g sel.toNat ≠ 0 then scal g a.toNat else scal g b.toNat)

/-- SC.MOV (R409). -/
def execScMov (d a : SReg) (s : State) : Host.Outcome State Fault Refusal :=
  .next (scalarOp s d [a] fun g => scal g a.toNat)

/-- The value of SC.LIMM: a shifted immediate, or a chunk inserted into the old value (R405). -/
def limmValue (chunk : Nat) (ins : Bool) (imm : BitVec 13) (old : Dword) : Dword :=
  if ins then
    let n := min (13 * chunk + 12) 63 + 1 - 13 * chunk
    let m : Dword := dw ((2 ^ n - 1) * 2 ^ (13 * chunk))
    (old &&& ~~~m) ||| (dw (imm.toNat % 2 ^ n * 2 ^ (13 * chunk)))
  else BitVec.ofInt 64 (imm.toInt * 2 ^ (13 * chunk))

/-- SC.LIMM; with `ins`, d is read as well (R405). -/
def execScLimm (d : SReg) (chunk : BitVec 3) (ins : Bool) (imm : BitVec 13) (s : State) :
    Host.Outcome State Fault Refusal :=
  .next (scalarOp s d [] fun g => limmValue chunk.toNat ins imm (scal g d.toNat))

/-- A target relative to the transferring instruction, in 4-byte units (R72). -/
def scalarTarget (g : Group) (off : Int) : Dword := g.spc + BitVec.ofInt 64 (off * 4)

/-- SPC goes to a target. -/
def jumpTo (g : Group) (t : Dword) : Group := { nextSpc g with spc := t }

/-- SC.BR (R396). -/
def execScBr (r : SReg) (bit : BitVec 6) (sense : Bool) (off : BitVec 12) (s : State) :
    Host.Outcome State Fault Refusal :=
  .next (scalarIssue s [r] fun g =>
    if (scal g r.toNat).getLsbD bit.toNat = sense then setG s (jumpTo g (scalarTarget g off.toInt))
    else setG s (nextSpc g))

/-- SC.JMP (R397). -/
def execScJmp (off : BitVec 25) (s : State) : Host.Outcome State Fault Refusal :=
  .next (scalarIssue s [] fun g => setG s (jumpTo g (scalarTarget g off.toInt)))

/-- SC.CALL: lr first gets SPC + 4 (R397). -/
def execScCall (off : BitVec 25) (s : State) : Host.Outcome State Fault Refusal :=
  .next (scalarIssue s [62] fun g =>
    setG s (jumpTo (setScal g 62 (g.spc + 4)) (scalarTarget g off.toInt)))

/-- SC.RET (R412). -/
def execScRet (s : State) : Host.Outcome State Fault Refusal :=
  .next (scalarIssue s [62] fun g => setG s (jumpTo g (scal g 62 &&& ~~~3#64)))

/-- SC.NOP (R410). -/
def execScNop (s : State) : Host.Outcome State Fault Refusal :=
  .next (scalarIssue s [] fun g => setG s (nextSpc g))

end Sys2Proof.Machine
end

