-- ==== Sys2Proof/Machine/ScalarSys.lean ====
section
/-! DEFINITION. Scalar memory instructions, the link to the lane stream, pushes, fetches of work, control
registers, traps and the end of a group (R38, R41, R56, R63, R78, R135, R189, R192, R195, R197, R273, R390 to
R416). -/

namespace Sys2Proof.Machine

/-! ## Memory -/

/-- The thread number that stands for the scalar stream in a request. -/
def scalarThr : Nat := 32

/-- The address of SC.LD and SC.ST (R404). -/
def scalarAddr (g : Group) (a : SReg) (off : BitVec 8) : Dword := scal g a.toNat + BitVec.ofInt 64 (off.toInt * 8)

/-- A scalar memory access: ALIGN, then a fence that stands holds it, then the probe (R261, R401, R404). -/
def scalarMem (s : State) (g : Group) (x : Dword) (n : Need) (k : State → Found → State) : State :=
  if x.toNat % 8 ≠ 0 then trapScalar s g tAlign x.toNat
  else if fenced s g true then s
  else probeG s g false (asking n [(0, x.toNat)]) fun s fs =>
    match fs with
    | [] => s
    | y :: _ => k s y

/-- A request of the scalar stream for one dword. -/
def scalarReq (s : State) (g : Group) (y : Found) (kind : ReqKind) (ord : MOrd) (scope : Scope) (aop : AOp) (data cmp : Dword) : Req :=
  { (default : Req) with
    id := s.nextId, gid := g.gid, grid := g.grid, core := g.core, scalar := true, kind := kind, cls := clsDemand, line := y.pa / 64, rq := .own
    ord := ord, scope := scope, ok := y.ok, ty := .s64, sz := .full, aop := aop, asid := g.asid
    parts := [{ thr := scalarThr, va := dw y.va, pa := y.pa, size := 8, data := data, cmp := cmp }] }

/-- Whether a request of the scalar stream may be performed in its own step: no earlier acquire or same-kind
access of the stream, and no access of the core to the line, is unperformed. -/
def scalarFree (s : State) (g : Group) (y : Found) : Bool :=
  !acquireWaits s g true 0 y.ok && !lineBusy s g.core (y.pa / 64)

/-- Charge a scalar access, its home's write-backs and its port, where a slot is free for it (R27 to R29, R131). -/
def scalarCharge (s : State) (g : Group) (r : Req) : State × Bool :=
  if !slotsOk s g.core [r.line] || !sendable s [r.line] then (s, false)
  else
    let x := claim s (scalarWho g) clsDemand 64 (accessResources s noCore r.line ++ portResources s r)
    if x.2 then (atHome x.1 r.line, true) else x

/-- Reach the home of a scalar access, once its L1 has room for the line and the buffered stores that come first have gone
home; one that the core's L1 or its quad unit answers costs nothing (R28, R122, R123, R132). The line is then prepared,
and recalled where another holder has it dirty (R123, R124). -/
def scalarReach (s : State) (g : Group) (r : Req) : State × Bool :=
  let f := if sendsBuffer r then flushPaid s (scalarWho g) g.gid g.core (some r.line) else (s, true)
  let s := f.1
  if !f.2 || !roomFor s r then (s, false)
  else if l1Hit s r then (prepare s r, true)
  else
    let x := scalarCharge s g r
    if x.2 then
      let s := prepare x.1 r
      (if dirtyElsewhere s g.core r.line then recallLine s r.line else s, true)
    else x

/-- Whether a scalar access that the stack cache serves has to wait: for an access of the core to its line, for an earlier
acquire, or as a release for earlier accesses (R119, R141, R404). -/
def stackBusy (s : State) (g : Group) (y : Found) (rel : Bool) (scope : Scope) : Bool :=
  lineBusy s g.core (y.pa / 64) || acquireWaits s g true 0 y.ok || (rel && releaseWaits s g true 0 scope)

/-- Go on with a scalar access of the stack cache once its row has been fetched (R119). -/
def onFetched (s : State) (g : Group) (y : Found) (k : State → Group → State) : State :=
  let r := stackFetch s g (scalarWho g) [y.va]
  if r.2 then k r.1 ((findGroup r.1.groups g.gid).getD g) else r.1

/-- The result of a scalar load or atomic may still be on its way as the next instruction is met (R37, log 46). -/
def slowed (g : Group) : Group := { g with slow := true }

/-- The bytes that the stack cache serves of a load (R119). -/
def stackLoad (s : State) (g : Group) (d : SReg) (y : Found) (ord : MOrd) (scope : Scope) : State :=
  if stackBusy s g y false scope then s
  else onFetched s g y fun s g =>
    if stackPoison s g y.va y.pa 8 then consume s g 0 y.pa y.va needLoad.acc
    else
      let v := dw (stackNat s g y.va y.pa 8)
      scalarDoneElse s (if ord = .plain then s else acquireL1 s g.gid g.core scope) (slowed g) d v

/-- A store that the stack cache serves (R119). -/
def stackStore (s : State) (g : Group) (v : Dword) (y : Found) (ord : MOrd) (scope : Scope) : State :=
  if stackBusy s g y (ord != .plain) scope then s
  else onFetched s g y fun s g =>
    let r := if ord = .plain then (s, true) else releasePaid s (scalarWho g) (agentOf s g true 0) scope
    if r.2 then setG r.1 (nextSpc (stackPut g y.va (leBytes 8 v.toNat))) else r.1

/-- Perform a scalar load (R404), which finds no message of its core's own write under way (R170). A result that takes STACK
has no other effect (R9). -/
def loadNow (s : State) (g : Group) (d : SReg) (y : Found) (ord : MOrd) (scope : Scope) : State :=
  let r := scalarReq s g y .load ord scope .add 0 0
  if !scalarFree s g y || ownMsg s g.core r.line g.asid (y.va / 64) then s
  else
    let rd := scalarReach s g r
    let s := rd.1
    if !rd.2 then s
    else if poisoned s y.pa 8 then consume s g 0 y.pa y.va needLoad.acc
    else
      let x := serveLoad s r
      let v := (x.2.map Prod.snd).headD 0
      let t := advanceStreams x.1 g.core g.asid [y]
      scalarDoneElse s t (slowed ((findGroup t.groups g.gid).getD g)) d (dw v)

/-- SC.LD (R403, R404). -/
def execScLd (d a : SReg) (off : BitVec 8) (ord : MOrd) (scope : Scope) (s : State) : Host.Outcome State Fault Refusal :=
  .next (scalarIssue s [a, d] fun g =>
    scalarMem s g (scalarAddr g a off) needLoad fun s y =>
      if stackServes g y.va then stackLoad s g d y ord scope else loadNow s g d y ord scope)

/-- SC.ST: the store is a request of the scalar stream (R403, R404); a row of the stack cache is written
there (R119). -/
def execScSt (d a : SReg) (off : BitVec 8) (ord : MOrd) (scope : Scope) (s : State) : Host.Outcome State Fault Refusal :=
  .next (scalarIssue s [a, d] fun g =>
    scalarMem s g (scalarAddr g a off) needStore fun s y =>
      let v := scal g d.toNat
      if stackServes g y.va then stackStore s g v y ord scope
      else if !slotsOk s g.core [y.pa / 64] then s
      else
        let s := pushReq (setG s (nextSpc g)) (scalarReq s g y .store ord scope .add v 0)
        advanceStreams s g.core g.asid [y])

/-- Whether a scalar atomic has to wait: as a release for the stream's earlier accesses, but on a uo page, or behind a
release fence (R141, R142, R147). -/
def atomWaits (s : State) (g : Group) (y : Found) (scope : Scope) : Bool :=
  !scalarFree s g y || (y.ok != kindUo && releaseWaits s g true 0 scope) || writeFenced s (agentOf s g true 0) y.ok

/-- As a release a scalar atomic comes after the core's buffered stores have gone home, and, but on a uo page, after what they
sent has arrived (R123, R141, R142, R169). -/
def atomRelease (s : State) (g : Group) (y : Found) (scope : Scope) : State × Bool :=
  let r := flushPaid s (scalarWho g) g.gid g.core none
  (r.1, r.2 && (y.ok == kindUo || !releaseStands r.1 (agentOf r.1 g true 0) scope))

/-- Perform a scalar atomic (R394). For cas, d holds the comparand and b the new value. -/
def atomNow (s : State) (g : Group) (d b : SReg) (y : Found) (aop : AOp) (scope : Scope) : State :=
  let data := if aop = .cas then scal g d.toNat else scal g b.toNat
  let r := scalarReq s g y .atomic .sc scope aop data (scal g b.toNat)
  if atomWaits s g y scope then s
  else
    let spill := spillCharged s g (scalarWho g) fun va => va / 256 == y.va / 256
    let rel := if spill.2 then atomRelease spill.1 g y scope else spill
    let rd := if rel.2 then scalarReach rel.1 g r else rel
    let s := rd.1
    if !rd.2 then s
    else if poisoned s y.pa 8 then consume s g 0 y.pa y.va needAtomic.acc
    else
      let x := serveAtom s r
      let v := dw ((x.2.1.map Prod.snd).headD 0)
      let t := advanceStreams x.1 g.core g.asid [y]
      scalarDoneElse s t (slowed ((findGroup t.groups g.gid).getD g)) d v

/-- SC.ATOM (R393, R394). -/
def execScAtom (d a b : SReg) (aop : AOp) (scope : Scope) (s : State) : Host.Outcome State Fault Refusal :=
  .next (scalarIssue s [a, b, d] fun g =>
    scalarMem s g (scal g a.toNat) needAtomic fun s y => atomNow s g d b y aop scope)

/-- SC.FENCE: it takes its place in the scalar stream; a later scalar memory instruction waits until its
obligation is met (R147, R401). It waits until the core's buffered stores have gone home (R123). -/
def execScFence (m : FenceMod) (s : State) : Host.Outcome State Fault Refusal :=
  .next (scalarIssue s [] fun g =>
    let r := flushPaid s (scalarWho g) g.gid g.core none
    if r.2 then setG r.1 (nextSpc (addFence r.1 g true 0 m)) else r.1)

/-! ## The link to the lane stream -/

/-- Record an instruction-fetch fault, at which the group parks (R51, R262, R264). -/
def fetchFault (s : State) (g : Group) (va entry : Nat) (lane : Bool) : State :=
  let s := addFault s 3 4 g.asid (srcCore g.core) g.gid va [entry, if lane then 1 else 0, 0, 0]
    (some (.fetch g.gid lane)) (some g.grid) (dieOf s g.core)
  let g := if lane then { g with begun := some (g.begun.getD (g.resv, g.sregs)) } else g
  parkG s g (.probe 1) .none false

/-- A group whose stream freezes at a miss, which counts one schedule slip; what SC.LRUN reads of the registers stays as
it stood at its start (R38, R60). -/
def freeze (g : Group) (line : Nat) (lane : Bool) : Group :=
  if lane then
    { g with frozenL := true, missL := some line, slips := g.slips + 1
             begun := some (g.begun.getD (g.resv, g.sregs)) }
  else { g with frozenS := true, missS := some line, slips := g.slips + 1 }

/-- A block is fetched for the instruction cache that serves a core (R60, R125); the fetch is charged as demand as the step ends (R27, R28, log 48). -/
def codeFill (s : State) (core line : Nat) (here : Bool) : State := codePut (noteReads s [line]) core line here

/-- A stream misses in the instruction cache (R60). -/
def fetchMiss (s : State) (g : Group) (line : Nat) (lane : Bool) : State := setG s (freeze g line lane)

/-- A code page that is not resident is awaited as a miss is (R60, R406). -/
def fetchAway (s : State) (g : Group) (pa : Nat) (lane : Bool) : State :=
  addPageWait (fetchMiss s g (pa / 64) lane) (pageOf pa) (srcCore g.core) (.fetch g.gid lane) false

/-- SC.LRUN: every check of the run, then its instructions are enqueued while the queue has room; SPC passes it
when the last is enqueued. With the queue full before the first, it only waits (R38, R52, R273, R406). -/
def execScLrun (cnt : BitVec 5) (s : State) : Host.Outcome State Fault Refusal :=
  .next (scalarIssue s [] fun g =>
    let n := if g.lrem = 0 then cnt.toNat + 1 else g.lrem
    match gridOf s g with
    | none => s
    | some r =>
      if g.lpc.toNat % 4 ≠ 0 then trapScalar s g tIfetch g.lpc.toNat
      else match checkRun s (startG g) r.k n g.lpc.toNat (startG g).resv [] with
        | .miss l => fetchMiss s g l true
        | .illegal pc => takeTrap s g { code := tIllegal, info := 0, tlpc := dw pc }
        | .hazard x _ => takeTrap s g { code := tHazard, info := x.toNat }
        | .wait pa => fetchAway s g pa true
        | .bad va e => fetchFault s g va e true
        | .prot va => trapScalar s g tProt va
        | .far => s
        | .quar va pa => consume s g 3 pa va needFetch.acc
        | .ok es =>
          if !queueFree g then s
          else
            let g := enqueueAll { g with lrem := 0, begun := none } es
            setG s (if g.run = [] then nextSpc g else g))

/-- The blocks that a prefetch of `n` lines from a code address asks for: those of resident executable pages whose homes can
be reached (R23, R73, R407). -/
def prefetchCode (s : State) (g : Group) (va n : Nat) : State :=
  (List.range n).foldl (fun s k =>
    match look s g.asid (va + 64 * k) needFetch with
    | .ok pa _ => if sendable s [pa / 64] then codeFill s g.core (pa / 64) false else s
    | _ => s) s

/-- SC.LSET: LPC moves; a prefetch bears on the counting of schedule slips alone (R60, R73, R407). -/
def execScLset (off : BitVec 19) (pf : Bool) (cnt : BitVec 5) (s : State) : Host.Outcome State Fault Refusal :=
  .next (scalarIssue s [] fun g =>
    match gridOf s g with
    | none => s
    | some r =>
      let target := r.k.lentry + BitVec.ofInt 64 (off.toInt * 4)
      let s := setG s (nextSpc { g with lpc := target })
      if pf then prefetchCode s g target.toNat (cnt.toNat + 1) else s)

/-- Whether the lane stream is idle: the queue is empty and every lane instruction has retired (R41). -/
def laneIdle (g : Group) : Bool := g.queue.isEmpty && g.infl.isEmpty

/-- SC.LWAIT: the lane accesses made so far are linked into the scalar stream's program order (R41, R135, R408). -/
def execScLwait (s : State) : Host.Outcome State Fault Refusal :=
  .next (scalarIssue s [] fun g =>
    if laneIdle g then setG s (nextSpc { g with linked := s.nextId }) else s)

/-- SC.YIELD: the group is ready with a new age, behind the groups that become ready in the same tick, and unbound
(R61, R416). -/
def execScYield (s : State) : Host.Outcome State Fault Refusal :=
  .next (scalarIssue s [] fun g => setG s (nextSpc { readyG s.pkg.time g with yielded := true, pipe := none }))

/-! ## Pushes -/

/-- The record that sN to sN+7 hold (R189). -/
def pushRecord (g : Group) (n : Nat) : BitVec 512 :=
  BitVec.ofNat 512 (packElems 64 (tab 8 fun k => (scal g (n + k)).toNat))

/-- Fields of a launch record (R192). -/
def lnKdesc (d : BitVec 512) : Nat := nbits d.toNat 0 64
def lnGx (d : BitVec 512) : Nat := nbits d.toNat 64 16 + 1
def lnGy (d : BitVec 512) : Nat := nbits d.toNat 80 16 + 1
def lnGz (d : BitVec 512) : Nat := nbits d.toNat 96 16 + 1
def lnCg (d : BitVec 512) : Nat := nbits d.toNat 112 6
def lnArgs (d : BitVec 512) : Nat := nbits d.toNat 128 64
def lnCtr (d : BitVec 512) : Nat := nbits d.toNat 192 64
def lnCont (d : BitVec 512) : Nat := nbits d.toNat 256 64
def lnThresh (d : BitVec 512) : Nat := nbits d.toNat 320 32
def lnPrio (d : BitVec 512) : Nat := nbits d.toNat 384 2
def lnCores (d : BitVec 512) : Bool := d.getLsbD 386
def lnSbar (d : BitVec 512) : Bool := d.getLsbD 387

/-- The checks of a launch record (R192). -/
def launchOk (d : BitVec 512) : Bool :=
  let x := d.toNat
  nbits x 388 124 == 0 && !(lnSbar d && !lnCores d) && nbits x 352 32 == 0 && lnCont d % 64 == 0 && vaOk (lnCont d) &&
  lnCtr d % 8 == 0 && vaOk (lnCtr d) && vaOk (lnArgs d) && nbits x 118 10 == 0 && decide (lnCg d ≤ 32) &&
  lnKdesc d % 64 == 0 && vaOk (lnKdesc d)

/-- SC.PUSH to queue 2 (R55, R189, R192). -/
def pushLaunch (s : State) (g : Group) (d : BitVec 512) : State × Nat :=
  if !launchOk d then (s, 2)
  else if 4 ≤ (s.launches.filter fun l => l.gid == g.gid).length then (s, 1)
  else
    let q := ((gridOf s g).map (·.queue)).getD 0
    let l : Launch := { gid := g.gid, asid := g.asid, queue := q, die := dieOf s g.core, record := d }
    ({ s with launches := s.launches ++ [l] }, 0)

/-- The checks of a hint record (R195). -/
def hintOk (d : BitVec 512) : Bool :=
  let n := nbits d.toNat 0 64
  decide (1 ≤ n) && decide (n ≤ 7) && (List.range 8).all fun k => decide (k ≤ n) || nbits d.toNat (64 * k) 64 == 0

/-- The pages of a hint that still await the Gleaner, or their tables: those that are resident, unmapped or protected are
dropped (R23, R189, R195). -/
def hintPages (s : State) (asid : Nat) (d : BitVec 512) : List Nat :=
  (tab (nbits d.toNat 0 64) fun k => nbits d.toNat (64 * (k + 1)) 64 / 4096 * 4096).filter fun va =>
    match look s asid va needLoad with
    | .absent _ => true
    | .far => true
    | _ => false

/-- SC.PUSH to queue 3 (R189, R195). -/
def pushHint (s : State) (g : Group) (d : BitVec 512) : State × Nat :=
  if !hintOk d then (s, 2)
  else if 16 ≤ (s.hints.filter fun h => h.core == g.core).length then (s, 1)
  else match hintPages s g.asid d with
    | [] => (s, 0)
    | ps => ({ s with nextId := s.nextId + 1
                      hints := s.hints ++ [{ id := s.nextId, core := g.core, asid := g.asid, pages := ps }] }, 0)

/-- A push to one of the four queues: the status and the state (R189). -/
def pushTo (s : State) (g : Group) (q : Nat) (d : BitVec 512) : State × Nat :=
  match q with
  | 0 => pushMatrix s g d
  | 1 => pushCopy s g d
  | 2 => pushLaunch s g d
  | _ => pushHint s g d

/-- SC.PUSH: to queues 0 to 2 it is a release of the scalar stream's earlier accesses (R189, R411). -/
def execScPush (d a : SReg) (q : BitVec 2) (s : State) : Host.Outcome State Fault Refusal :=
  .next (scalarIssue s (tab 8 (fun k => a + BitVec.ofNat 6 k) ++ [d]) fun g =>
    if q ≠ 3 ∧ (fenced s g true || releaseWaits s g true 0 .pkg) then s
    else
      let w := if q = 3 then (s, true) else releasePaid s (scalarWho g) (agentOf s g true 0) .pkg
      if !w.2 then w.1
      else
        let r := pushTo w.1 g q.toNat (pushRecord g a.toNat)
        scalarDoneElse w.1 r.1 ((findGroup r.1.groups g.gid).getD g) d (dw r.2))

/-! ## Work items -/

/-- SC.FETCH (R56, R197, R402). -/
def execScFetch (d a : SReg) (s : State) : Host.Outcome State Fault Refusal :=
  .next (scalarIssue s [a, d] fun g =>
    let off := (scal g a.toNat).toInt
    match crewOf s g, gridOf s g with
    | some c, some r =>
      if off % 16 ≠ 0 then trapScalar s g tAlign (scal g a.toNat).toNat
      else if !inAlloc c off 16 then trapScalar s g tScratch (scal g a.toNat).toNat
      else if r.kind ≠ .persist then scalarDone s g d 2
      else if g.fetch.isSome then scalarDone s g d 1
      else
        let t := spadWrite s g.core (off.toNat + 12) (leBytes 4 0)
        let g := { (findGroup t.groups g.gid).getD g with fetch := some (off.toNat, t.nextId) }
        scalarDoneElse s { t with nextId := t.nextId + 1 } g d 0
    | _, _ => s)

/-! ## The end of a group -/

/-- Change a group wherever it is: on its core, or saved. -/
def mapGroup (s : State) (gid : Nat) (f : Group → Group) : State :=
  let one := fun (g : Group) => if g.gid = gid then f g else g
  { s with groups := s.groups.map one, saved := s.saved.map fun v => { v with groups := v.groups.map one } }

/-- A group wherever it is. -/
def anyGroup (s : State) (gid : Nat) : Option Group :=
  match findGroup s.groups gid with
  | some g => some g
  | none => s.saved.findSome? fun v => findGroup v.groups gid

/-- One handler thread of a group has exited without a bad verdict: with the last, the group resumes after its
instruction, or goes on to the marker (R44, R278). -/
def oneBack (time : Dword) (g : Group) : Group :=
  match g.park with
  | .lanes n mark =>
    if 1 < n then { g with park := .lanes (n - 1) mark }
    else if mark ∧ g.pend ≠ [] then { g with park := .marker }
    else readyG time { g with park := .none }
  | _ => g

/-- The verdict of an exited handler thread on its origin (R276, R278). -/
def verdict (s : State) (origin code : Nat) (bad : Bool) : State :=
  match anyGroup s origin with
  | none => s
  | some o =>
    if bad then abortGrid s o.grid (causeTrap code) (dieOf s o.core)
    else mapGroup s origin (oneBack s.pkg.time)

/-- The verdicts of a handler group's threads as it exits: bit 0 of v3 (R278). -/
def verdicts (s : State) (g : Group) : State :=
  (g.origins.zipIdx).foldl (fun s x => verdict s x.1.1 x.1.2 ((lane g 3 x.2).getLsbD 0)) s

/-- A group ends, its stack cache written back; the crew exits with its last group (R400). -/
def endGroup (s : State) (g : Group) : State :=
  let g := { (findGroup s.groups g.gid).getD g with ended := true, pipe := none, stack := [], rows := [] }
  let s := verdicts (setG s g) g
  match findCrew s g.grid g.crew with
  | none => s
  | some c =>
    if (crewGroups s g.grid g.crew).all (·.ended) then setCrew s { c with status := .exiting } else s

/-- Whether a group's memory accesses have all been performed. -/
def reqsDone (s : State) (gid : Nat) : Bool := s.reqs.all fun r => !(r.gid == gid && r.kind != .pref && decide (r.stage < 2))

/-- SC.EXIT: it waits for the lane stream, the group's accesses, its rays and an outstanding fetch, and until its stack cache
has been written back (R119, R400, R458, R459). -/
def execScExit (s : State) : Host.Outcome State Fault Refusal :=
  .next (scalarIssue s [] fun g =>
    if !laneIdle g || !reqsDone s g.gid || g.fetch.isSome || s.rays.any (fun r => r.gid == g.gid) then s
    else
      let spill := spillCharged s g (scalarWho g) fun _ => true
      if spill.2 then endGroup spill.1 { nextSpc ((findGroup spill.1.groups g.gid).getD g) with exiting := true }
      else spill.1)

/-! ## Control registers (R78) -/

/-- A tile shape register, and cr.tmask. -/
def isEngineReg (n : Nat) : Bool := (decide (0x100 ≤ n) && decide (n < 0x120)) || n == 0x140

/-- The value of a control register of a group; `none` for a number that names none (R78). -/
def csrValue (s : State) (g : Group) (n : Nat) : Option Dword :=
  if 0x100 ≤ n ∧ n < 0x120 then some ((engineFor s g).shapes.get 0 (n - 0x100))
  else match n with
    | 0x000 => some (dw g.gid)
    | 0x001 => some (dw g.crew)
    | 0x002 => some (dw g.grid)
    | 0x003 => some (dw g.core)
    | 0x004 => some (dw (quadOf g.core))
    | 0x005 => some (dw (dieOf s g.core))
    | 0x006 => some (dw g.asid)
    | 0x008 => some s.pkg.time
    | 0x009 => some g.slips
    | 0x010 => some (flagsWord g.fflags)
    | 0x011 => some g.fmtword
    | 0x012 => some (afflagsOf s g.asid)
    | 0x020 => some g.stkbase
    | 0x021 => some g.stklimit
    | 0x030 => some g.replay
    | 0x040 => some g.trapvec
    | 0x050 => some g.idemspc
    | 0x051 => some g.idemlpc
    | 0x060 => some (((gridOf s g).map (·.k.sentry)).getD 0)
    | 0x061 => some (((gridOf s g).map (·.k.lentry)).getD 0)
    | 0x070 => some (dw (((crewOf s g).map (·.crewPage)).getD 0))
    | 0x140 => some (engineFor s g).tmask
    | _ => none

/-- Registers that programs only read (R78). -/
def csrReadOnly (n : Nat) : Bool :=
  [0x000, 0x001, 0x002, 0x003, 0x004, 0x005, 0x006, 0x008, 0x020, 0x021, 0x030, 0x060, 0x061, 0x070].contains n

/-- The width of a writable register: bits above it are defined zero (R78, R79, R80, R103, R201). -/
def csrWidth (n : Nat) : Nat :=
  if n = 0x010 ∨ n = 0x012 then 5
  else if n = 0x011 then 32
  else if n = 0x140 then 2
  else if isEngineReg n then 16
  else 64

/-- SC.CSRR (R78, R202, R398); a result that takes STACK leaves the engine as it was (R9, R119). A read of cr.afflags waits behind a fence that stands (R152). -/
def execScCsrr (d : SReg) (num : BitVec 13) (s : State) : Host.Outcome State Fault Refusal :=
  .next (scalarIssue s [d] fun g =>
    let n := num.toNat
    match csrValue s g n with
    | none => trapScalar s g tIllegal 0
    | some v =>
      if isEngineReg n then
        if !engineFree s g then trapScalar s g tPriv n
        else scalarDoneElse s (setEngine s g.core (engineFor s g)) g d v
      else if n = 0x012 ∧ fenced s g true then s
      else scalarDone s g d v)

/-- Write a register that a group, or its address space, holds. -/
def csrPut (s : State) (g : Group) (n : Nat) (v : Dword) : State :=
  match n with
  | 0x009 => setG s (nextSpc { g with slips := v })
  | 0x010 => setG s (nextSpc { g with fflags := v.setWidth 5 })
  | 0x011 => setG s (nextSpc { g with fmtword := v })
  | 0x012 => setG (setAfflags s g.asid v) (nextSpc g)
  | 0x040 => setG s (nextSpc { g with trapvec := v })
  | 0x050 => setG s (nextSpc { g with idemspc := v, restarts := 0 })
  | 0x051 => setG s (nextSpc { g with idemlpc := v })
  | _ => s

/-- Write a register of the matrix engine, which the crew takes or holds; a write that changes cr.tmask.pair waits
until neither core of the pair has an unretired task (R202, R217). -/
def csrPutEngine (s : State) (g : Group) (n : Nat) (v : Dword) : State :=
  let m := engineFor s g
  let s := setEngine s g.core m
  if n = 0x140 then
    if v.getLsbD 0 ≠ m.tmask.getLsbD 0 ∧ pairBusy s g.core then setG s { g with pairWait := some v }
    else setG (setEngine s g.core { m with tmask := v }) (nextSpc g)
  else setG (setEngine s g.core { m with shapes := m.shapes.set 0 (n - 0x100) v }) (nextSpc g)

/-- SC.CSRW (R78 to R80, R201, R202, R217, R399). -/
def execScCsrw (a : SReg) (num : BitVec 13) (s : State) : Host.Outcome State Fault Refusal :=
  .next (scalarIssue s [a] fun g =>
    let n := num.toNat
    let v := scal g a.toNat
    if (csrValue s g n).isNone then trapScalar s g tIllegal 0
    else if csrReadOnly n then trapScalar s g tPriv n
    else if isEngineReg n && !engineFree s g then trapScalar s g tPriv n
    else if 2 ^ csrWidth n ≤ v.toNat then trapScalar s g tIllegal 0
    else if isEngineReg n then csrPutEngine s g n v
    else csrPut s g n v)

/-! ## Traps -/

/-- SC.TRAP with a code from 0 to 4095 (R271, R415). -/
def execScTrap (code : BitVec 13) (s : State) : Host.Outcome State Fault Refusal :=
  .next (scalarIssue s [] fun g => trapScalar s g tSwtrap code.toNat)

/-- An illegal scalar word, or a field that its entry marks zero (R70, R389). -/
def execIllegalScalarWord (w : Word) (s : State) : Host.Outcome State Fault Refusal :=
  .next (onG s fun g => if decodeScalar w = none then trapScalar s g tIllegal 0 else s)

/-- A scalar fetch from a page that is unmapped or lacks x (R51, R262). -/
def execScalarFetchFault (s : State) : Host.Outcome State Fault Refusal :=
  .next (onG s fun g =>
    match fetchUnit s g.core g.asid g.spc.toNat with
    | .bad e => fetchFault s g g.spc.toNat e false
    | _ => s)

/-- What the return finds in the header and the image. -/
structure Return where
  spc : Nat
  lpc : Nat
  lrem : Nat
  qn : Nat
  ssave : List Nat
  entries : List QEntry
  deriving DecidableEq, Repr, Inhabited

/-- The lines of the trap header and the queue image (R274, R275). -/
def returnLines (s : State) (g : Group) : List Nat := linesOf (firmPa s g.asid g.replay.toNat) 2304

/-- Read the trap header and the queue image (R274, R275). -/
def readReturn (s : State) (g : Group) : Return :=
  let pa := firmPa s g.asid g.replay.toNat
  let at8 := fun (o : Nat) => cohNat s (pa + o) 8
  let d3 := at8 24
  let qn := nbits d3 11 5
  let entry := fun (k : Nat) =>
    let b := 256 + 128 * k
    { addr := dw (at8 (b + 120)), pfx := BitVec.ofNat 32 (cohNat s (pa + b) 4)
      word := BitVec.ofNat 96 (cohNat s (pa + b + 4) 12), caps := tab 13 fun j => dw (at8 (b + 16 + 8 * j)) : QEntry }
  { spc := at8 40 / 4 * 4, lpc := at8 48, lrem := nbits (at8 0) 0 6, qn := qn
    ssave := tab 8 fun k => at8 (64 + 8 * k), entries := tab (min qn 16) entry }

/-- Check the image entries as SC.LRUN would, with HAZARD against the scalar destinations of those before (R275). -/
def checkImage (k : Kernel) : List QEntry → Dword → Option Nat
  | [], _ => none
  | q :: r, res =>
    match entryInstr q with
    | none => some tIllegal
    | some i =>
      match laneForm i with
      | none => some tIllegal
      | some (_, f) =>
        if !rowsOk k i then some tIllegal
        else if (namedScalars i f).any (inResv res) then some tHazard
        else if !valuesOk i f q.caps then some tIllegal
        else checkImage k r (match scalarDest i with | some d => res ||| resvBit d.toNat | none => res)

/-- The reservations that a queue's entries make (R275). -/
def imageResv (qs : List QEntry) : Dword :=
  qs.foldl (fun r q =>
    match (entryInstr q).bind scalarDest with
    | some d => r ||| resvBit d.toNat
    | none => r) 0

/-- Whether lrem agrees with the word at spc (R273). -/
def lremOk (lrem : Nat) (w : Word) : Bool :=
  lrem == 0 ||
  (match decodeScalar w with
   | some (.scLrun cnt) => decide (lrem < cnt.toNat + 1)
   | _ => false)

/-- The state of a group after the return (R273). -/
def returned (g : Group) (x : Return) : Group :=
  let g := (x.ssave.zipIdx).foldl (fun g v => setScal g (56 + v.2) (dw v.1)) g
  { g with spc := dw x.spc, lpc := dw x.lpc, offS := none, lrem := x.lrem, queue := x.entries, resv := imageResv x.entries
           handler := false }

/-- The checks of a return, and the return (R273, R275); a failed check makes the return itself trap. -/
def doReturn (s : State) (g : Group) (k : Kernel) (w : Word) : State :=
  let x := readReturn s g
  if 16 < x.qn ∨ 31 < x.lrem ∨ !lremOk x.lrem w then trapScalar s g tIllegal 0
  else if stackBad g (dw (x.ssave.getD 7 0)) then trapScalar s g tStack (x.ssave.getD 7 0)
  else match checkImage k x.entries 0 with
    | some code => trapScalar s g code 0
    | none => setG s (returned g x)

/-- Whether an access of the core to the header or the image is unperformed. -/
def replayBusy (s : State) (g : Group) : Bool :=
  (returnLines s g).any (lineBusy s g.core)

/-- SC.TRAP −1: outside handler mode it aborts the grid; else it waits as SC.LWAIT does, and returns (R273). -/
def execScTrapReturn (s : State) : Host.Outcome State Fault Refusal :=
  .next (onG s fun g =>
    if !g.handler then abortGrid s g.grid (causeTrap tIllegal) (dieOf s g.core)
    else if !laneIdle g || replayBusy s g then s
    else match gridOf s g with
      | none => s
      | some r =>
        let w := flushPaid s (scalarWho g) g.gid g.core none
        let s := w.1
        let x := readReturn s g
        if !w.2 || !reachable s (returnLines s g) then s
        else
        let s := noteReads s (returnLines s g)
        if x.lrem = 0 then doReturn s g r.k 0
        else match fetchUnit s g.core g.asid x.spc with
          | .word w => doReturn s g r.k w
          | .miss l => fetchMiss s g l false
          | .away pa => fetchAway s g pa false
          | .bad e => fetchFault s g x.spc e false
          | .prot => trapScalar s g tProt x.spc
          | .far => s
          | .quar pa => consume s g 3 pa x.spc needFetch.acc)

end Sys2Proof.Machine
end

