-- ==== Sys2Proof/Machine/Traversal.lean ====
section
/-! DEFINITION. The traversal engine: contexts and layouts, the program store, TRACE, the state of a ray, faults
and records, and the end of a ray (R222 to R244, R444). -/

namespace Sys2Proof.Machine

/-! ## Contexts and layouts (R226, R227) -/

/-- A trace context: budget, program, layouts. -/
structure TraceCtx where
  budget : Nat
  prog : Nat
  lay0 : Nat
  lay1 : Nat
  deriving DecidableEq, Repr, Inhabited

/-- Read the fields of a trace context (R226). -/
def ctxOf (x : Nat) : Option TraceCtx :=
  let c : TraceCtx := { budget := if nbits x 0 24 = 0 then 2 ^ 24 else nbits x 0 24, prog := nbits x 64 64
                        lay0 := nbits x 128 64, lay1 := nbits x 192 64 }
  if nbits x 256 256 = 0 ∧ nbits x 24 40 = 0 ∧ c.prog % 1024 = 0 ∧ vaOk c.prog ∧ c.lay0 ≠ 0 ∧ c.lay0 % 32 = 0 ∧
    vaOk c.lay0 ∧ c.lay1 % 32 = 0 ∧ vaOk c.lay1 then some c else none

/-- Read and check a layout descriptor (R227). -/
def layoutOf (x : Nat) : Option Layout :=
  let n := nbits x 128 8
  let l : Layout := { base := nbits x 0 64, bsize := nbits x 64 40, nsz := 16 * n, choff := nbits x 136 8
                      boxoff := nbits x 144 8, cntoff := nbits x 152 8, width := nbits x 160 3 + 1
                      benc := x.testBit 167, qoff := nbits x 168 8 }
  if nbits x 176 80 = 0 ∧ (!l.benc || decide (l.qoff + 15 ≤ l.nsz)) ∧ nbits x 163 4 = 0 ∧ l.cntoff < l.nsz ∧
    l.boxoff + (if l.benc then 6 else 24) * l.width ≤ l.nsz ∧ l.choff + 4 * l.width ≤ l.nsz ∧ 2 ≤ n ∧ n ≤ 16 ∧
    nbits x 104 24 = 0 ∧ l.base % 64 = 0 ∧ vaOk l.base then some l else none

/-- The number of an address of one page, through a translation that passed its probe. -/
def vaNat (s : State) (asid va n : Nat) : Nat :=
  match leafOf s asid va with
  | .leaf l e => cohNat s (leafPa va l e) n
  | .bad _ _ => 0

/-- The pool address of an address, through a translation that passed its probe. -/
def vaPa (s : State) (asid va : Nat) : Nat :=
  match leafOf s asid va with
  | .leaf l e => leafPa va l e
  | .bad _ _ => 0

/-- Whether bytes at an address are poisoned. -/
def vaPoison (s : State) (asid va n : Nat) : Bool :=
  match leafOf s asid va with
  | .leaf l e => poisoned s (leafPa va l e) n
  | .bad _ _ => false

/-- What a context and its descriptors come to: `none` is BADCTX (R226). -/
def readLayouts (s : State) (asid : Nat) (c : TraceCtx) : Option (Layout × Option Layout) :=
  match layoutOf (vaNat s asid c.lay0 32) with
  | none => none
  | some l0 =>
    if c.lay1 = 0 then some (l0, none)
    else (layoutOf (vaNat s asid c.lay1 32)).map fun l1 => (l0, some l1)

/-- What a context names that a probe covers: descriptors with rd and the program with x (R226). -/
def ctxAsked (thr : Nat) (c : TraceCtx) : List Asked :=
  asking needLoad ((thr, c.lay0) :: (if c.lay1 = 0 then [] else [(thr, c.lay1)])) ++ asking needFetch [(thr, c.prog)]

/-- The virtual pages of a context and of what it names (R226). -/
def ctxPages (ctx : Dword) (c : TraceCtx) : List Nat := addRows [ctx.toNat / 4096] ((ctxAsked 0 c).map fun a => a.va / 4096)

/-! ## The program store (R223) -/

/-- Rays of a core's engine. -/
def slotRays (s : State) (core : Nat) : List Ray := s.rays.filter fun r => r.stage == .slot core

/-- Whether a slot's program is used by a ray of its engine. -/
def slotUsed (s : State) (p : ProgSlot) : Bool :=
  (slotRays s p.core).any fun r => r.prog == p.addr && r.asid == p.asid

/-- The slots of a core's store. -/
def coreProgs (s : State) (core : Nat) : List ProgSlot := s.progs.filter fun p => p.core == core

/-- The least recently used of a list of slots. -/
def oldestSlot (ps : List ProgSlot) : Option ProgSlot :=
  ps.foldl (fun o p => match o with | none => some p | some q => if p.used < q.used then some p else some q) none

/-- Whether a program is held, or can be loaded (R223). -/
def progRoom (s : State) (core asid : Nat) (addr : Dword) : Bool :=
  let ps := coreProgs s core
  ps.any (fun p => p.asid == asid && p.addr == addr) || decide (ps.length < 4) || ps.any fun p => !slotUsed s p

/-- Hold a program: it is loaded when the store does not hold it (R223). A slot counts as used when a TRACE or a resumed ray
names its program, and one that no ray uses still holds what it loaded (DESIGN CHOICE, log 59). -/
def holdProg (s : State) (core asid : Nat) (addr : Dword) : State :=
  let ps := coreProgs s core
  let stamp := s.nextId
  if ps.any fun p => p.asid == asid && p.addr == addr then
    { s with nextId := stamp + 1, progs := s.progs.map fun p =>
        if p.core = core ∧ p.asid = asid ∧ p.addr = addr then { p with used := stamp } else p }
  else
    let gone := if ps.length < 4 then none else oldestSlot (ps.filter fun p => !slotUsed s p)
    let keep := s.progs.filter fun p => some p != gone
    let new : ProgSlot := { core := core, asid := asid, addr := addr, used := stamp
                            words := tab 256 fun k => BitVec.ofNat 32 (vaNat s asid (addr.toNat + 4 * k) 4) }
    { s with nextId := stamp + 1, progs := new :: keep }

/-- What the engine of a core reads for a context beside the context itself: the descriptors, and the program when its
store does not hold it (R223, R226). -/
def ctxReads (s : State) (core asid : Nat) (c : TraceCtx) : List (Nat × Nat) :=
  (c.lay0, 32) :: (if c.lay1 = 0 then [] else [(c.lay1, 32)]) ++
  (if (coreProgs s core).any (fun p => p.asid == asid && p.addr == dw c.prog) then [] else [(c.prog, 1024)])

/-- The first poisoned address among some ranges. -/
def firstPoison (s : State) (asid : Nat) (rs : List (Nat × Nat)) : Option Nat :=
  (List.find? (fun (r : Nat × Nat) => vaPoison s asid r.1 r.2) rs).map Prod.fst

/-- The lines of some ranges, each in one page, with the kind of the page. -/
def rangeKinds (s : State) (asid : Nat) (rs : List (Nat × Nat)) : List (Nat × Nat) :=
  (rs.flatMap fun r => (linesOf (vaPa s asid r.1) r.2).map fun l => (l, kindAt s asid r.1)).eraseDups

/-- The pool lines of some ranges, each in one page, that a core's L1 does not hold. -/
def rangeLines (s : State) (core asid : Nat) (rs : List (Nat × Nat)) : List Nat :=
  ((rs.flatMap fun r => linesOf (vaPa s asid r.1) r.2).eraseDups).filter fun l => !inL1 s core l

/-! ## The ray -/

def findRay (s : State) (id : Nat) : Option Ray := s.rays.find? fun r => r.id == id
def setRay (s : State) (r : Ray) : State := { s with rays := s.rays.map fun x => if x.id = r.id then r else x }

/-- Statuses of an ended ray (R235). -/
def rsMiss : Nat := 0
def rsHit : Nat := 1
def rsSteps : Nat := 2
def rsBounds : Nat := 3
def rsBadop : Nat := 4
def rsBadctx : Nat := 5
def rsFault : Nat := 6
def rsPoison : Nat := 7

/-- The miss values (R234), in the order t, prim, u, v, inst, user. -/
def missHit : List Word := [0x7F800000, 0xFFFFFFFF, 0, 0, 0xFFFFFFFF, 0]

/-- The four rows of a delivered hit record (R234). -/
def hitRows (r : Ray) (status : Nat) : List Dword :=
  let h := fun (k : Nat) => (r.hit.getD k 0).toNat
  let fl := r.flags.toNat ||| (if r.ispace then 4 else 0)
  [dw (h 1 * 2 ^ 32 + h 0), dw (h 3 * 2 ^ 32 + h 2), dw (h 5 * 2 ^ 32 + h 4),
   dw (min r.steps (2 ^ 24 - 1) * 2 ^ 32 + fl * 2 ^ 8 + status)]

/-- The values of a hit record put into the record of its TRACE, and of the first poison what the entry of its consumption
reports: source, cause, pool address and address (R241, R242, R264). -/
def fillTrace (r : Ray) (rows : List Dword) (status : Nat) (why : List Dword) (i : Inflight) : Inflight :=
  if i.id = r.infl then
    { i with needs := i.needs - 1, aux := if status = rsPoison then 1 else i.aux
             caps := if status = rsPoison ∧ i.aux ≠ 1 then why else i.caps
             writes := ((rows.zipIdx).foldl (fun c v => Cells.put c (32 * (r.dst + v.2) + r.thr) v.1) i.writes) }
  else i

/-- A ray ends: its hit record is delivered, and a saved ray's goes through the trace result slot (R234, R242). -/
def endRay (s : State) (r : Ray) (status : Nat) (why : List Dword := []) : State :=
  let rows := hitRows r status
  let s := { s with rays := s.rays.filter fun x => x.id ≠ r.id }
  let s := match findGroup s.groups r.gid with
    | none => s
    | some g =>
      if r.flags.getLsbD 1 then
        sliceWrite s (firmPa s g.asid (g.replay.toNat + 4096) + 128 + 32 * r.thr) (rows.flatMap fun v => leBytes 8 v.toNat)
      else s
  mapGroup s r.gid fun g => { g with infl := g.infl.map (fillTrace r rows status why) }

/-- A ray ends with POISON, met by the engine of a core, with the cause and the place of the entry (R24, R241, R282). -/
def endPoison (s : State) (r : Ray) (core cause pa va : Nat) : State :=
  endRay s r rsPoison [dw (srcTraversal core), dw cause, dw pa, dw va]

/-- Words laid out from a bit up. -/
def wordsAt (lo : Nat) (ws : List Word) : Nat := 2 ^ lo * packElems 32 (ws.map (·.toNat))

/-- The ray-state record (R237). -/
def rayRecord (s : State) (r : Ray) : Nat :=
  s.pkg.time.toNat + 2 ^ 64 * r.nidx.toNat + 2 ^ 96 * r.cond.toNat + 2 ^ 104 * r.flags.toNat + 2 ^ 112 * r.depth +
  2 ^ 120 * r.stack.length + (if r.lsel then 2 ^ 130 else 0) + 2 ^ 131 * r.win + (if r.ispace then 2 ^ 133 else 0) +
  2 ^ 136 * r.pc.toNat + 2 ^ 144 * (r.budget % 2 ^ 24) + 2 ^ 168 * r.steps + 2 ^ 197 * r.dst +
  2 ^ 208 * (r.issuer % 2048) + 2 ^ 219 * r.thr + 2 ^ 224 * (r.gid % 2 ^ 32) + 2 ^ 256 * r.ctx.toNat +
  2 ^ 320 * r.prog.toNat + wordsAt 384 r.hit + wordsAt 576 r.wray +
  wordsAt 768 (r.org ++ [r.tmin] ++ r.dir ++ [r.tmax]) + wordsAt 1024 r.m + 2 ^ 1536 * leNat r.buf

/-- Bytes of a thread's record with its stack, rounded up (R237). -/
def raySize (depth : Nat) : Nat := (256 + 8 * depth + 63) / 64 * 64

/-- Write bytes into a group's firmware-mapped replay area, line by line (R268). -/
def replayWrite (s : State) (g : Group) (off : Nat) (bs : List Byte) : State :=
  let va := g.replay.toNat + off
  (linesOf va bs.length).foldl (fun s l =>
    let lo := max va (64 * l)
    sliceWrite s (firmPa s g.asid lo) ((bs.drop (lo - va)).take (64 * l + 64 - lo))) s

/-- Save a ray: the record and the stack go to the ray area, and the slot is free (R237, R238). -/
def saveRay (s : State) (r : Ray) (left : Nat) : State :=
  let r := { r with flags := r.flags ||| 2, stage := if left = 0 then .ready else .saved left }
  let s := setRay s r
  match findGroup s.groups r.gid with
  | none => s
  | some g =>
    replayWrite s g (5248 + r.thr * raySize r.depth)
      (leBytes 256 (rayRecord s r) ++ r.stack.flatMap fun e => leBytes 8 e.toNat)

/-! ## f32 values -/

/-- `round(f32, x, rm)` of a value of the extended reals; a zero is +0, an exact sum of several −0 among them, of which R93 says
nothing (DESIGN CHOICE, log 65), and a NaN canonical. -/
def rndF (rm : Rm) (v : Val) : Word :=
  if v.isZero then 0 else BitVec.ofNat 32 (convF .f32 rm true v).1

def valF (w : Word) : Val := dec .f32 w.toNat

/-- The inverse of a direction component (R224). -/
def invF (w : Word) : Word :=
  match valF w with
  | .nan _ => 0x7FC00000
  | .inf neg => BitVec.ofNat 32 (signBit .f32 neg)
  | .fin neg q =>
    if q.isZero then BitVec.ofNat 32 (signBit .f32 neg + Fmt.infBits .f32) else rndF .rne (.fin neg ((Q.int 1).div q))

/-- Whether a word is an f32 NaN. -/
def isNanF (w : Word) : Bool := (valF w).isNan

/-! ## TRACE (R225, R233, R444) -/

/-- A new ray of a thread (R225). -/
def newRay (g : Group) (f : LaneForm) (t id infl : Nat) (ctx : Dword) (depth : Nat) : Ray :=
  let w := fun (k h : Nat) => ((lane g (f.a.toNat + k) t) >>> (32 * h)).setWidth 32
  let dir := [w 2 0, w 2 1, w 3 0]
  { id := id, gid := g.gid, thr := t, issuer := g.core, infl := infl, dst := f.d.toNat, ctx := ctx, prog := 0
    asid := g.asid, lay0 := default, lay1 := none, m := [w 4 0, w 4 1] ++ List.replicate 14 0
    org := [w 0 0, w 0 1, w 1 0], dir := dir, tmin := w 1 1, tmax := w 3 1, inv := dir.map invF
    wray := List.replicate 6 0, ispace := false, buf := [], nidx := 0xFFFFFFFF, win := 0, lsel := false, cond := 0
    hit := missHit, committed := false, pc := 0, steps := 0, budget := 0, stack := [], depth := depth, flags := 0
    stage := .slot g.core, kill := false, bad := false, vpages := [] }

/-- Whether any of a ray's eight fields is a NaN. -/
def rayNan (r : Ray) : Bool := (r.org ++ r.dir ++ [r.tmin, r.tmax]).any isNanF

/-- Start the rays of a TRACE whose probe has passed: with no context in order, every ray ends with BADCTX; a ray
with a NaN field ends with MISS (R225). -/
def startRays (s : State) (g : Group) (q : QEntry) (f : LaneForm) (act : List Nat) (ctx : Dword)
    (c : Option (TraceCtx × Layout × Option Layout)) : State :=
  let infl := s.nextId
  let depth := ((gridOf s g).map (·.k.raydepth)).getD 0
  let i : Inflight := { newInfl s g q f .trace (rowsFrom f.d.toNat 4) with needs := act.length }
  let s := enterPending s g f act i
  let base := s.nextId
  let rays := (act.zipIdx).map fun t =>
    let r := newRay g f t.1 (base + t.2) infl ctx depth
    match c with
    | none => r
    | some x => { r with prog := dw x.1.prog, budget := x.1.budget, lay0 := x.2.1, lay1 := x.2.2, vpages := ctxPages ctx x.1 }
  let s := { s with nextId := base + act.length, rays := s.rays ++ rays }
  rays.foldl (fun s r =>
    if c.isNone then endRay s r rsBadctx else if rayNan r then endRay s r rsMiss else s) s

/-- The number of free ray slots of a core's engine (R233). -/
def freeSlots (s : State) (core : Nat) : Nat := 256 - (slotRays s core).length

/-- Cores of the enabled units. -/
def allCores (s : State) : List Nat := List.range (4 * s.pkg.quads.length)

/-- How near a core is to the core of a ray's group. -/
def nearness (s : State) (home core : Nat) : Nat :=
  if core = home then 0 else if quadOf core = quadOf home then 1 else if dieOf s core = dieOf s home then 2 else 3

/-- Whether an engine can take a ready ray. -/
def canTake (s : State) (r : Ray) (core : Nat) : Bool := decide (freeSlots s core ≠ 0) && progRoom s core r.asid r.prog

/-- The core that takes a ready ray when those before it have taken theirs: the nearest with a slot left, and of equally
near ones the asking core (R240). -/
def takerOf (s : State) (asking : Nat) (r : Ray) (taken : List Nat) : Option Nat :=
  match findGroup s.groups r.gid with
  | none => none
  | some g =>
    let near := fun (c : Nat) => 2 * nearness s g.core c + (if c = asking then 0 else 1)
    ((allCores s).filter fun c => canTake s r c && decide (taken.count c < freeSlots s c)).foldl
      (fun o c => match o with | none => some c | some b => if near c < near b then some c else o) none

/-- How many ready rays take a slot of a core's engine ahead of a new TRACE (R233, R240, R244). -/
def resumeFirst (s : State) (core : Nat) : Nat :=
  let taken := (s.rays.filter fun r => r.stage == .ready).foldl (fun t r => t ++ (takerOf s core r t).toList) []
  taken.count core

/-- TRACE: ALIGN, the probe of the context and of what it names, the reads of the context, then a slot for every
active thread and for the program (R223, R225, R226, R233). Its accesses follow every access that precedes it
(R156). Poison that the engine reads there is consumed with its source (R24, R282). -/
def execTrace (f : LaneForm) (s : State) : Host.Outcome State Fault Refusal :=
  .next (laneExec s (.trace f) fun g q =>
    match actives g q f with
    | [] => enterIdle s g f (rowsFrom f.d.toNat 4) none
    | u :: r =>
      let act := u :: r
      let x := opdDword g q 1 f.c u
      if x.toNat % 64 ≠ 0 then trapLane s g tAlign x.toNat u
      else if fenced s g false || s.rays.any (fun r => r.gid == g.gid) ||
        freeSlots s g.core < act.length + resumeFirst s g.core ||
        outstanding s g false (maskOf act) (fun _ => true) || engineReads s g.gid (maskOf act) s.nextId ||
        writesOnWay s g (maskOf act) then s
      else spilled s g (fun _ => true) fun s g => probeG s g true (asking needLoad [(u, x.toNat)]) fun s fs =>
        let rd := readWords s g (maskOf act) (fs.flatMap fun y => (linesOf y.pa 64).map fun l => (l, y.ok)) .sys
        if !rd.2 then rd.1
        else if vaPoison rd.1 g.asid x.toNat 64 then
          consumeAt rd.1 g (srcTraversal g.core) 2 (vaPa rd.1 g.asid x.toNat) x.toNat needLoad.acc
        else match ctxOf (vaNat rd.1 g.asid x.toNat 64) with
          | none =>
            let w := flushPaid rd.1 (laneWho g) g.gid g.core none
            if w.2 && !writesOnWay w.1 g (maskOf act) then startRays w.1 g q f act x none else w.1
          | some c => probeG rd.1 g true (asking needLoad [(u, x.toNat)] ++ ctxAsked u c) fun s _ =>
            let reads := ctxReads s g.core g.asid c
            let rd := readWords s g (maskOf act) (rangeKinds s g.asid reads) .sys
            let w := if rd.2 then flushPaid rd.1 (laneWho g) g.gid g.core none else rd
            let s := w.1
            if !w.2 || writesOnWay s g (maskOf act) then s
            else
              match firstPoison s g.asid reads with
              | some va => consumeAt s g (srcTraversal g.core) 2 (vaPa s g.asid va) va needLoad.acc
              | none => match readLayouts s g.asid c with
                | none => startRays s g q f act x none
                | some l =>
                  if !progRoom s g.core g.asid (dw c.prog) then s
                  else startRays (holdProg s g.core g.asid (dw c.prog)) g q f act x (some (c, l)))

/-! ## Resumption (R240) -/

/-- The addresses that a resuming ray reads, with what failed of them. -/
def resumeMisses (s : State) (r : Ray) : List (Asked × Hit) :=
  let first := misses s r.asid (asking needLoad [(r.thr, r.ctx.toNat)])
  if first ≠ [] then first
  else match ctxOf (vaNat s r.asid r.ctx.toNat 64) with
    | none => []
    | some c => misses s r.asid (ctxAsked r.thr { c with prog := r.prog.toNat })

/-- Report what a ray waits for, with the source of a core's engine. -/
def rayReport (s : State) (r : Ray) (core : Nat) (ms : List (Asked × Hit)) : State :=
  let grid := (anyGroup s r.gid).map (·.grid)
  reportEach s r.asid (srcTraversal core) r.gid (.ray r.id) grid (dieOf s core) ms

/-- Each field of a layout, old or new by a free choice: a program may have rewritten it meanwhile (R240, log 6). -/
def mixLayout (draw : Nat) (old new : Layout) : Layout :=
  let pick := fun (i a b : Nat) => if Config.freeBool (draw + i) then a else b
  { base := pick 0 old.base new.base, bsize := pick 1 old.bsize new.bsize, nsz := pick 2 old.nsz new.nsz
    choff := pick 3 old.choff new.choff, boxoff := pick 4 old.boxoff new.boxoff, cntoff := pick 5 old.cntoff new.cntoff
    width := pick 6 old.width new.width, benc := if Config.freeBool (draw + 7) then old.benc else new.benc
    qoff := pick 8 old.qoff new.qoff }

/-- The second layout, when the descriptors are read again: both readings mix; else one of them stands (R240). -/
def mixSecond (draw : Nat) (old new : Option Layout) : Option Layout :=
  match old, new with
  | some a, some b => some (mixLayout draw a b)
  | none, none => none
  | _, _ => if Config.freeBool draw then old else new

/-- The program of a resuming ray: its own, or the one that the context names now (R240). -/
def resumeProg (s : State) (r : Ray) : Dword :=
  match ctxOf (vaNat s r.asid r.ctx.toNat 64) with
  | some c => if Config.freeBool (s.draws + 19) then r.prog else dw c.prog
  | none => r.prog

/-- The ranges that a resuming ray's engine reads (R240). -/
def resumeReads (s : State) (r : Ray) (core : Nat) : List (Nat × Nat) :=
  (r.ctx.toNat, 64) ::
  (match ctxOf (vaNat s r.asid r.ctx.toNat 64) with
   | some c => ctxReads s core r.asid { c with prog := r.prog.toNat }
   | none => [])

/-- The demand traffic of some ranges that an engine of a core reads through its L1 (R27, R131). -/
def rangeReach (s : State) (core asid : Nat) (who : Asker) (rs : List (Nat × Nat)) : State × Bool :=
  match rangeLines s core asid rs with
  | [] => (s, true)
  | ls => reachCore s core who clsDemand ls

/-- What the re-reading of a resuming ray stops at (R241, R268, R282): a device-only page is answered as trap, a
quarantined one is consumed, and else its pages are awaited. -/
def resumeStop (s : State) (r : Ray) (core : Nat) (ms : List (Asked × Hit)) : State :=
  if ms.any fun m => m.2 == .far then s
  else if ms.any fun m => m.2 == .devOnly then endRay s r rsFault
  else match ms.findSome? fun m => match m.2 with | .quar pa => some (pa, m.1.va) | _ => none with
    | some x => endPoison s r core 3 x.1 x.2
    | none =>
      let w := awaited ms
      setRay (rayReport s r core w) { r with stage := .saved w.length }

/-- A ray resumes in a slot: the context and descriptors are read again, and of a field rewritten meanwhile either
value counts (R240). A context that is no longer valid ends the ray with BADCTX, unless its old fields count. -/
def resumeIn (s : State) (r : Ray) (core : Nat) : State :=
  let c := ctxOf (vaNat s r.asid r.ctx.toNat 64)
  let pages := match c with | some c => ctxPages r.ctx { c with prog := r.prog.toNat } | none => [r.ctx.toNat / 4096]
  let r1 := { r with stage := .slot core, inv := r.dir.map invF, vpages := pages }
  let s1 := holdProg s core r.asid r.prog
  match c, c.bind (readLayouts s r.asid) with
  | some c, some l =>
    setRay { s1 with draws := s1.draws + 20 }
      { r1 with budget := if Config.freeBool s.draws then r.budget else c.budget
                lay0 := mixLayout (s.draws + 1) r.lay0 l.1, lay1 := mixSecond (s.draws + 10) r.lay1 l.2 }
  | _, _ =>
    if Config.freeBool s.draws then setRay { s1 with draws := s1.draws + 20 } r1
    else endRay { s with draws := s.draws + 20 } r rsBadctx

/-- RAY_RESUME: the nearest engine that can take a ready ray of a resident crew takes it, even where its die has
used up its energy: its TRACE is in flight (R30, R240). A ray whose fault the driver answered with trap ends with FAULT (R241). -/
def execRayResume (ray core : Nat) (s : State) : Host.Outcome State Fault Refusal :=
  .next (match findRay s ray with
    | none => s
    | some r =>
      match findGroup s.groups r.gid with
      | none => s
      | some g =>
        if r.stage ≠ .ready ∨ !s.pkg.up then s
        else if r.kill then endRay s r rsFault
        else
          let n := { r with prog := resumeProg s r }
          if !(allCores s).contains core || !canTake s n core ||
            (allCores s).any (fun c => decide (nearness s g.core c < nearness s g.core core) && canTake s n c) then s
          else match resumeMisses s n with
            | m :: ms => resumeStop s r core (m :: ms)
            | [] =>
              let reads := resumeReads s n core
              let x := rangeReach s core r.asid (.ray r.id) reads
              if !x.2 then x.1
              else match firstPoison x.1 r.asid reads with
                | some va => endPoison x.1 r core 2 (vaPa x.1 r.asid va) va
                | none => resumeIn x.1 n core)

/-! ## Steps -/

/-- Run a micro-instruction of the ray whose turn it is; with no such ray in a slot nothing changes (log 2). The engine
computes with poisoned storage of the ray: the ray ends with POISON (R241, R282). -/
def onRay (s : State) (f : Ray → Nat → State) : State :=
  match findRay s s.curRay with
  | none => s
  | some r => match r.stage with
    | .slot core => if r.bad then endPoison s r core 2 0 0 else f r core
    | _ => s

/-- A micro-instruction has executed: it counts one step (R236). -/
def counted (r : Ray) : Ray := { r with steps := r.steps + 1 }

/-- It has executed, and the ray goes on at the next one (R427). -/
def stepOn (s : State) (r : Ray) : State := setRay s { counted r with pc := r.pc + 1 }

/-- It has executed, and the ray ends (R236). -/
def stepEnd (s : State) (r : Ray) (status : Nat) : State := endRay s (counted r) status

/-- The status of a ray that ends as TR.END ends it (R435). -/
def endStatus (r : Ray) : Nat := if r.committed then rsHit else rsMiss

/-- A field of the buffer at a byte offset of the buffer (R229, R427). -/
def bufField (r : Ray) (off n : Nat) : Option Nat :=
  if r.nidx = 0xFFFFFFFF ∨ r.buf.length < off + n then none else some (leNat ((r.buf.drop off).take n))

/-- A field at a node offset: window w holds the node from byte 64 w on (R229). -/
def nodeField (r : Ray) (off n : Nat) : Option Nat :=
  if off < 64 * r.win then none else bufField r (off - 64 * r.win) n

/-- The layout that a selector names; an absent layout 1 holds no node (R227). -/
def layoutAt (r : Ray) (lay : Bool) : Option Layout := if lay then r.lay1 else some r.lay0

/-- The layout of the node in the buffer. -/
def bufLayout (r : Ray) : Layout := (layoutAt r r.lsel).getD default

/-- Set one condition bit. -/
def setCond (r : Ray) (b : BitVec 3) (v : Bool) : Ray :=
  let m : BitVec 8 := 1 <<< b.toNat
  { r with cond := if v then r.cond ||| m else r.cond &&& ~~~m }

/-- RAY_STEP_BUDGET_EXHAUSTED (R236). -/
def execRayStepBudgetExhausted (ray : Nat) (s : State) : Host.Outcome State Fault Refusal :=
  .next (match findRay s ray with
    | none => s
    | some r => match r.stage with
      | .slot _ => if r.budget ≤ r.steps then endRay s r rsSteps else s
      | _ => s)

/-- An undefined micro-opcode, a nonzero reserved bit, or a fill word (R74, R222). -/
def execUndefinedMicroOpcode (w : Word) (s : State) : Host.Outcome State Fault Refusal :=
  .next (onRay s fun r _ => if decodeMicro w = none then stepEnd s r rsBadop else s)

/-! ## TR.LDN (R229, R238, R239, R241) -/

/-- The pages of a node that hints name, by their first addresses in the node. -/
def nodeVas (l : Layout) (i : Nat) : List Nat :=
  let lo := l.base + i * l.nsz
  let hi := lo + l.nsz - 1
  if lo / 4096 = hi / 4096 then [lo] else [lo, hi / 4096 * 4096]

/-- The child pointers that the buffer holds, of its first count children (R239); with the count outside the loaded window,
none (DESIGN CHOICE, log 60). -/
def bufChildren (r : Ray) : List Nat :=
  let l := bufLayout r
  match nodeField r l.cntoff 1 with
  | none => []
  | some n => (List.range (min n l.width)).filterMap fun c => nodeField r (l.choff + 4 * c) 4

/-- The pages of the neighbour hints of a faulting TR.LDN: those of the nodes that its children name, without pages
outside the buffer, the faulting pages and repeats, and at most 7 (R239). -/
def neighbourPages (r : Ray) (l : Layout) (idx : Nat) (bad : List Nat) : List Nat :=
  let kids := (bufChildren r).filter fun p => p ≠ 0xFFFFFFFF ∧ p % 2 ^ 31 ≠ idx
  let ps := (kids.flatMap fun p => nodeVas l (p % 2 ^ 31)).map (· / 4096)
  let inside := fun (p : Nat) => decide (l.base < 4096 * p + 4096) && decide (4096 * p < l.base + l.bsize)
  ((ps.filter fun p => inside p && !bad.contains p).eraseDups).take 7

/-- The pool pages of the hints: an unmapped or protected one is dropped (R239). -/
def hintPoolPages (s : State) (r : Ray) (l : Layout) (idx : Nat) (bad : List Nat) : List Nat :=
  (neighbourPages r l idx bad).filterMap fun p => (lookPage s r.asid (4096 * p) needLoad).map pageOf

/-- A TR.LDN whose probe failed has not executed: the ray is saved and waits, or is saved and ends, since a device-only page
is answered as trap (R236, R238, R241, R268), or a quarantined page is consumed (R282). Of a window on two pages, one that is
quarantined or device-only ends the ray at once, and the other page is not reported (DESIGN CHOICE, log 60). -/
def ldnMiss (s : State) (r : Ray) (core : Nat) (l : Layout) (idx : Nat) (ms : List (Asked × Hit)) : State :=
  if ms.any fun m => m.2 == .far then s else
  match ms.findSome? fun m => match m.2 with | .quar pa => some (pa, m.1.va) | _ => none with
  | some x => endPoison s r core 3 x.1 x.2
  | none =>
  if ms.any fun m => m.2 == .devOnly then
    let s := saveRay s r 0
    endRay s ((findRay s r.id).getD r) rsFault
  else
    let w := awaited ms
    let absent := w.filterMap fun m => match m.2 with | .absent pa => some (pageOf pa) | _ => none
    let bad := w.map fun m => m.1.va / 4096
    let hints := if absent.length = w.length then hintPoolPages s r l idx bad else []
    let s := saveRay s r w.length
    let s := rayReport s r core w
    hints.foldl (fun s p => if resident s p then s else addPageWait s p (srcTraversal core) .hint true) s

/-- A line that an engine of a core reads through the core's L1, for a thread of a group: the core's older copies go, and
the line is registered there (R122, R123, R136, R146). -/
def throughL1 (s : State) (core line : Nat) (x : Access) : State :=
  let s := if dirtyElsewhere s core line then recallLine s line else s
  dependOn (addSharer (freshLine s core line) core line) x line

/-- A fetch that an engine makes for a thread of a group, of an instruction with a number, on a page of a kind (R156). -/
def engineAccess (s : State) (gid thr infl ok : Nat) : Access :=
  { gid := gid, grid := gidGrid s gid, scalar := false, mask := maskOf [thr], id := infl, ok := ok, scope := .sys }

/-- The kind of the page of a line among parts at (address, pool address, bytes, kind). -/
def partKind (fs : List (Nat × Nat × Nat × Nat)) (line : Nat) : Nat :=
  (fs.findSome? fun p => if (linesOf p.2.1 p.2.2.1).contains line then some p.2.2.2 else none).getD kindRc

/-- The loads of a TR.LDN that passed its probe, from parts at (address, pool address, bytes, kind), through the issuing core's
L1 (R27, R131, R229). -/
def ldnLoad (s : State) (r : Ray) (core idx win : Nat) (lay : Bool) (fs : List (Nat × Nat × Nat × Nat)) (n : Nat) : State :=
  let lines := (fs.flatMap fun p => linesOf p.2.1 p.2.2.1).eraseDups
  let x := match lines.filter fun l => !inL1 s r.issuer l with
    | [] => (s, true)
    | miss => reachCore s r.issuer (.ray r.id) clsDemand miss
  if !x.2 then x.1
  else
    let s := lines.foldl (fun s l => throughL1 s r.issuer l (engineAccess s r.gid r.thr r.infl (partKind fs l))) x.1
    match List.find? (fun (p : Nat × Nat × Nat × Nat) => poisoned s p.2.1 p.2.2.1) fs with
    | some p => endPoison s (counted r) core 2 p.2.1 p.1
    | none =>
      let bs := (fs.flatMap fun p => tab p.2.2.1 fun k => cohByte s (p.2.1 + k)).take n
      stepOn s { r with buf := bs, nidx := BitVec.ofNat 32 idx, win := win, lsel := lay
                        vpages := addRows r.vpages (fs.map fun p => p.1 / 4096) }

/-- TR.LDN (R229, R238 to R241, R438). -/
def execTrLdn (mi : MReg) (win : BitVec 2) (lay : Bool) (s : State) : Host.Outcome State Fault Refusal :=
  .next (onRay s fun r core =>
    let idx := (micro r mi).toNat % 2 ^ 31
    match layoutAt r lay with
    | none => stepEnd s r rsBounds
    | some l =>
      if l.bsize < (idx + 1) * l.nsz then stepEnd s r rsBounds
      else if l.nsz ≤ 64 * win.toNat then stepEnd s r rsBadop
      else
        let n := min 64 (l.nsz - 64 * win.toNat)
        let parts := rowParts (l.base + idx * l.nsz + 64 * win.toNat) n
        let els := asking needLoad (parts.map fun p => (r.thr, p.1))
        match misses s r.asid els with
        | [] => ldnLoad (learnAll s r.asid els) r core idx win.toNat lay
            (((founds s r.asid els).zip parts).map fun x => (x.1.va, x.1.pa, x.2.2, x.1.ok)) n
        | m :: ms => ldnMiss s r core l idx (m :: ms))

/-! ## TR.BOX (R230, R432) -/

/-- `pn` and `pf` of a corner on an axis (R230): rounded down, and rounded up. -/
def slabNear (d inv : Val) : Val :=
  let p := mulV d inv
  if d.isNan || p.isNan then .inf true else valF (rndF .rdn p)
def slabFar (d inv : Val) : Val :=
  let p := mulV d inv
  if d.isNan || p.isNan then .inf false else valF (rndF .rup p)

/-- The lesser and the greater of two values; the first on a tie. -/
def minV (x y : Val) : Val := if cmpV y x = -1 then y else x
def maxV (x y : Val) : Val := if cmpV y x = 1 then y else x

/-- A difference in the extended reals; a NaN has no value. -/
def diffV (x y : Val) : Val := sumV false [x, y.negate]

/-- One axis of the box test. -/
def boxAxis (org inv : Word) (lo hi : Val) (nf : Val × Val) : Val × Val :=
  let d1 := diffV lo (valF org)
  let d2 := diffV hi (valF org)
  let i := valF inv
  (maxV nf.1 (minV (slabNear d1 i) (slabNear d2 i)), minV nf.2 (maxV (slabFar d1 i) (slabFar d2 i)))

/-- The box test (R230): the entry distance of a hit. The spec gives no minimum with a NaN tmax, which TR.HIT can
leave: the outcome is then a free value (log 6). A zero entry distance is +0, or tmin's own zero (DESIGN CHOICE, log 61). -/
def boxTest (r : Ray) (free : Bool) (lo hi : List Val) : Option Word :=
  if (lo ++ hi).any Val.isNan then none
  else
    let v := fun (l : List Val) (k : Nat) => l.getD k default
    let ax := fun (k : Nat) (nf : Val × Val) => boxAxis (r.org.getD k 0) (r.inv.getD k 0) (v lo k) (v hi k) nf
    let nf := ax 2 (ax 1 (ax 0 (valF r.tmin, valF r.tmax)))
    if (if isNanF r.tmax then !free else decide (cmpV nf.1 nf.2 = 1)) then none
    else some (if cmpV nf.1 (valF r.tmin) = 0 then r.tmin else rndF .rne nf.1)

/-- All of a list, or nothing. -/
def allSome {α : Type} : List (Option α) → Option (List α)
  | [] => some []
  | none :: _ => none
  | some x :: r => (allSome r).map fun xs => x :: xs

/-- A quantised corner: o + q × 2^e, rounded (R230). -/
def quantCorner (rm : Rm) (o : Val) (q e : Nat) : Val :=
  let term : Val := .fin false ((Q.int q).scale (toSigned 8 e))
  valF (rndF rm (sumV false [o, term]))

/-- The corners of a child's box; `none` where a field lies outside the window (R227, R230). -/
def corners (r : Ray) (l : Layout) (c : Nat) : Option (List Val × List Val) :=
  if !l.benc then
    (allSome (tab 6 fun k => nodeField r (l.boxoff + 24 * c + 4 * k) 4)).map fun ws =>
      let vs := ws.map fun w => dec .f32 w
      (vs.take 3, vs.drop 3)
  else
    match allSome (tab 3 fun k => nodeField r (l.qoff + 4 * k) 4), allSome (tab 3 fun k => nodeField r (l.qoff + 12 + k) 1),
      allSome (tab 6 fun k => nodeField r (l.boxoff + 6 * c + k) 1) with
    | some o, some e, some q =>
      let at' := fun (rm : Rm) (k j : Nat) => quantCorner rm (dec .f32 (o.getD k 0)) (q.getD j 0) (e.getD k 0)
      some (tab 3 fun k => at' .rdn k k, tab 3 fun k => at' .rup k (k + 3))
    | _, _, _ => none

/-- Test the children of the node in the buffer from child c on (R432). -/
def boxKids (r : Ray) (l : Layout) (md n draw : Nat) : Nat → Nat → Option Ray
  | _, 0 => some r
  | c, k + 1 =>
    if n ≤ c then boxKids (setMicro r (md + c) 0x7F800000) l md n draw (c + 1) k
    else match corners r l c with
      | none => none
      | some b =>
        match boxTest r (Config.freeBool (draw + c)) b.1 b.2 with
        | none => boxKids (setMicro r (md + c) 0x7F800000) l md n draw (c + 1) k
        | some d => boxKids (setMicro { r with cond := r.cond ||| (1 <<< c) } (md + c) d) l md n draw (c + 1) k

/-- The count of children of the node in the buffer (R229, R432). -/
def childCount (r : Ray) (l : Layout) : Option Nat := (nodeField r l.cntoff 1).map fun n => min n l.width

/-- TR.BOX (R230, R432). -/
def execTrBox (md : MReg) (s : State) : Host.Outcome State Fault Refusal :=
  .next (onRay s fun r _ =>
    let l := bufLayout r
    if 16 < md.toNat + l.width then stepEnd s r rsBadop
    else match childCount r l with
      | none => stepEnd s r rsBadop
      | some n =>
        match boxKids { r with cond := 0 } l md.toNat n s.draws 0 l.width with
        | none => stepEnd s r rsBadop
        | some r' => stepOn { s with draws := s.draws + 8 } r')

/-! ## TR.TRI (R442) -/

/-- Differences, dot and cross products of exact vectors. -/
def subQ (a b : List Q) : List Q := tab 3 fun k => (a.getD k Q.zero).sub (b.getD k Q.zero)
def dotQ (a b : List Q) : Q :=
  (((a.getD 0 Q.zero).mul (b.getD 0 Q.zero)).add ((a.getD 1 Q.zero).mul (b.getD 1 Q.zero))).add
    ((a.getD 2 Q.zero).mul (b.getD 2 Q.zero))
def crossQ (a b : List Q) : List Q :=
  let m := fun (i j : Nat) => (a.getD i Q.zero).mul (b.getD j Q.zero)
  [(m 1 2).sub (m 2 1), (m 2 0).sub (m 0 2), (m 0 1).sub (m 1 0)]

/-- The triangle test (R442): t, u and v of a hit. -/
def triTest (r : Ray) (vs : List Val) (cull : Bool) : Option (Q × Q × Q) :=
  let ray := (r.org ++ r.dir).map valF
  if !(vs ++ ray).all Val.isFin then none
  else
    let q := vs.map Val.q
    let v0 := q.take 3
    let e1 := subQ ((q.drop 3).take 3) v0
    let e2 := subQ (q.drop 6) v0
    let org := (r.org.map fun w => (valF w).q)
    let dir := (r.dir.map fun w => (valF w).q)
    let p := subQ org v0
    -- Cramer's rule: det is −dir · (e1 × e2)
    let h := crossQ dir e2
    let det := dotQ e1 h
    if det.isZero then none
    else
      let g := crossQ p e1
      let u := (dotQ p h).div det
      let v := (dotQ dir g).div det
      let t := (dotQ e2 g).div det
      let inside := !isNanF r.tmax && !isNanF r.tmin && !u.isNeg && !v.isNeg && (u.add v).le (Q.int 1) && (!cull || !det.isNeg) &&
        decide (cmpV (valF r.tmin) (.fin t.isNeg t) ≠ 1) && decide (cmpV (.fin t.isNeg t) (valF r.tmax) ≠ 1)
      if inside then some (t, u, v) else none

/-- TR.TRI (R442). -/
def execTrTri (cb : BitVec 3) (mt : MReg) (off4 : BitVec 3) (cf : Bool) (s : State) : Host.Outcome State Fault Refusal :=
  .next (onRay s fun r _ =>
    if 13 < mt.toNat then stepEnd s r rsBadop
    else match allSome (tab 9 fun k => bufField r (4 * off4.toNat + 4 * k) 4) with
      | none => stepEnd s r rsBadop
      | some ws =>
        match triTest r (ws.map fun w => dec .f32 w) cf with
        | none => stepOn s (setCond r cb false)
        | some (t, u, v) =>
          let w := fun (q : Q) => rndF .rne (.fin q.isNeg q)
          let r := setMicro (setMicro (setMicro r mt.toNat (w t)) (mt.toNat + 1) (w u)) (mt.toNat + 2) (w v)
          stepOn s (setCond r cb true))

/-! ## TR.XFM (R443) -/

/-- A row of the matrix applied to a vector, with its translation or without. -/
def xfmRow (m : List Val) (x : List Word) (move : Bool) : Word :=
  let ps := tab 3 fun k => mulV (m.getD k default) (valF (x.getD k 0))
  rndF .rne (sumV false (if move then ps ++ [m.getD 3 default] else ps))

/-- TR.XFM (R443). -/
def execTrXfm (off16 : Bool) (back : Bool) (s : State) : Host.Outcome State Fault Refusal :=
  .next (onRay s fun r _ =>
    if back then
      if off16 then stepEnd s r rsBadop
      else if !r.ispace then stepOn s r
      else
        let dir := r.wray.drop 3
        stepOn s { r with org := r.wray.take 3, dir := dir, inv := dir.map invF, ispace := false }
    else if r.ispace then stepEnd s r rsBadop
    else match allSome (tab 12 fun k => bufField r ((if off16 then 16 else 0) + 4 * k) 4) with
      | none => stepEnd s r rsBadop
      | some ws =>
        let m := ws.map fun w => dec .f32 w
        let row := fun (k : Nat) => (m.drop (4 * k)).take 4
        let org := tab 3 fun k => xfmRow (row k) r.org true
        let dir := tab 3 fun k => xfmRow (row k) r.dir false
        let r := { r with wray := r.org ++ r.dir, org := org, dir := dir, inv := dir.map invF, ispace := true }
        if (org ++ dir).any isNanF then stepEnd s r (endStatus r) else stepOn s r)

/-! ## The other micro-instructions -/

/-- TR.DEC (R434). -/
def execTrDec (md : MReg) (boff : BitVec 6) (sz : DecSz) (s : State) : Host.Outcome State Fault Refusal :=
  .next (onRay s fun r _ =>
    let n := 2 ^ sz.code.toNat
    if boff.toNat % n ≠ 0 then stepEnd s r rsBadop
    else match bufField r boff.toNat n with
      | none => stepEnd s r rsBadop
      | some v => stepOn s (setMicro r md.toNat (BitVec.ofNat 32 v)))

/-- Push an entry; on a full stack the oldest goes and the overflow flag is set (R232). The top is the last. -/
def pushEntry (r : Ray) (ptr dist : Word) : Ray :=
  let st := r.stack ++ [dist ++ ptr]
  if r.depth < st.length then { r with stack := st.tail, flags := r.flags ||| 1 } else { r with stack := st }

/-- The address of an entry of a saved ray's stack in its group's ray area, and its pool address (R237). -/
def stackVa (g : Group) (r : Ray) (k : Nat) : Nat := g.replay.toNat + 5248 + r.thr * raySize r.depth + 256 + 8 * k
def stackAt (s : State) (g : Group) (r : Ray) (k : Nat) : Nat := firmPa s g.asid (stackVa g r k)

/-- The entries that a stack writes as it becomes another's, the last `reads` entries, which it reads, and the pool lines
of both in the ray area. -/
def stackPuts (r n : Ray) : List Nat := (List.range n.stack.length).filter fun k => n.stack[k]? != r.stack[k]?
def stackGets (r : Ray) (reads : Nat) : List Nat := (List.range r.stack.length).filter fun k => r.stack.length ≤ k + reads
def stackLines (s : State) (g : Group) (r n : Ray) (reads : Nat) : List Nat :=
  ((stackPuts r n ++ stackGets r reads).map fun k => stackAt s g r k / 64).eraseDups

/-- Write the changed entries of a stack to the ray area. -/
def stackWrite (s : State) (g : Group) (r n : Ray) : State :=
  (stackPuts r n).foldl (fun s k => sliceWrite s (stackAt s g r k) (leBytes 8 (n.stack.getD k 0).toNat)) s

/-- A ray works its stack, taking its last `reads` entries, and becomes `n`. A resumed ray's stack stays in the ray area,
where it is worked as demand traffic of the resuming core (R240, R243); poison there ends the ray, as in a node load (R241,
log 27). -/
def onStack (s : State) (core : Nat) (r n : Ray) (reads : Nat) : State :=
  match (if r.flags.getLsbD 1 then findGroup s.groups r.gid else none) with
  | none => stepOn s n
  | some g =>
    match stackLines s g r n reads with
    | [] => stepOn s n
    | ls =>
      let x := reachCore s core (.ray r.id) clsDemand ls
      if !x.2 then x.1
      else match (stackGets r reads).find? fun k => poisoned x.1 (stackAt s g r k) 8 with
        | some k => endPoison x.1 (counted r) core 2 (stackAt s g r k) (stackVa g r k)
        | none => stepOn (stackWrite x.1 g r n) n

/-- TR.PUSH (R440). -/
def execTrPush (ma mb : MReg) (s : State) : Host.Outcome State Fault Refusal :=
  .next (onRay s fun r core => onStack s core r (pushEntry r (micro r ma) (micro r mb)) 0)

/-- Whether a stack entry lies beyond tmax; a NaN does not (R439). -/
def beyond (tmax : Word) (e : Dword) : Bool :=
  let d := valF (e.extractLsb' 32 32)
  !d.isNan && !isNanF tmax && cmpV d (valF tmax) == 1

/-- TR.POP (R439). -/
def execTrPop (mi mt : MReg) (cb : BitVec 3) (cull : Bool) (s : State) : Host.Outcome State Fault Refusal :=
  .next (onRay s fun r core =>
    let st := if cull then (r.stack.reverse.dropWhile (beyond r.tmax)).reverse else r.stack
    match st.getLast? with
    | none => onStack s core r (setCond { r with stack := st } cb true) r.stack.length
    | some e =>
      let n := setMicro (setMicro { r with stack := st.dropLast } mi.toNat (e.setWidth 32)) mt.toNat (e.extractLsb' 32 32)
      onStack s core r (setCond n cb false) (r.stack.length + 1 - st.length))

/-- A child to be sorted: its number, its pointer, and the value it is ordered by. -/
structure Kid where
  num : Nat
  ptr : Word
  dist : Word
  key : Val
  deriving DecidableEq, Repr, Inhabited

/-- The value that a distance is ordered by. The spec gives a NaN no place: its place is a free value (log 6). -/
def sortKey (draw : Nat) (w : Word) : Val :=
  if isNanF w then
    match dec .f64 (Config.freeWord draw).toNat with
    | .nan _ => .inf false
    | v => v
  else valF w

/-- The hit children of the node in the buffer (R441); `none` where a pointer lies outside the window. -/
def hitKids (r : Ray) (l : Layout) (md n draw : Nat) : Option (List Kid) :=
  let cs := (List.range n).filter fun c => r.cond.getLsbD c
  (allSome (cs.map fun c => (nodeField r (l.choff + 4 * c) 4).map fun p =>
    let d := r.m.getD (md + c) 0
    ({ num := c, ptr := BitVec.ofNat 32 p, dist := d, key := sortKey (draw + c) d } : Kid))).map
    fun ks => ks.filter fun k => k.ptr ≠ 0xFFFFFFFF

/-- Whether a child comes before another (R441). -/
def kidBefore (a b : Kid) : Bool :=
  cmpV a.key b.key == -1 || (cmpV a.key b.key == 0 && decide (a.num ≤ b.num))

/-- TR.SORT (R441). -/
def execTrSort (md mn : MReg) (s : State) : Host.Outcome State Fault Refusal :=
  .next (onRay s fun r core =>
    let l := bufLayout r
    if 16 < md.toNat + l.width then stepEnd s r rsBadop
    else match childCount r l with
      | none => stepEnd s r rsBadop
      | some n =>
        match hitKids r l md.toNat n s.draws with
        | none => stepEnd s r rsBadop
        | some ks =>
          let x := ((ks.mergeSort kidBefore).reverse).foldl (fun r k => pushEntry r k.ptr k.dist) r
          onStack { s with draws := s.draws + 8 } core r (setMicro x mn.toNat (BitVec.ofNat 32 ks.length)) 0)

/-- Commit the candidate hit (R430). -/
def commitHit (r : Ray) (mt mp mi mu : MReg) : Ray :=
  let t := micro r mt
  { r with hit := [t, micro r mp, micro r (mt + 1), micro r (mt + 2), micro r mi, micro r mu], tmax := t
           committed := true }

/-- TR.HIT (R430). -/
def execTrHit (mt mp mi mu : MReg) (s : State) : Host.Outcome State Fault Refusal :=
  .next (onRay s fun r _ =>
    if 13 < mt.toNat then stepEnd s r rsBadop else stepOn s (commitHit r mt mp mi mu))

/-- TR.ANY (R430). -/
def execTrAny (mt mp mi mu : MReg) (s : State) : Host.Outcome State Fault Refusal :=
  .next (onRay s fun r _ =>
    if 13 < mt.toNat then stepEnd s r rsBadop else stepEnd s (commitHit r mt mp mi mu) rsHit)

/-- TR.BR (R433). -/
def execTrBr (cb : BitVec 3) (sense : Bool) (target : Byte) (s : State) : Host.Outcome State Fault Refusal :=
  .next (onRay s fun r _ =>
    if r.cond.getLsbD cb.toNat = sense then setRay s { counted r with pc := target } else stepOn s r)

/-- TR.JMP (R436). -/
def execTrJmp (target : Byte) (s : State) : Host.Outcome State Fault Refusal :=
  .next (onRay s fun r _ => setRay s { counted r with pc := target })

/-- What TR.ALU does with two values: a result, or a condition (R429). -/
def aluResult (fn : MFn) (x y : Word) : Word ⊕ Bool :=
  let f := fun (r : Nat × Flags) => (.inl (BitVec.ofNat 32 r.1) : Word ⊕ Bool)
  match fn with
  | .add => .inl (x + y)
  | .sub => .inl (x - y)
  | .and => .inl (x &&& y)
  | .or => .inl (x ||| y)
  | .xor => .inl (x ^^^ y)
  | .shl => .inl (x <<< (y.toNat % 32))
  | .shr => .inl (x >>> (y.toNat % 32))
  | .fadd => f (fadd .f32 .rne x.toNat y.toNat)
  | .fmul => f (fmul .f32 .rne x.toNat y.toNat)
  | .fmin => f (fminmax false .f32 x.toNat y.toNat)
  | .fmax => f (fminmax true .f32 x.toNat y.toNat)
  | .mov => .inl x
  | .eq => .inr (x == y)
  | .ltu => .inr (x.ult y)
  | .flt => .inr (!isNanF x && !isNanF y && cmpV (valF x) (valF y) == -1)

/-- TR.ALU (R429). -/
def execTrAlu (md ma mb : MReg) (fn : MFn) (s : State) : Host.Outcome State Fault Refusal :=
  .next (onRay s fun r _ =>
    match aluResult fn (micro r ma) (micro r mb) with
    | .inl v => stepOn s (setMicro r md.toNat v)
    | .inr b => if md.getLsbD 3 then stepEnd s r rsBadop else stepOn s (setCond r (md.setWidth 3) b))

/-- TR.LDI (R437). -/
def execTrLdi (md : MReg) (hi : Bool) (imm : BitVec 16) (s : State) : Host.Outcome State Fault Refusal :=
  .next (onRay s fun r _ =>
    let old : BitVec 16 := (micro r md).setWidth 16
    stepOn s (setMicro r md.toNat (if hi then imm ++ old else imm.setWidth 32)))

/-- TR.BND (R431). -/
def execTrBnd (cb : BitVec 3) (mi : MReg) (lay : Bool) (s : State) : Host.Outcome State Fault Refusal :=
  .next (onRay s fun r _ =>
    let inside := match layoutAt r lay with
      | none => false
      | some l => decide (((micro r mi).toNat % 2 ^ 31 + 1) * l.nsz ≤ l.bsize)
    stepOn s (setCond r cb inside))

/-- TR.END (R435). -/
def execTrEnd (s : State) : Host.Outcome State Fault Refusal :=
  .next (onRay s fun r _ => stepEnd s r (endStatus r))

end Sys2Proof.Machine
end

