-- ==== Sys2Proof/Machine/Graphics.lean ====
section
/-! DEFINITION. Rasterisation, sampling and ordered output: RAST, SAMP, SAMPG, OMRG, the sampler's replay, and
the merge units (R245 to R260, R371, R372, R381, R382, R386 to R388). -/

namespace Sys2Proof.Machine

/-! ## Triangles (R245 to R247) -/

/-- A triangle as eight captured registers give it. -/
structure Tri where
  xs : List Int
  ys : List Int
  zs : List Word
  xmin : Int
  ymin : Int
  xmax : Int
  ymax : Int
  cull : Nat
  ls : Nat
  deriving DecidableEq, Repr, Inhabited

/-- Read a triangle from the values that a RAST captured: b, token, mask, then sN+1 to sN+7 (R245, R381). -/
def triOf (caps : List Dword) : Tri :=
  let r := fun (k : Nat) => (caps.getD (if k = 0 then 0 else k + 2) 0).toNat
  { xs := tab 3 fun k => (nbits (r k) 0 24 : Int), ys := tab 3 fun k => (nbits (r k) 24 24 : Int)
    zs := [BitVec.ofNat 32 (r 3), BitVec.ofNat 32 (r 3 / 2 ^ 32), BitVec.ofNat 32 (r 4)]
    xmin := nbits (r 5) 0 16, ymin := nbits (r 5) 16 16, xmax := nbits (r 5) 32 16, ymax := nbits (r 5) 48 16
    cull := nbits (r 6) 2 2, ls := nbits (r 6) 0 2 }

def Tri.x (t : Tri) (v : Nat) : Int := t.xs.getD v 0
def Tri.y (t : Tri) (v : Nat) : Int := t.ys.getD v 0

/-- The edge function E(a, b, p) (R246). -/
def edge (t : Tri) (a b : Nat) (px py : Int) : Int :=
  (t.x b - t.x a) * (py - t.y a) - (t.y b - t.y a) * (px - t.x a)

/-- The area A (R246). -/
def area (t : Tri) : Int := edge t 0 1 (t.x 2) (t.y 2)

/-- Whether the triangle is dropped: A = 0, or its sign is culled (R245, R246). -/
def dropped (t : Tri) : Bool :=
  area t == 0 || (t.cull.testBit 0 && decide (area t < 0)) || (t.cull.testBit 1 && decide (0 < area t))

/-- Whether an edge is a top or left edge (R246). -/
def topLeft (t : Tri) (a b : Nat) : Bool :=
  let sg := (area t).sign
  decide (sg * (t.y b - t.y a) < 0) || (t.y b == t.y a && decide (0 < sg * (t.x b - t.x a)))

/-- Whether a sample position is covered (R246). -/
def covered (t : Tri) (px py : Int) : Bool :=
  [(0, 1), (1, 2), (2, 0)].all fun (e : Nat × Nat) =>
    let v := (area t).sign * edge t e.1 e.2 px py
    decide (0 < v) || (v == 0 && topLeft t e.1 e.2)

/-- The least and the greatest of three numbers. -/
def least (l : List Int) : Int := l.foldl min (l.headD 0)
def greatest (l : List Int) : Int := l.foldl max (l.headD 0)

/-- The candidate pixels: the bounding box within the scissor, as x0, x1, y0, y1 (R246). -/
def boxOf (t : Tri) : Int × Int × Int × Int :=
  (max (least t.xs / 256) t.xmin, min (greatest t.xs / 256) t.xmax,
   max (least t.ys / 256) t.ymin, min (greatest t.ys / 256) t.ymax)

/-- The offsets of sample s of a pixel (R246). -/
def sampleAt (ls s : Nat) : Int × Int :=
  let l : List (Int × Int) := match ls with
    | 0 => [(128, 128)]
    | 1 => [(64, 64), (192, 192)]
    | 2 => [(80, 16), (240, 80), (16, 176), (176, 240)]
    | _ => [(16, 176), (48, 80), (80, 240), (112, 16), (144, 112), (176, 208), (208, 48), (240, 144)]
  l.getD s (0, 0)

/-- A candidate: pixel and sample. -/
structure Cand where
  x : Int
  y : Int
  s : Nat
  deriving DecidableEq, Repr, Inhabited

/-- The position of a candidate (R246). -/
def candPos (t : Tri) (c : Cand) : Int × Int :=
  let o := sampleAt t.ls c.s
  (256 * c.x + o.1, 256 * c.y + o.2)

/-- The candidate after one: s, then x, then y (R248). -/
def nextCand (t : Tri) (c : Cand) : Option Cand :=
  let b := boxOf t
  if c.s + 1 < 2 ^ t.ls then some { c with s := c.s + 1 }
  else if c.x + 1 ≤ b.2.1 then some { x := c.x + 1, y := c.y, s := 0 }
  else if c.y + 1 ≤ b.2.2.2 then some { x := b.1, y := c.y + 1, s := 0 }
  else none

/-- The candidate at which the scan starts; `none` where nothing is delivered (R246, R248). -/
def firstCand (t : Tri) (token : Dword) : Option Cand :=
  let b := boxOf t
  let k := token.toNat
  if dropped t || decide (b.2.1 < b.1) || decide (b.2.2.2 < b.2.2.1) then none
  else if !k.testBit 63 then some { x := b.1, y := b.2.2.1, s := 0 }
  else
    let c : Cand := { x := nbits k 0 16, y := nbits k 16 16, s := nbits k 32 3 }
    if nbits k 35 28 = 0 ∧ c.s < 2 ^ t.ls ∧ b.1 ≤ c.x ∧ c.x ≤ b.2.1 ∧ b.2.2.1 ≤ c.y ∧ c.y ≤ b.2.2.2 then some c
    else none

/-- The token that names a candidate; 0 for none (R248, R249). -/
def tokenOf (c : Option Cand) : Dword :=
  match c with
  | none => 0
  | some c => dw (2 ^ 63 + 2 ^ 32 * c.s + 2 ^ 16 * c.y.toNat + c.x.toNat)

/-- The number of candidates of a triangle. -/
def candCount (t : Tri) : Nat :=
  let b := boxOf t
  (b.2.1 - b.1 + 1).toNat * (b.2.2.2 - b.2.2.1 + 1).toNat * 2 ^ t.ls

/-- A barycentric or a depth, rounded once (R247). -/
def ratio (n : Int) (t : Tri) : Word :=
  let q := (Q.int n).div (Q.int (area t))
  rndF .rne (.fin q.isNeg q)

/-- The depth of a sample (R247). -/
def depthAt (t : Tri) (px py : Int) : Word :=
  let z := t.zs.map valF
  if z.all Val.isFin then
    let zq := fun (k : Nat) => (z.getD k default).q
    let top := ((Q.int (edge t 2 0 px py)).mul ((zq 1).sub (zq 0))).add ((Q.int (edge t 0 1 px py)).mul ((zq 2).sub (zq 0)))
    let q := (zq 0).add (top.div (Q.int (area t)))
    rndF .rne (.fin q.isNeg q)
  else 0x7FC00000

/-- The three rows of a covered sample (R249). -/
def sampleRows (t : Tri) (c : Cand) : List Dword :=
  let p := candPos t c
  let i := ratio (edge t 2 0 p.1 p.2) t
  let j := ratio (edge t 0 1 p.1 p.2) t
  [dw (c.x.toNat + 2 ^ 16 * c.y.toNat + 2 ^ 32 * c.s + 2 ^ 35 + (if area t < 0 then 2 ^ 36 else 0)),
   dw (i.toNat + 2 ^ 32 * j.toNat), dw (depthAt t p.1 p.2).toNat]

/-- Scan at most `n` candidates, giving each covered one to the next thread: the samples, and the next candidate
(R249). -/
def scan (t : Tri) : Nat → Option Cand → List Nat → List (Nat × List Dword) → List (Nat × List Dword) × Option Cand
  | 0, c, _, out => (out, c)
  | n + 1, c, ts, out =>
    match c, ts with
    | none, _ => (out, none)
    | some c, [] => (out, some c)
    | some c, t0 :: r =>
      let p := candPos t c
      if covered t p.1 p.2 then scan t n (nextCand t c) r (out ++ [(t0, sampleRows t c)])
      else scan t n (nextCand t c) (t0 :: r) out

/-- The values of a RAST's rows, and its new token, after at most `n` candidates (R249). -/
def rastOut (caps : List Dword) (act : List Nat) (d n : Nat) : Cells Dword × Dword :=
  let t := triOf caps
  let r := scan t n (firstCand t (caps.getD 1 0)) act []
  let val := fun (u : Nat) => ((r.1.find? fun x => x.1 = u).map Prod.snd).getD [0, 0, 0]
  (writesOf (rowsFrom d 3) act val, tokenOf r.2)

/-- RAST (R249, R382). With no active thread the captured token is written back. -/
def execRast (f : LaneForm) (s : State) : Host.Outcome State Fault Refusal :=
  .next (laneExec s (.rast f) fun g q =>
    let rows := rowsFrom f.d.toNat 3
    let sT := scalarDest (.rast f)
    match actives g q f with
    | [] => enterIdle s (match sT with | some r => setScal g r.toNat (capOf q 1) | none => g) f rows sT
    | act =>
      let out := rastOut q.caps act f.d.toNat (candCount (triOf q.caps))
      enterPending s g f act { newInfl s g q f .rast rows with writes := out.1, sreg := sT, sval := out.2 })

/-- A save stops the scan at a sample boundary, after at most `n` candidates (R250). -/
def cutRast (i : Inflight) (n : Nat) : Inflight :=
  if i.kind = .rast then
    let out := rastOut i.caps (threadsOf i.mask) (i.rows.headD 0) (min n (candCount (triOf i.caps)))
    { i with writes := out.1, sval := out.2 }
  else i

/-! ## Textures (R256, R257, R387) -/

/-- A texture descriptor that passed its checks. -/
structure Tex where
  base : Nat
  pitch : Nat
  h : Nat
  w : Nat
  wrap : Nat
  bil : Bool
  fmt : Nat
  deriving DecidableEq, Repr, Inhabited

/-- Read and check a texture descriptor (R256). -/
def texOf (d : BitVec 256) : Option Tex :=
  let x := d.toNat
  if nbits x 192 64 = 0 ∧ nbits x 128 64 % 64 = 0 ∧ nbits x 8 56 = 0 ∧ nbits x 6 2 ≠ 3 ∧ nbits x 2 3 = 0 then
    some { base := nbits x 128 64, pitch := nbits x 96 32, h := nbits x 80 16 + 1, w := nbits x 64 16 + 1
           wrap := nbits x 6 2, bil := x.testBit 5, fmt := nbits x 0 2 }
  else none

/-- Bytes of a texel (R387). -/
def texelSize (fmt : Nat) : Nat := match fmt with | 1 => 8 | 2 => 8 | _ => 4

/-- The canonical NaN in two channels. -/
def nanPair : Dword := 0x7FC000007FC00000

/-- A coordinate times an extent, rounded; `none` for a NaN or an infinity (R257). -/
def coordOf (u : Word) (n : Nat) : Option Q :=
  let fin := fun (v : Val) => match v with | .fin _ q => some q | _ => none
  (fin (valF u)).bind fun q => let p := q.mul (Q.int n); fin (valF (rndF .rne (.fin p.isNeg p)))

/-- A coordinate less a half, rounded: its floor, and its fraction in 1/256 (R257). -/
def halfOff (c : Q) : Int × Nat :=
  let p := c.sub ⟨1, 2⟩
  let a := (valF (rndF .rne (.fin p.isNeg p))).q
  (a.floor, (((a.sub (Q.int a.floor)).mul (Q.int 256)).floor).toNat)

/-- Texel places with their weights in 1/65536 (R257). -/
def texPoints (bil : Bool) (cu cv : Q) : List (Int × Int × Nat) :=
  if bil then
    let a := halfOff cu
    let b := halfOff cv
    [(a.1, b.1, (256 - a.2) * (256 - b.2)), (a.1 + 1, b.1, a.2 * (256 - b.2)),
     (a.1, b.1 + 1, (256 - a.2) * b.2), (a.1 + 1, b.1 + 1, a.2 * b.2)]
  else [(cu.floor, cv.floor, 65536)]

/-- A texel coordinate under the wrap mode; `none` in the border (R257). -/
def wrapAt (mode n : Nat) (i : Int) : Option Nat :=
  match mode with
  | 0 => some (min (max i 0) ((n : Int) - 1)).toNat
  | 1 => some (i % (n : Int)).toNat
  | _ => if 0 ≤ i ∧ i < (n : Int) then some i.toNat else none

/-- The footprint of a thread: texel addresses, `none` in the border, with their weights; `none` for a NaN or
infinite coordinate (R257). -/
def footprint (t : Tex) (gather : Bool) (a : Dword) : Option (List (Option Nat × Nat)) :=
  match coordOf (a.setWidth 32) t.w, coordOf ((a >>> 32).setWidth 32) t.h with
  | some cu, some cv =>
    some ((texPoints (gather || t.bil) cu cv).map fun p =>
      match wrapAt t.wrap t.w p.1, wrapAt t.wrap t.h p.2.1 with
      | some i, some j => (some ((t.base + j * t.pitch + i * texelSize t.fmt) % 2 ^ 64), p.2.2)
      | _, _ => (none, p.2.2))
  | _, _ => none

/-- The four channels of a texel (R387). -/
def channels (fmt raw : Nat) : List Val :=
  let zero : Val := .fin false Q.zero
  let one : Val := .fin false (Q.int 1)
  match fmt with
  | 0 => [dec .f32 (nbits raw 0 32), zero, zero, one]
  | 1 => [dec .f32 (nbits raw 0 32), dec .f32 (nbits raw 32 32), zero, one]
  | 2 => tab 4 fun k => dec .f16 (nbits raw (16 * k) 16)
  | _ => tab 4 fun k => valF (rndF .rne (.fin false ⟨(nbits raw (8 * k) 8 : Nat), 255⟩))

/-- The channels of a staged texel; a border texel is 0 in every channel (R257). -/
def texelChannels (t : Tex) (p : Option Nat × Nat) (raw : Dword) : List Val :=
  if p.1.isNone then List.replicate 4 (.fin false Q.zero) else channels t.fmt raw.toNat

/-- A weight times a channel, exactly (R257). -/
def weighed (w : Nat) (v : Val) : Val :=
  match v with
  | .fin neg q => .fin neg (q.mul ⟨w, 65536⟩)
  | v => v

/-- The two rows of a thread from its staged texels (R257, R387). -/
def texRows (t : Tex) (gather : Bool) (fp : List (Option Nat × Nat)) (stage : List Dword) : List Dword :=
  let ch := (fp.zip stage).map fun x => (x.1.2, texelChannels t x.1 x.2)
  let pat := fun (v : Val) => (convF .f32 .rne true v).1
  let out : List Nat :=
    if gather then ch.map fun x => pat (x.2.headD default)
    else tab 4 fun k =>
      let ts := (ch.filter fun x => x.1 ≠ 0).map fun x => weighed x.1 (x.2.getD k default)
      pat (sumV (zeroSign .rne ts) ts)
  [dw (out.getD 0 0 + 2 ^ 32 * out.getD 1 0), dw (out.getD 2 0 + 2 ^ 32 * out.getD 3 0)]

/-! ## The sampler (R257 to R259, R388) -/

/-- The replay record (R258). -/
def sampRecord (s : State) (g : Group) (m : Samp) (fva : Nat) : Nat :=
  let staged := packElems 64 (m.stage.map (·.toNat))
  s.pkg.time.toNat + 2 ^ 64 * fva + 2 ^ 128 * m.desc.toNat + 2 ^ 192 * (g.gid % 2 ^ 32) + 2 ^ 224 * m.act.toNat +
  2 ^ 256 * m.done.toNat + 2 ^ 297 * (g.core % 2048) + 2 ^ 308 * m.dst + 2 ^ 319 * m.arow +
  (if m.gather then 2 ^ 330 else 0) + 2 ^ 331 * m.thr + 2 ^ 336 * m.tmask.toNat + 2 ^ 340 * staged

/-- Write the record, and keep the address that stopped the sampler (R258). -/
def sampSave (s : State) (g : Group) (m : Samp) (fva left : Nat) : State :=
  let s := replayWrite s g 4096 (leBytes 128 (sampRecord s g m fva))
  setG s { (findGroup s.groups g.gid).getD g with samp := some { m with fva := some (dw fva), left := left } }

/-- A group as it stands before a sample that takes a trap: no row is written, the record goes, and the
instruction is again the first that has not entered (R388). -/
def sampUndo (g : Group) (m : Samp) : Group :=
  { g with
    infl := g.infl.filter fun i => i.id ≠ m.infl
    pend := g.pend.filter fun r => !(rowsFrom m.dst 2).contains r
    held := [], samp := none, queue := m.entry :: g.queue }
def sampTrap (s : State) (g : Group) (m : Samp) (code va : Nat) : State :=
  trapLane s (sampUndo g m) code va m.thr

/-- What a fetch of the sampler finds: the pool address, the bytes and the page's kind of each part, or what failed of
them. -/
inductive TexFetch where
  | got (ps : List (Nat × Nat × Nat))
  | miss (ms : List (Asked × Hit))

/-- Look up a fetch of `n` bytes (R258, R262). -/
def texFetch (s : State) (asid thr va n : Nat) : TexFetch :=
  let ps := rowParts va n
  let els := asking needLoad (ps.map fun p => (thr, p.1))
  match misses s asid els with
  | [] => .got (((founds s asid els).zip ps).map fun x => (x.1.pa, x.2.2, x.1.ok))
  | ms => .miss ms

/-- A fetch of the sampler stopped (R258, R268, R282), or waits until its tables can be read (R23). Of a texel on two pages, one
that is quarantined is consumed, or one that is device-only traps, at once, and the other page is not reported; what is saved
names the texel's first byte, whichever page failed (DESIGN CHOICE, log 66). -/
def sampStop (s : State) (g : Group) (m : Samp) (va : Nat) (ms : List (Asked × Hit)) : State :=
  if ms.any fun x => x.2 == .far then s else
  match ms.findSome? fun x => match x.2 with | .quar pa => some pa | _ => none with
  | some pa => consumeAt s g (srcSampler g.core) 3 pa va needLoad.acc
  | none =>
    match List.find? (fun (x : Asked × Hit) => x.2 == .devOnly) ms with
    | some x => sampTrap s g m tProt x.1.va
    | none =>
      let w := awaited ms
      let s := sampSave s g m va w.length
      reportEach s g.asid (srcSampler g.core) g.gid (.samp g.gid) (some g.grid) (dieOf s g.core) w

/-- A sample after its thread's rows are known: the next thread in progress. -/
def sampNext (m : Samp) : Samp :=
  let done := m.done ||| BitVec.ofNat 32 (2 ^ m.thr)
  { m with done := done, thr := ((threadsOf (m.act &&& ~~~done)).headD 0), stage := [], tmask := 0 }

/-- A thread's rows are kept in the record of its instruction. -/
def sampRows (g : Group) (m : Samp) (rows : List Dword) : Group :=
  let put := fun (i : Inflight) =>
    if i.id = m.infl then
      { i with writes := (rows.zipIdx).foldl (fun c v => Cells.put c (32 * (m.dst + v.2) + m.thr) v.1) i.writes }
    else i
  { g with infl := g.infl.map put, samp := some (sampNext m) }

/-- Every thread is done: the result is ready to return (R257). -/
def sampEnd (g : Group) (m : Samp) : Group :=
  { g with samp := none, infl := g.infl.map fun i => if i.id = m.infl then { i with needs := 0 } else i }

/-- Read the bytes of a fetch that passed, through the core's L1; `none` while its lines have to wait (R27, R29, R122,
R131). -/
def texRead (s : State) (g : Group) (m : Samp) (ps : List (Nat × Nat × Nat)) : State × Option Nat :=
  let lines := (ps.flatMap fun p => (linesOf p.1 p.2.1).map fun l => (l, p.2.2)).eraseDups
  let x := match (lines.map Prod.fst).filter fun l => !inL1 s g.core l with
    | [] => (s, true)
    | far => reachCore s g.core (.samp g.gid) clsDemand far
  if !x.2 then (x.1, none)
  else
    let s := lines.foldl (fun s l => throughL1 s g.core l.1 (engineAccess s g.gid m.thr m.infl l.2)) x.1
    (s, some (leNat (ps.flatMap fun p => tab p.2.1 fun k => cohByte s (p.1 + k))))

/-- The sampler of a group's core consumed poison (R24, R282). -/
def sampPoison (s : State) (g : Group) (pa va : Nat) : State :=
  consumeAt s g (srcSampler g.core) 2 pa va (if va = 0 then 0 else needLoad.acc)

/-- One texel of the thread in progress, or its rows. The address that a fault saves is that of the texel's first byte, on whichever
of its pages it lies (DESIGN CHOICE, log 66). -/
def sampStep (s : State) (g : Group) (m : Samp) : State :=
  let t? := texOf m.tex
  match t?, t?.bind (fun t => footprint t m.gather (lane g m.arow m.thr)) with
  | some t, some fp =>
    (match fp.drop m.stage.length with
     | [] => setG s (sampRows g m (texRows t m.gather fp m.stage))
     | (none, _) :: _ => setG s { g with samp := some { m with stage := m.stage ++ [0] } }
     | (some va, _) :: _ =>
       (match texFetch s g.asid m.thr va (texelSize t.fmt) with
        | .miss ms => sampStop s g m va ms
        | .got ps =>
          let x := texRead s g m ps
          (match x.2 with
           | none => x.1
           | some v =>
             if ps.any fun p => poisoned s p.1 p.2.1 then sampPoison x.1 g ((ps.headD (0, 0, 0)).1) va
             else
               let bit : BitVec 4 := BitVec.ofNat 4 (2 ^ m.stage.length)
               setG (learn x.1 g.asid va)
                 { g with samp := some { m with stage := m.stage ++ [dw v], tmask := m.tmask ||| bit } })))
  | _, _ => setG s (sampRows g m [nanPair, nanPair])

/-- Run the sampler for a group until it is done, or stops; poisoned staged texels are consumed (R282). -/
def sampLoop (s : State) (gid : Nat) : Nat → State
  | 0 => s
  | n + 1 =>
    match findGroup s.groups gid with
    | none => s
    | some g =>
      match g.samp with
      | none => s
      | some m =>
        if m.fva.isSome then s
        else if m.bad then sampPoison s g 0 0
        else if m.done = m.act then setG s (sampEnd g m)
        else
          let s1 := sampStep s g m
          if (findGroup s1.groups gid).map (·.samp) = some (some m) then s1 else sampLoop s1 gid n

/-- More steps than an instruction can take: five for each thread. -/
def sampFuel : Nat := 200

/-- The zeroes of inactive threads under mz: they are written when the result returns, so that a trap leaves every row as
it stood (R68, R388). -/
def lateZeroes (f : LaneForm) (rows act : List Nat) : Cells Dword :=
  if zeroing f then
    writesOf rows ((List.range 32).filter fun t => !act.contains t) fun _ => rows.map fun _ => (0 : Dword)
  else []

/-- SAMP and SAMPG: ALIGN, the probe of the descriptor, then the footprints of the active threads (R256, R257,
R386). The fetches follow every access that precedes them (R156); one instruction of a group is unfinished at a
time (R257). -/
def sampOp (s : State) (i : Instr) (f : LaneForm) (gather : Bool) : State :=
  laneExec s i fun g q =>
    match actives g q f with
    | [] => enterIdle s g f (rowsFrom f.d.toNat 2) none
    | u :: r =>
      let act := u :: r
      let x := opdDword g q 1 f.c u
      if x.toNat % 32 ≠ 0 then trapLane s g tAlign x.toNat u
      else if fenced s g false || g.infl.any (fun i => i.kind == .samp) ||
        outstanding s g false (maskOf act) (fun _ => true) || engineReads s g.gid (maskOf act) s.nextId ||
        writesOnWay s g (maskOf act) then s
      else spilled s g (fun _ => true) fun s g => probeG s g true (asking needLoad [(u, x.toNat)]) fun s fs =>
        match fs with
        | [] => s
        | y :: _ =>
          let rd := readWords s g (maskOf act) ((linesOf y.pa 32).map fun l => (l, y.ok)) .sys
          if !rd.2 then rd.1
          else if poisoned rd.1 y.pa 32 then sampPoison rd.1 g y.pa x.toNat
          else
            let w := flushPaid rd.1 (laneWho g) g.gid g.core none
            let s := w.1
            if !w.2 || writesOnWay s g (maskOf act) then s else
            let id := s.nextId
            let rows := rowsFrom f.d.toNat 2
            let s := enterPending s g f (List.range 32)
              { newInfl s g q f .samp rows with needs := 1, writes := lateZeroes f rows act }
            let g := (findGroup s.groups g.gid).getD g
            let m : Samp :=
              { infl := id, gather := gather, desc := x, arow := f.a.toNat, dst := f.d.toNat, act := maskOf act, done := 0
                thr := u, tmask := 0, stage := [], fva := none, left := 0, trap := none, entry := q
                tex := BitVec.ofNat 256 (cohNat s y.pa 32), bad := false }
            sampLoop (setG s { g with samp := some m, held := [f.a.toNat] }) g.gid sampFuel

/-- SAMP (R386 to R388). -/
def execSamp (f : LaneForm) (s : State) : Host.Outcome State Fault Refusal := .next (sampOp s (.samp f) f false)
/-- SAMPG (R387). -/
def execSampg (f : LaneForm) (s : State) : Host.Outcome State Fault Refusal := .next (sampOp s (.sampg f) f true)

/-- The sampler reads the descriptor and row a again, and goes on (R258). -/
def sampAgain (s : State) (g : Group) (m : Samp) : State :=
  let va := m.desc.toNat
  match texFetch s g.asid m.thr va 32 with
  | .miss ms => sampStop s g m va ms
  | .got ps =>
    let x := texRead s g m ps
    match x.2 with
    | none => x.1
    | some v =>
      if ps.any fun p => poisoned s p.1 p.2.1 then sampPoison x.1 g ((ps.headD (0, 0, 0)).1) va
      else sampLoop (setG x.1 { g with samp := some { m with fva := none, tex := BitVec.ofNat 256 v } }) g.gid sampFuel

/-- Whether a group is on its core and its crew is not stopping (R260). -/
def onCore (s : State) (g : Group) : Bool :=
  match crewOf s g with
  | none => false
  | some c => c.status == .running || (match c.status with | .draining _ => true | _ => false)

/-- SAMPLER_RESUME: a sampler whose pages are resident goes on from its record, and one that waits for its budget
goes on, even where its die has used up its energy: its instruction is in flight (R30); a driver's answer trap is taken at the instruction (R258, R388). -/
def execSamplerResume (gid : Nat) (s : State) : Host.Outcome State Fault Refusal :=
  .next (match findGroup s.groups gid with
    | none => s
    | some g =>
      match g.samp with
      | none => s
      | some m =>
        if m.left ≠ 0 || !onCore s g then s
        else match m.trap with
          | some t => sampTrap s g m t.1 t.2
          | none =>
            if m.fva.isNone then sampLoop s gid sampFuel
            else if m.bad then sampPoison s g 0 0
            else sampAgain s g m)

/-! ## Ordered output (R251 to R255, R371, R372) -/

/-- Fields of a merge record (R252). -/
def mrFirst (d : BitVec 512) : Word := d.extractLsb' 160 32
def mrOp (d : BitVec 512) : Nat := nbits d.toNat 130 2
def mrLs (d : BitVec 512) : Nat := nbits d.toNat 128 2
def mrHeight (d : BitVec 512) : Nat := nbits d.toNat 112 16
def mrWidth (d : BitVec 512) : Nat := nbits d.toNat 96 16
def mrPitch (d : BitVec 512) : Nat := nbits d.toNat 64 32
def mrBase (d : BitVec 512) : Nat := nbits d.toNat 0 64

/-- The checks of a merge record (R252). -/
def mergeOk (d : BitVec 512) : Bool :=
  let x := d.toNat
  nbits x 320 192 == 0 && nbits x 192 64 == 0 && nbits x 132 28 == 0 && mrOp d != 3 && mrPitch d % 64 == 0 &&
  mrBase d % 64 == 0

/-- Enabled dies. -/
def dieCount (s : State) : Nat := max 1 s.pkg.dies.length

/-- The die that owns a pixel (R251). -/
def pixelDie (s : State) (x y : Nat) : Nat := (x / 64 + 7 * (y / 64)) % dieCount s

/-- The merge unit of a die. -/
def mergeUnit (s : State) (die : Nat) : MergeUnit :=
  (s.merges.find? fun m => m.die == die).getD { die := die, streams := [], transit := [] }
def setMerge (s : State) (m : MergeUnit) : State :=
  { s with merges := m :: s.merges.filter fun x => x.die ≠ m.die }

/-- Whether a stream is the one that a fragment names (R252). -/
def ofStream (f : Frag) (t : MergeStream) : Bool := t.asid == f.asid && t.merge == f.merge

/-- Fragments that a die holds, those on their way to it included; and the streams it has met or will meet (R255). -/
def fragsAt (m : MergeUnit) : Nat :=
  ((m.transit ++ m.streams.flatMap (·.held)).filter fun f => !f.close).length
def streamsAt (m : MergeUnit) : List (Nat × Nat) :=
  ((m.streams.map fun t => (t.asid, t.merge)) ++ m.transit.map fun f => (f.asid, f.merge)).eraseDups

/-- Whether a die has room for the fragments and the stream of an OMRG (R255). -/
def mergeRoom (s : State) (asid merge : Nat) (fs : List (Nat × Frag)) (die : Nat) : Bool :=
  let m := mergeUnit s die
  let new := (fs.filter fun f => f.1 = die ∧ !f.2.close).length
  decide (fragsAt m + new ≤ 4096) && decide (((asid, merge) :: streamsAt m).eraseDups.length ≤ 16)

/-- Put a fragment on its way. -/
def sendFrag (s : State) (x : Nat × Frag) : State :=
  let m := mergeUnit s x.1
  let s := setMerge s { m with transit := m.transit ++ [{ x.2 with id := s.nextId }] }
  { s with nextId := s.nextId + 1 }

/-- The fragments of an OMRG's active threads, and its closes, with their dies (R252, R253). -/
def fragsOf (s : State) (g : Group) (q : QEntry) (f : LaneForm) (close : Bool) (act : List Nat) (merge : Nat)
    (d : BitVec 512) : List (Nat × Frag) :=
  let blank : Frag := { id := 0, core := g.core, grid := g.grid, asid := g.asid, merge := merge
                        q := (capOf q 3).setWidth 32, close := false, pos := 0, val := 0, info := d, left := 0, drop := false }
  let sent := act.filter fun t => (opA g f t).getLsbD 35 && mergeOk d
  let one := fun (t : Nat) =>
    let p := opA g f t
    (pixelDie s (nbits p.toNat 0 16) (nbits p.toNat 16 16), { blank with pos := p, val := opB g q f t })
  sent.map one ++ (if close then tab (dieCount s) fun k => (k, { blank with close := true }) else [])

/-- Count discarded fragments in their merge record (R252), by a write that checks no permission; where the record's page is no
longer mapped, or has pq set, they go uncounted (DESIGN CHOICE, log 66). -/
def countDrops (s : State) (asid merge n : Nat) : State :=
  match n, devicePa s asid (merge + 32) {} with
  | 0, _ => s
  | _, none => s
  | n + 1, some pa => sliceWrite s pa (leBytes 8 (cohNat s pa 8 + n + 1))

/-- The fragments that an OMRG with an invalid record discards (R252). -/
def badFrags (g : Group) (f : LaneForm) (act : List Nat) (d : BitVec 512) : Nat :=
  if mergeOk d then 0 else (act.filter fun t => (opA g f t).getLsbD 35).length

/-- OMRG: ALIGN, the probe of the merge record, then its fragments and closes are sent, when every die that they
go to has room (R252, R255, R372). With no active thread and no close it does nothing. -/
def execOmrg (f : LaneForm) (seq : SReg) (close : Bool) (s : State) : Host.Outcome State Fault Refusal :=
  .next (laneExec s (.omrg f seq close) fun g q =>
    let act := actives g q f
    let u := act.headD 0
    let x := (opdDword g q 1 f.c u).toNat
    if act = [] ∧ !close then setG s (entered g f)
    else if x % 64 ≠ 0 then trapLane s g tAlign x u
    else if fenced s g false then s
    else spilled s g (fun va => decide (x ≤ va ∧ va < x + 64)) fun s g => probeG s g true (asking needLoad [(u, x)]) fun s fs =>
      match fs with
      | [] => s
      | y :: _ =>
        if poisoned s y.pa 64 then consume s g 0 y.pa y.va needLoad.acc
        else
          let rd := readDesc s g (maskOf [u]) y.ok y.pa 64
          match rd.2 with
          | none => rd.1
          | some v =>
            let d := BitVec.ofNat 512 v
            let out := fragsOf rd.1 g q f close act x d
            if ((out.map Prod.fst).eraseDups).all (mergeRoom rd.1 g.asid x out) then
              let s := countDrops (setG rd.1 (entered g f)) g.asid x (badFrags g f act d)
              out.foldl sendFrag s
            else rd.1)

/-! ## The merge units -/

/-- Count a discarded fragment in its merge record (R252). -/
def countDrop (s : State) (f : Frag) : State := countDrops s f.asid f.merge 1

/-- Place of a fragment's sample: pixel x and y, sample (R249). -/
def fragX (f : Frag) : Nat := nbits f.pos.toNat 0 16
def fragY (f : Frag) : Nat := nbits f.pos.toNat 16 16
def fragS (f : Frag) : Nat := nbits f.pos.toNat 32 3

/-- Bytes of an element (R252). -/
def fragSize (f : Frag) : Nat := if mrOp f.info = 2 then 8 else 4

/-- The address of a fragment's element (R252). -/
def fragVa (f : Frag) : Nat :=
  (mrBase f.info + fragY f * mrPitch f.info + (fragX f * 2 ^ mrLs f.info + fragS f) * fragSize f) % 2 ^ 64

/-- Whether a fragment lies outside its surface (R253). -/
def fragOut (f : Frag) : Bool :=
  decide (mrWidth f.info ≤ fragX f) || decide (mrHeight f.info ≤ fragY f) || decide (2 ^ mrLs f.info ≤ fragS f)

/-- The new element, from the old one (R252). -/
def fragNew (f : Frag) (old : Nat) : Nat :=
  let v := f.val.toNat
  match mrOp f.info with
  | 0 => v % 2 ^ 32
  | 1 => min (v % 2 ^ 32) old
  | _ =>
    let b := dec .f32 (v / 2 ^ 32)
    let e := dec .f32 (old / 2 ^ 32)
    if !b.isNan && !e.isNan && decide (cmpV b e < 0) then v else old

/-- Whether a sequence number lies before another, modulo 2^32 (R253). -/
def seqBefore (q next : Word) : Bool := decide (2 ^ 31 ≤ (q - next).toNat)

/-- What an attempt to apply a fragment comes to. -/
inductive Applied where
  /-- It is applied or discarded. -/
  | done (s : State)
  /-- Its stream waits: for a number of pages or answers, or for its budget when there are none. -/
  | wait (s : State) (left : Nat)

/-- Apply a fragment: a plain write, when its page lets it (R252, R255, R372). A quarantined page discards it: no
unit of R283 restarts a fragment, and its grid is aborted. -/
def applyFrag (s : State) (die : Nat) (f : Frag) : Applied :=
  let va := fragVa f
  let n := fragSize f
  if f.drop then .done (countDrop s f)
  else match look s f.asid va needStore with
    | .ok pa _ =>
      let x := reach s (.frag f.id) clsDemand [pa / 64]
      let s := x.1
      if !x.2 then .wait s 0
      else
        let new := fragNew f (cohNat s pa n)
        let bad := poisoned s pa n && mrOp f.info != 0
        if bad then
          let s := addFault s 4 2 f.asid (srcMerge die) noGid va [pa, 2, 0, 0] none none die
          .done (abortGrid s f.grid (causeKind 4) die)
        else .done (writeBy s (worker noGid f.grid) pa (leBytes n new))
    | .devOnly => .done (countDrop s f)
    | .far => .wait s 0
    | .quar pa =>
      let s := addFault s 4 2 f.asid (srcMerge die) noGid va [pa, 3, 0, 0] none none die
      .done (abortGrid s f.grid (causeKind 4) die)
    | h => .wait (report s f.asid (srcMerge die) noGid va needStore h (.frag die f.id) (some f.grid) die) 1

/-- Replace a stream of a die's unit. -/
def setStreamAt (s : State) (die : Nat) (t : MergeStream) : State :=
  let m := mergeUnit s die
  setMerge s { m with streams := m.streams.map fun x => if x.asid = t.asid ∧ x.merge = t.merge then t else x }
def streamAt (s : State) (die asid merge : Nat) : Option MergeStream :=
  (mergeUnit s die).streams.find? fun t => t.asid == asid && t.merge == merge

/-- Apply what a stream holds of its next sequence, in arrival order, and advance past closed ones, until a
fragment has to wait (R253). -/
def drainStream (s : State) (die asid merge : Nat) : Nat → State
  | 0 => s
  | n + 1 =>
    match streamAt s die asid merge with
    | none => s
    | some t =>
      match t.held.find? fun f => f.q == t.next with
      | some f =>
        if f.left ≠ 0 then s
        else match applyFrag s die f with
          | .done s =>
            (match streamAt s die asid merge with
             | none => s
             | some t => drainStream (setStreamAt s die { t with held := t.held.filter fun x => x.id ≠ f.id }) die asid merge n)
          | .wait s left =>
            setStreamAt s die { t with held := t.held.map fun x => if x.id = f.id then { x with left := left } else x }
      | none =>
        if t.closed.contains t.next then
          let t := { t with next := t.next + 1, closed := t.closed.filter (· ≠ t.next) }
          drainStream (setStreamAt s die t) die asid merge n
        else s

/-- Enough turns for what a stream can hold and close. -/
def drainFuel (t : MergeStream) : Nat := t.held.length + t.closed.length + 2

def drainNow (s : State) (die asid merge : Nat) : State :=
  match streamAt s die asid merge with
  | none => s
  | some t => drainStream s die asid merge (drainFuel t)

/-- A fragment or close reaches its die: its stream is met (R253). At each die the grid that first named a stream is that of
the first fragment or close to arrive there (DESIGN CHOICE, log 62). -/
def meetStream (s : State) (die : Nat) (f : Frag) : State :=
  let m := mergeUnit s die
  let m := { m with transit := m.transit.filter fun x => x.id ≠ f.id }
  if m.streams.any (ofStream f) then setMerge s m
  else
    let t : MergeStream := { grid := f.grid, asid := f.asid, merge := f.merge, next := mrFirst f.info, closed := [], held := [] }
    setMerge s { m with streams := m.streams ++ [t] }

/-- Whether a fragment is the first of its core on the way to its die (R254). -/
def fragFirst (m : MergeUnit) (f : Frag) : Bool :=
  (m.transit.find? fun x => x.core == f.core).map (·.id) == some f.id

/-- A fragment arrives: discarded, or held and applied when its sequence is next (R253, R260). -/
def arriveFrag (s : State) (die : Nat) (f : Frag) : State :=
  let s := meetStream s die f
  match streamAt s die f.asid f.merge with
  | none => s
  | some t =>
    if fragOut f || seqBefore f.q t.next || t.closed.contains f.q then countDrop s f
    else drainNow (setStreamAt s die { t with held := t.held ++ [f] }) die f.asid f.merge

/-- A close arrives: the sequence is closed once (R253). -/
def arriveClose (s : State) (die : Nat) (f : Frag) : State :=
  let s := meetStream s die f
  match streamAt s die f.asid f.merge with
  | none => s
  | some t =>
    if seqBefore f.q t.next || t.closed.contains f.q then s
    else drainNow (setStreamAt s die { t with closed := f.q :: t.closed }) die f.asid f.merge

/-- Whether a grid's fragments, or closes, are on their way to a die or held there: its exit waits for them
(R255). -/
def gridFrags (s : State) (grid : Nat) : Bool :=
  s.merges.any fun m => m.transit.any (fun f => f.grid == grid) || m.streams.any fun t => t.held.any fun f => f.grid == grid

/-- The streams that a grid first named are freed as it exits; what they hold of other grids arrives anew (R255). -/
def freeStreams (s : State) (grid : Nat) : State :=
  { s with merges := s.merges.map fun m =>
      let gone := m.streams.filter fun t => t.grid = grid
      { m with streams := m.streams.filter fun t => t.grid ≠ grid
               transit := (gone.flatMap (·.held)) ++ m.transit } }

/-- FRAGMENT_ARRIVAL: a fragment reaches its die; one that is held there with its page resident, or that waited for
its budget, is tried again (R253, R372). -/
def execFragmentArrival (die id : Nat) (s : State) : Host.Outcome State Fault Refusal :=
  .next (let m := mergeUnit s die
    match m.transit.find? fun f => f.id == id && !f.close with
    | some f => if fragFirst m f then arriveFrag s die f else s
    | none =>
      match m.streams.find? fun t => t.held.any fun f => f.id == id with
      | some t => drainNow s die t.asid t.merge
      | none => s)

/-- STREAM_CLOSE: a close reaches its die (R253). -/
def execStreamClose (die id : Nat) (s : State) : Host.Outcome State Fault Refusal :=
  .next (let m := mergeUnit s die
    match m.transit.find? fun f => f.id == id && f.close with
    | some f => if fragFirst m f then arriveClose s die f else s
    | none => s)

end Sys2Proof.Machine
end

