-- ==== Sys2Proof/Machine/Gleaner.lean ====
section
/-! DEFINITION. Residency: batches, frames, evictions, fetches and the release of waiters; cleaning, the access
counters, the stack cache's background work, snoops and port failures (R119, R125 to R128, R195, R265 to R267,
R304, R305). -/

namespace Sys2Proof.Machine

/-! ## Releasing waiters (R263, R267) -/

/-- One of the pages or answers that a group waits for at its probe or code fetch has come. -/
def groupSettled (s : State) (g : Group) : Group :=
  match g.park with
  | .probe n => if 1 < n then { g with park := .probe (n - 1) } else wakeG s g
  | _ => g

/-- A code page has come: the stream that it froze goes on, and a group that parked at its fault is settled. -/
def fetchSettled (s : State) (lane : Bool) (g : Group) : Group :=
  let g := groupSettled s g
  if lane then { g with frozenL := false, missL := none } else { g with frozenS := false, missS := none }

/-- The block that a stream of a group on its core awaited has come with its page. -/
def codeCame (s : State) (gid : Nat) (lane : Bool) : State :=
  match findGroup s.groups gid with
  | none => s
  | some g =>
    match (if lane then g.missL else g.missS) with
    | none => s
    | some l => if sendable s [l] then codeFill s g.core l true else s

/-- One page or answer of a copy has come: it resumes from its record (R269). -/
def copySettled (c : Copy) : Copy :=
  match c.stage with
  | .faulted n => if 1 < n then { c with stage := .faulted (n - 1) } else { c with stage := .running }
  | _ => c

/-- One page or answer of a ray has come: with the last it is ready to resume (R240). -/
def raySettled (r : Ray) : Ray :=
  match r.stage with
  | .saved n => if 1 < n then { r with stage := .saved (n - 1) } else { r with stage := .ready }
  | _ => r

/-- Change the tile task of a crew, on whatever core holds its engine. -/
def mapTask (s : State) (grid crew key : Nat) (f : Task → Task) : State :=
  let one := fun (m : Matrix) =>
    { m with window := m.window.map fun t => if t.grid = grid ∧ t.crew = crew ∧ t.key = key then f t else t }
  { s with
    engines := s.engines.map fun e => (e.1, one e.2)
    saved := s.saved.map fun v => { v with engine := v.engine.map one } }

/-- Change a fragment that a die holds, or that is on its way there again (R255). -/
def mapFrag (s : State) (die key : Nat) (f : Frag → Frag) : State :=
  let m := mergeUnit s die
  let one := fun (x : Frag) => if x.id = key then f x else x
  setMerge s { m with streams := m.streams.map fun t => { t with held := t.held.map one }, transit := m.transit.map one }

/-- The stream that holds a fragment goes on (R372). -/
def fragGoes (s : State) (die key : Nat) : State :=
  match (mergeUnit s die).streams.find? fun t => t.held.any fun x => x.id == key with
  | some t => drainNow s die t.asid t.merge
  | none => s

/-- Release one waiter for one page or answer (R267). -/
def releaseWaiter (s : State) (w : Waiter) : State :=
  match w with
  | .group gid => mapGroup s gid (groupSettled s)
  | .fetch gid lane => mapGroup (codeCame s gid lane) gid (fetchSettled s lane)
  | .copy id => { s with copies := s.copies.map fun c => if c.id = id then copySettled c else c }
  | .task grid crew key half => mapTask s grid crew key fun t => { t with holds := t.holds.erase half }
  | .ray id => { s with rays := s.rays.map fun r => if r.id = id then raySettled r else r }
  | .samp gid => mapGroup s gid fun g => { g with samp := g.samp.map fun m => { m with left := m.left - 1 } }
  | .frag die key => fragGoes (mapFrag s die key fun x => { x with left := x.left - 1 }) die key
  | .add id => { s with adds := s.adds.map fun a => if a.id = id then { a with left := a.left - 1 } else a }
  | .packet q => { s with queues := s.queues.map fun x => if x.num = q then { x with left := x.left - 1 } else x }
  | .cont id => { s with conts := s.conts.map fun c => if c.id = id then { c with left := c.left - 1 } else c }
  | .shoot id => { s with xl := { s.xl with shoots := s.xl.shoots.map fun c => if c.id = id then { c with left := c.left - 1 } else c } }
  | .hint => s

/-- The order of waits: stamp, source, order of emission (R25, R267). -/
def waitBefore (x y : PageWait) : Bool :=
  if x.stamp ≠ y.stamp then decide (x.stamp.toNat < y.stamp.toNat)
  else if x.source ≠ y.source then decide (x.source < y.source)
  else decide (x.id ≤ y.id)

/-- Release every waiter on a page, in key order: those whose faults have reached the Gleaner, and those whose faults are on
their way (R267, R462). -/
def releasePage (s : State) (page : Nat) : State :=
  let mine := (s.waits.filter fun w => w.page == page).mergeSort waitBefore
  let s := { s with waits := s.waits.filter fun w => w.page ≠ page }
  mine.foldl (fun s w => releaseWaiter s w.waiter) s

/-! ## Batches (R265) -/

/-- The job of a page, if its Gleaner has one. -/
def jobOf (s : State) (page : Nat) : Option PageJob := s.jobs.find? fun j => j.page == page
def setJob (s : State) (j : PageJob) : State := { s with jobs := s.jobs.map fun x => if x.page = j.page then j else x }

/-- When a Gleaner's open batch opened, and its pages. -/
def batchOf (s : State) (gl : Nat) : Option Dword := (s.batches.find? fun b => b.1 == gl).map Prod.snd
def batchPages (s : State) (gl : Nat) : List PageJob := s.jobs.filter fun j => j.gleaner == gl && j.stage == .batch

/-- Ticks after which a batch closes, and pages at which it does (R265). -/
def batchTicks : Nat := 2000
def batchMax : Nat := 256

/-- Whether an open batch is due to close: its time is over, or it is full. -/
def batchDue (s : State) (gl : Nat) : Bool :=
  match batchOf s gl with
  | none => false
  | some t => decide (t.toNat + batchTicks ≤ s.pkg.time.toNat) || decide (batchMax ≤ (batchPages s gl).length)

/-- Whether a Gleaner can take a fault on a page now: a page that it has no job for waits while a batch is due to
close (R265, R286). -/
def takesPage (s : State) (page : Nat) : Bool :=
  resident s page || (jobOf s page).isSome || !batchDue s (gleanerOf page)

/-- A Gleaner takes a fault on a page: it joins the page's job, or adds the page to the open batch, which it opens if
none is (R265). -/
def takePage (s : State) (page : Nat) (stamp : Dword) (pref : Bool) : State :=
  match jobOf s page with
  | some j => setJob s { j with pref := j.pref && pref }
  | none =>
    let gl := gleanerOf page
    let s := if (batchOf s gl).isSome then s else { s with batches := (gl, s.pkg.time) :: s.batches }
    let j : PageJob := { gleaner := gl, page := page, stage := .batch, frame := 0, victim := none, stamp := stamp, pref := pref }
    { s with jobs := s.jobs ++ [j] }

/-- RESIDENCY_FAULT: a fault reaches its Gleaner; a page that has become resident meanwhile releases its waiter
(R265). -/
def execResidencyFault (id : Nat) (s : State) : Host.Outcome State Fault Refusal :=
  .next (match s.waits.find? fun w => w.id == id && !w.sent with
    | none => s
    | some w =>
      if resident s w.page then
        releaseWaiter { s with waits := s.waits.filter fun x => x.id ≠ id } w.waiter
      else if !takesPage s w.page then s
      else
        let s := { s with waits := s.waits.map fun x => if x.id = id then { x with sent := true } else x }
        takePage s w.page w.stamp w.pref)

/-- One page of a hint: dropped when it is resident, unmapped or protected; taken as prefetch traffic; or left until its tables
can be read and the Gleaner can take it (R23, R195). -/
def hintPage (asid : Nat) (x : State × List Nat) (va : Nat) : State × List Nat :=
  match look x.1 asid va needLoad with
  | .far => (x.1, x.2 ++ [va])
  | .absent pa =>
    if takesPage x.1 (pageOf pa) then (takePage x.1 (pageOf pa) x.1.pkg.time true, x.2) else (x.1, x.2 ++ [va])
  | _ => x

/-- GLEANER_HINT (R195). -/
def execGleanerHint (id : Nat) (s : State) : Host.Outcome State Fault Refusal :=
  .next (match s.hints.find? fun h => h.id == id with
    | none => s
    | some h =>
      let r := h.pages.foldl (hintPage h.asid) (s, [])
      let rest := fun (x : Hint) => if x.id = id then { x with pages := r.2 } else x
      { r.1 with hints := (r.1.hints.map rest).filter fun x => x.pages ≠ [] })

/-! ## Frames (R266) -/

/-- Frames that a job has been given and that hold no page yet. -/
def givenFrames (s : State) : List Nat :=
  (s.jobs.filter fun j => j.stage == .evict || j.stage == .fetch || j.stage == .coming).map (·.frame)

/-- Whether a frame is free, and whether any is. -/
def frameFree (s : State) (n : Nat) : Bool :=
  decide (n < s.pkg.nframes) && !(s.mem.frames.any fun f => f.num == n) && !(givenFrames s).contains n
def anyFree (s : State) : Bool :=
  decide (((s.mem.frames.map (·.num)) ++ givenFrames s).eraseDups.length < s.pkg.nframes)

/-- Whether a frame may be a victim: it is not pinned, and its page is in no open batch and is not being fetched. -/
def victimOk (s : State) (f : Frame) : Bool :=
  !f.gone && !(s.mem.pinned.any fun p => p.2.2 == f.page) && (jobOf s f.page).isNone

/-- Whether a frame holds dirty data: its own, or that of its sector in the LLC. -/
def frameDirty (s : State) (f : Frame) : Bool := f.dirty || s.mem.loc.any fun e => pageOf e.1 == f.page

/-- Whether a frame is the choice of R266: a free one, else the least recently used clean one, else the least
recently used dirty one. -/
def frameBest (s : State) (n : Nat) : Bool :=
  let old := s.mem.frames.filter (victimOk s)
  let clean := old.filter fun f => !frameDirty s f
  let pool := if clean = [] then old else clean
  if anyFree s then frameFree s n
  else pool.any fun f => f.num == n && pool.all fun x => decide (f.used ≤ x.used)

/-- Whether no frame is eligible. -/
def noFrame (s : State) : Bool := !anyFree s && !(s.mem.frames.any (victimOk s))

/-- Give a page a frame: the residency of its victim is withdrawn at once (R266). -/
def giveFrame (s : State) (j : PageJob) (n : Nat) : State :=
  match s.mem.frames.find? fun f => f.num == n with
  | none => setJob s { j with frame := n, victim := none, stage := .fetch }
  | some v =>
    let s := { s with mem := { s.mem with frames := s.mem.frames.map fun f => if f.num = n then { f with gone := true } else f } }
    setJob s { j with frame := n, victim := some v.page, stage := .evict }

/-- Choose frames for the pages of a batch, one after another, as the environment names them and R266 allows; `none`
when a choice is not allowed. -/
def chooseFrames (choice : List (Nat × Nat)) : State → List PageJob → Option State
  | s, [] => some s
  | s, j :: r =>
    if noFrame s then chooseFrames choice (setJob s { j with stage := .frame }) r
    else match choice.find? fun c => c.1 == j.page with
      | none => none
      | some c => if frameBest s c.2 then chooseFrames choice (giveFrame s j c.2) r else none

/-- GLEANER_BATCH_CLOSE (R265, R266). -/
def execGleanerBatchClose (gleaner : Nat) (frames : List (Nat × Nat)) (s : State) : Host.Outcome State Fault Refusal :=
  .next (if !batchDue s gleaner then s
    else match chooseFrames frames s (batchPages s gleaner) with
      | none => s
      | some s => { s with batches := s.batches.filter fun b => b.1 ≠ gleaner })

/-- GLEANER_FRAME_ELIGIBLE: a page that waits for a frame takes the first that becomes eligible (R266). -/
def execGleanerFrameEligible (gleaner page frame : Nat) (s : State) : Host.Outcome State Fault Refusal :=
  .next (match jobOf s page with
    | none => s
    | some j => if j.gleaner = gleaner ∧ j.stage = .frame ∧ frameBest s frame then giveFrame s j frame else s)

/-- Bytes of a page, and of a line. -/
def pageBytes : Nat := 4096
def lineSize : Nat := 64

/-- Whether an access that passed its probe to a page is still to be performed (R266). -/
def pageBusy (s : State) (page : Nat) : Bool :=
  s.reqs.any fun r => r.line / 64 == page && decide (r.stage < 2)

/-- Whether a page has dirty data anywhere on the package: in its frame, the LLC, an L1 or a stash (R266). -/
def pageDirty (s : State) (page : Nat) : Bool :=
  s.mem.frames.any (fun f => f.page == page && frameDirty s f) || s.mem.llc.any (fun e => pageOf e.1 == page) ||
  s.mem.l1.any (fun l => l.line / 64 == page && l.kind == .owned && l.bytes != []) ||
  s.crews.any fun c => c.stash.any fun e => (dirtyStash e).any fun f => f.2 / 64 == page

/-- Copies of a page go: cached lines are recalled, those that no home knows of among them (R379), the sector and the frame are
written back, and the streams lose the sector's lines (R125, R130, R266). -/
def evictPage (s : State) (page : Nat) : State :=
  let s := flushFrame (sectorLoses (flushLlc (recallPage s page) page) page) page
  { s with mem := { s.mem with
      l1 := s.mem.l1.filter fun l => l.line / 64 ≠ page || l.buffered
      frames := s.mem.frames.filter fun f => f.page ≠ page
      sectors := s.mem.sectors.filter fun p => p ≠ page } }

/-- Resources that moving a page charges: its frame's channel and its port, in one direction (R27, R28). -/
def pageResources (s : State) (page frame dir : Nat) : List Nat :=
  [resChan (frame % max 1 s.pkg.chans.length), resPort (portOf s (page * pageBytes)) dir]

/-- What an eviction charges: for a dirty page its frame's channel and its port, and for each of its lines the write-backs of
dirty copies to its slice (R27, R28, R266). -/
def evictResources (s : State) (page frame : Nat) : List Nat :=
  (if pageDirty s page then (List.replicate 64 (pageResources s page frame 1)).flatten else []) ++
  (List.range 64).flatMap fun k =>
    let line := 64 * page + k
    (List.replicate (dirtyCount s noCore line) (wbResources s line)).flatten

/-- GLEANER_EVICT: once every access that passed its probe has been performed, the victim goes, a dirty one as
migration traffic (R266). -/
def execGleanerEvict (gleaner page : Nat) (s : State) : Host.Outcome State Fault Refusal :=
  .next (match jobOf s page with
    | none => s
    | some j =>
      match j.victim with
      | none => s
      | some v =>
        if j.gleaner ≠ gleaner ∨ j.stage ≠ .evict ∨ pageBusy s v then s
        else
          let rs := evictResources s v j.frame
          let x := if rs = [] then (s, true) else claim s (.evict page) clsMigration lineSize rs
          if x.2 then setJob (evictPage x.1 v) { j with stage := .fetch, victim := none } else x.1)

/-- Whether a fetch is the next of its Gleaner: none with an earlier first stamp is still to be issued, and no frame
still holds the page from before (R266). -/
def fetchNext (s : State) (j : PageJob) : Bool :=
  !(s.mem.frames.any fun f => f.page == j.page) &&
  s.jobs.all fun x => !(x.gleaner == j.gleaner && decide (x.stamp.toNat < j.stamp.toNat) &&
    (x.stage == .evict || x.stage == .fetch))

/-- GLEANER_FETCH: the fetch of a page is issued, as migration traffic, or as prefetch traffic when only hints want
it (R27, R266). -/
def execGleanerFetch (gleaner page : Nat) (s : State) : Host.Outcome State Fault Refusal :=
  .next (match jobOf s page with
    | none => s
    | some j =>
      if j.gleaner ≠ gleaner ∨ j.stage ≠ .fetch ∨ !fetchNext s j then s
      else
        let x := claim s (.page page) (if j.pref then clsPrefetch else clsMigration) pageBytes (pageResources s page j.frame 0)
        if x.2 then setJob x.1 { j with stage := .coming } else x.1)

/-- PAGE_RESIDENT: the page is in its frame, and its waiters are released (R267). -/
def execPageResident (gleaner page : Nat) (s : State) : Host.Outcome State Fault Refusal :=
  .next (match jobOf s page with
    | none => s
    | some j =>
      if j.gleaner ≠ gleaner ∨ j.stage ≠ .coming then s
      else
        let f : Frame := { num := j.frame, page := page, dirty := false, used := s.pkg.time.toNat, gone := false }
        let s := { s with
          mem := { s.mem with frames := f :: s.mem.frames }
          jobs := s.jobs.filter fun x => x.page ≠ page }
        releasePage s page)

/-! ## Cleaning (R127) -/

/-- Whether a frame lies in the least recently used quarter of its channel. -/
def oldQuarter (s : State) (f : Frame) : Bool :=
  let c := max 1 s.pkg.chans.length
  let mine := s.mem.frames.filter fun x => x.num % c == f.num % c
  decide (4 * (mine.filter fun x => decide (x.used < f.used)).length < mine.length)

/-- Whether a line lies in a sector of the least recently used quarter of its slice. -/
def oldSector (s : State) (line : Nat) : Bool :=
  let mine := s.mem.sectors.filter fun p => homeSlice s p == homeSlice s (line / 64)
  decide (4 * (mine.length - 1 - mine.idxOf (line / 64)) < mine.length) && mine.contains (line / 64)

/-- Write back the dirty LLC bytes of one line, to its page's frame or to the pool. -/
def cleanLlcLine (s : State) (line : Nat) : State :=
  let mine := s.mem.llc.filter fun e => e.1 / 64 = line
  let m := { s.mem with llc := s.mem.llc.filter fun e => e.1 / 64 ≠ line }
  if s.mem.frames.any fun f => f.page == line / 64 then
    { s with mem := { m with
        loc := mine.foldl (fun c e => c.put e.1 e.2) m.loc
        frames := m.frames.map fun f => if f.page = line / 64 ∧ mine ≠ [] then { f with dirty := true } else f } }
  else { s with mem := mine.foldl (fun m e => poolPut m e.1 e.2) m }

/-- WINNOWER_CLEAN: a dirty line of the least recently used quarter of its slice, or a dirty frame of that quarter of its
channel, is written back and stays, within the cleaning budget; one that does not fit keeps its place, unless it is no longer one
of these (R29, R127). -/
def execWinnowerClean (frame : Bool) (unit : Nat) (s : State) : Host.Outcome State Fault Refusal :=
  .next (if frame then
      match s.mem.frames.find? fun f => f.num == unit && !f.gone with
      | none => s
      | some f =>
        if !frameDirty s f || !oldQuarter s f then leaveWait s (.clean frame unit)
        else
          let x := claim s (.clean frame unit) clsCleaning pageBytes (pageResources s f.page f.num 1)
          if x.2 then flushFrame x.1 f.page else x.1
    else if (s.mem.llc.any fun e => e.1 / 64 == unit) && oldSector s unit then
      let x := claim s (.clean frame unit) clsCleaning lineSize (reqResources s unit ++ behindSlice s (unit / 64) 1)
      if x.2 then cleanLlcLine x.1 unit else x.1
    else leaveWait s (.clean frame unit))

/-! ## Access counters (R128) -/

/-- ACCESS_COUNTER_HALVE: every 250 governor periods, once. -/
def execAccessCounterHalve (s : State) : Host.Outcome State Fault Refusal :=
  .next (if s.gov.halved < s.gov.periods / 250 then
      let half := fun (c : Cells Nat) => (c.map fun e => (e.1, e.2 / 2)).filter fun e => e.2 ≠ 0
      { s with
        gov := { s.gov with halved := s.gov.halved + 1 }
        mem := settlePosted { s.mem with own := half s.mem.own, far := half s.mem.far } }
    else s)

/-- Who made the most far accesses to a region: by counts for each agent that are never halved and never saturate, and the
first of the list on a tie; R128 says neither (DESIGN CHOICE, log 51). -/
def dominant (m : Mem) (k : Nat) : Nat :=
  ((m.farBy.filter fun e => e.1 = k).foldl (fun (a : Nat × Nat) e => if a.2 < e.2.2 then (e.2.1, e.2.2) else a) (0xFFFF, 0)).1

/-- Count an access by another package or by the host; at own + 64 the region's slice posts one migration request. -/
def countFar (s : State) (who line : Nat) : State :=
  let k := line / 1024
  let m := s.mem
  let n := ((m.farBy.find? fun e => e.1 = k ∧ e.2.1 = who).map fun e => e.2.2).getD 0
  let m := { m with
    far := m.far.set 0 k (min 255 (m.far.get 0 k + 1))
    farBy := (k, who, n + 1) :: m.farBy.filter fun e => !(e.1 == k && e.2.1 == who) }
  let own := m.own.get 0 k
  let far := m.far.get 0 k
  if own + 64 ≤ far ∧ !m.posted.contains k then
    let s := { s with mem := { m with posted := k :: m.posted, asked := k :: m.asked.filter (· ≠ k) } }
    addFault s 5 0 0 (srcSlice (homeSlice s (line / 64))) noGid 0 [k, dominant m k, own, far] none none 0
  else { s with mem := m }

/-! ## The stack cache (R119) -/

/-- A row that has left the window of the stack cache is no longer held (R119). -/
def dropRow (g : Group) (row : Nat) : Group := { g with rows := g.rows.filter fun x => x ≠ row }

/-- STACK_CACHE_FILL_SPILL: a row that has left the window is written back and is then no longer held, and one that has entered
it and is not held is fetched, both as demand traffic. -/
def execStackCacheFillSpill (gid row : Nat) (s : State) : Host.Outcome State Fault Refusal :=
  .next (match findGroup s.groups gid with
    | none => s
    | some g =>
      if !inStack g (256 * row) then s
      else if inWindow g row then (stackFetch s g (.spill gid) [256 * row]).1
      else
        let r := spillCharged s g (.spill gid) fun va => va / 256 == row
        if r.2 then mapGroup r.1 gid fun g => dropRow g row else r.1)

/-! ## Snoops and ports (R304, R305) -/

/-- Whether a line lies in host memory (R304). -/
def hostLine (line : Nat) : Bool := (64 * line).testBit 51

/-- HOST_SNOOP: on port 0, for a line of host memory (R303, R305). -/
def execHostSnoop (line : Nat) (s : State) : Host.Outcome State Fault Refusal :=
  .next (if hostLine line then snooped s line else s)

/-- BACK_INVALIDATE_SNOOP: on a pool port, for a line of pool memory; none arrives on port 0 (R303, R305). -/
def execBackInvalidateSnoop (line : Nat) (s : State) : Host.Outcome State Fault Refusal :=
  .next (if hostLine line ∨ (livePorts s).length ≤ 1 then s else snooped s line)

/-- Whether an accepted request is performed at a port of this package, a pod- or sys-scope atomic of a line that is homed here
(R150, R304). -/
def atPort (s : State) (port : Nat) (r : Req) : Bool :=
  atThePort r && !remote s r.line && r.stage == 1 && portOf s (64 * r.line) == port

/-- Whether an access is in flight on a port: a fetch of a page that is routed to it. -/
def onPort (s : State) (port page : Nat) : Bool :=
  portOf s (page * pageBytes) == port && s.jobs.any fun j => j.page == page && j.stage == .coming

/-- CXL_PORT_FAILURE: a pool port is disabled until the next reset, and what was in flight on it is answered as
poison (R304). `port` is its logical number, which stays (R21). -/
def execCxlPortFailure (port : Nat) (s : State) : Host.Outcome State Fault Refusal :=
  .next (if port = 0 ∨ !(livePorts s).contains port then s
    else
      let lost := (s.jobs.filter fun j => onPort s port j.page).map (·.page)
      let s := lost.foldl (fun s p => (tab 64 fun k => 64 * p + k).foldl markPoison s) s
      let hit := fun (r : Req) => { r with lost := r.lost || atPort s port r }
      let s := { s with reqs := s.reqs.map hit }
      { s with pkg := { s.pkg with portsDown := port :: s.pkg.portsDown } })

end Sys2Proof.Machine
end

