-- ==== Sys2Proof/Machine/Issue.lean ====
section
/-! DEFINITION. Which groups may issue, the binding of groups to pipes, the enqueueing of a run, code misses, and the
wait-cycle probe (R30, R38, R50, R54, R58 to R60, R219). -/

namespace Sys2Proof.Machine

/-- Whether a die may issue: it is enabled and its energy budget is not used up (R30). -/
def dieIssues (s : State) (core : Nat) : Bool := s.pkg.up && !s.gov.stopped.contains (dieOf s core)

/-- Whether the crews of a grid may run: those of a co-resident or persistent grid run while every one of them is
on a core or has exited (R54, R57). -/
def gridStarted (s : State) (grid : Nat) : Bool :=
  match findGrid s grid with
  | none => false
  | some r =>
    let here := decide (r.crews ≤ (s.crews.filter fun c => c.grid == grid).length + r.exited)
    match r.kind with
    | .cores => here
    | .persist => here
    | _ => true

/-- Whether a group's crew runs; one that drains goes on to its exit (R279). -/
def mayRun (s : State) (g : Group) : Bool :=
  s.pkg.up && !g.ended &&
  (match crewOf s g with
   | none => false
   | some c => match c.status with
     | .running => gridStarted s g.grid
     | .draining _ => true
     | _ => false)

/-- Whether a group may issue at all. -/
def canIssue (s : State) (g : Group) : Bool := dieIssues s g.core && mayRun s g

/-! ## The choice of a partition (R37, R50) -/

/-- Ticks within which a lane-pipe is free again after an instruction entered it: at most 64 clk of a double pass and a
hold of 31 clk (R34, R35). -/
def pipeTicks : Nat := 119

/-- The order of two groups: age, then a group that yielded after one that became ready otherwise, then resident slot
(R50, R61). -/
def olderGroup (x y : Group) : Bool :=
  if x.age ≠ y.age then decide (x.age.toNat < y.age.toNat)
  else if x.yielded ≠ y.yielded then y.yielded
  else decide (x.slot ≤ y.slot)

/-- Whether a group's scalar stream could proceed: it stands before an instruction, had no turn in this tick that did not
complete one, since a younger group of its partition last completed one, and awaits no result of its last load or atomic (R37,
log 46). -/
def scalarCould (s : State) (g : Group) : Bool :=
  g.offS != some s.pkg.time && !g.slow && g.park == .none && g.run.isEmpty && !g.frozenS && !g.frozenL && g.pairWait.isNone && canIssue s g

/-- Whether a group's lane stream could issue: it is ready and bound, its pipe is free and its queue is not empty (R50). -/
def laneCould (s : State) (g : Group) : Bool :=
  g.pipe.isSome && g.park == .none && !g.queue.isEmpty && canIssue s g &&
  (match g.offL with
   | none => true
   | some t => decide (t.toNat + pipeTicks ≤ s.pkg.time.toNat))

/-- Whether an older group of the partition could issue in a group's place (R37, R50, R57). -/
def passedOver (s : State) (g : Group) (could : State → Group → Bool) : Bool :=
  s.groups.any fun x => x.core == g.core && x.part == g.part && !olderGroup g x && could s x

/-- Groups whose scalar streams completed an instruction in a step: SPC moved. -/
def scalarMoved (old new : State) : List Group :=
  new.groups.filter fun y => (findGroup old.groups y.gid).any fun x => x.spc != y.spc

/-- Once a scalar instruction of a partition has completed, its older groups are asked again (R37). -/
def askAgain (old new : State) : State :=
  match scalarMoved old new with
  | [] => new
  | ys =>
    let one := fun (x : Group) =>
      if ys.any fun y => y.core == x.core && y.part == x.part && y.gid != x.gid && !olderGroup y x then { x with offS := none } else x
    { new with groups := new.groups.map one }

/-! ## Binding (R50) -/

/-- Lane-pipes of a partition (R49). -/
def partPipes : Nat := 16

/-- Whether a group waits for a pipe: it is ready, unbound, and its lane queue is non-empty. -/
def wantsPipe (s : State) (core part : Nat) (g : Group) : Bool :=
  g.core == core && g.part == part && g.pipe.isNone && g.park == .none && g.queue != [] && canIssue s g


/-- Pipes of a partition to which no group is bound. -/
def freePipes (s : State) (core part : Nat) : List Nat :=
  (List.range partPipes).filter fun p => !(s.groups.any fun g => g.core == core && g.part == part && g.pipe == some p)

/-- GROUP_BIND: the oldest group takes the lowest-numbered free pipe, the next oldest the next (R50). -/
def execGroupBind (core part : Nat) (s : State) : Host.Outcome State Fault Refusal :=
  .next (let gs := (s.groups.filter (wantsPipe s core part)).mergeSort olderGroup
    (gs.zip (freePipes s core part)).foldl (fun s x => setG s { x.1 with pipe := some x.2 }) s)

/-! ## The run of an SC.LRUN, and code misses (R38, R60) -/

/-- LANE_QUEUE_ENQUEUE: the next instruction of a run that waits for room is enqueued; with the last, SPC passes the
SC.LRUN (R38, R52). A run under way goes on when the die's energy is used up (R30). -/
def execLaneQueueEnqueue (gid : Nat) (s : State) : Host.Outcome State Fault Refusal :=
  .next (match findGroup s.groups gid with
    | none => s
    | some g =>
      match g.run with
      | [] => s
      | q :: r =>
        if !queueFree g || !mayRun s g then s
        else
          let g := { enqueueOne g q with run := r }
          setG s (if r = [] then nextSpc g else g))

/-- Whether a stream still awaits its code page, or the driver (R406). -/
def codeAwaited (s : State) (gid : Nat) (lane : Bool) : Bool :=
  s.waits.any (fun w => w.waiter == .fetch gid lane) || s.faults.any fun f => f.waiter == some (.fetch gid lane)

/-- The line that a stream awaits. -/
def missOf (g : Group) (lane : Bool) : Option Nat := if lane then g.missL else g.missS

/-- The block that a stream awaits is in its quad's cache, and the stream goes on (R60). -/
def fillCode (s : State) (g : Group) (lane : Bool) : State :=
  let s := match missOf g lane with
    | some l => codeFill s g.core l true
    | none => s
  setG s (if lane then { g with frozenL := false, missL := none } else { g with frozenS := false, missS := none })

/-- ICACHE_FILL_RETURN: the stream that the miss froze goes on, once the block's home can be reached (R23, R60). -/
def execIcacheFillReturn (gid : Nat) (lane : Bool) (s : State) : Host.Outcome State Fault Refusal :=
  .next (match findGroup s.groups gid with
    | none => s
    | some g =>
      if codeAwaited s gid lane || !sendable s (missOf g lane).toList then s
      else fillCode s g lane)

/-! ## The wait-cycle probe (R58, R59) -/

/-- Ticks between a blocked group's probes (R59). -/
def probeTicks : Nat := 65536

/-- Groups that have not ended, of a crew, whether it is on its core or saved. -/
def liveGroups (s : State) (p : Group → Bool) : List Group :=
  (s.groups ++ s.saved.flatMap (·.groups)).filter fun g => !g.ended && p g

/-- Whether a barrier object awaits one arrival of each of a crew's groups. -/
def crewSet (s : State) (grid crew expct : Nat) : Bool :=
  match anyCrew s grid crew with
  | some c => decide (c.gids.length = expct)
  | none => false

/-- The groups of a barrier's expected set that have not arrived in the phase and may still arrive (R58). A scoped barrier
expects the grid's groups of its network instance (R186). The spec does not say which groups an object expects: where it
awaits one arrival of each of the crew's groups they are its set, and else no releaser is known (log 19). -/
def barReleasers (s : State) (g : Group) (b : BarAt) : List Group :=
  match barVal s g b with
  | none => []
  | some v =>
    let set := match b with
      | .obj _ => if crewSet s g.grid g.crew v.expct then liveGroups s fun x => x.grid == g.grid && x.crew == g.crew else []
      | .net idx => liveGroups s fun x => x.grid == g.grid && netInst s x idx == netInst s g idx
    set.filter fun x => x.arrived.find (barKey b) != some v.gen

/-- The other core of a pair. -/
def otherCore (core : Nat) : Nat := if core % 2 = 0 then core + 1 else core - 1

/-- Whether a crew is on a core, where it runs and holds the engine. -/
def halfHere (s : State) (grid num : Nat) : Bool :=
  match findCrew s grid num with
  | none => false
  | some c => (engineOf s c.core).holder == some (grid, num) &&
    (match c.status with | .running => true | .draining _ => true | _ => false)

/-- Whether a paired task awaits a late half: a fault of a half is unresolved, or a half's crew is not restored (R219). -/
def lateTask (s : State) (t : Task) : Bool :=
  t.pair && (t.stage == .accepted || t.stage == .issued) &&
  (t.holds != [] || !halfHere s t.grid t.crew || !halfHere s t.grid t.mate)

/-- The late tasks of a crew's pair, wherever the even core's window is (R219). -/
def lateTasks (s : State) (g : Group) : List Task :=
  let windows := s.engines.flatMap (fun e => e.2.window) ++ s.saved.flatMap fun v => (v.engine.map (·.window)).getD []
  windows.filter fun t => t.grid == g.grid && (t.crew == g.crew || t.mate == g.crew) && lateTask s t

/-- The groups of the other crew of a pair, where a group waits in WAITT on the even core's timeline for a paired task that
awaits a late half (R218, R219). -/
def lateReleasers (s : State) (g : Group) : List Group :=
  match g.queue with
  | [] => []
  | q :: _ =>
    match entryInstr q with
    | some (.waitt f _) =>
      let hits := fun (t : Task) => (actives g q f).any fun u =>
        waitPa s g.asid (opdDword g q 0 f.b u).toNat == (anyCrew s t.grid t.crew).map (·.tasks.word) &&
        decide (tkSeq t.desc ≤ (opdDword g q 1 f.c u).toNat)
      let others := ((lateTasks s g).filter hits).map fun t => if t.crew = g.crew then t.mate else t.crew
      liveGroups s fun x => x.grid == g.grid && others.contains x.crew
    | _ => []

/-- The unexited groups of the grids that add to the completion counter on which a group waits in TWAIT (R58). -/
def counterReleasers (s : State) (g : Group) : List Group :=
  match g.queue with
  | [] => []
  | q :: _ =>
    match entryInstr q with
    | some (.twait _ _ _ _) =>
      let adds := s.grids.filter fun r => r.asid == g.asid && !r.done && r.ctr != 0 && r.ctr.toNat / 8 == (capOf q 0).toNat / 8
      liveGroups s fun x => adds.any fun r => r.id == x.grid
    | _ => []

/-- The releasers of a blocked group's target, and whether all of them are followed (R58). -/
def releasers (s : State) (g : Group) : List Group × Bool :=
  match g.target with
  | .barrier _ off => (barReleasers s g (.obj off), true)
  | .scoped idx => (barReleasers s g (.net idx), true)
  | .queue _ => (liveGroups s fun x => x.grid == g.grid && x.crew == g.crew && x.gid != g.gid, false)
  | .memory => (if g.park = .timeline then lateReleasers s g else counterReleasers s g, true)
  | .none => ([], true)

/-- Whether a group is blocked on a target that it publishes (R58). -/
def blocked (g : Group) : Bool := awaits g && g.target != .none

/-- Send a probe along a group's target: to every releaser of an all-of target, to the one that remains of an any-of
target, and else to none (R59). -/
def sendProbe (s : State) (g : Group) (p : Probe) : State :=
  let r := releasers s g
  if !r.2 ∧ r.1.length ≠ 1 then s
  else r.1.foldl (fun s x =>
    { s with nextId := s.nextId + 1, probes := s.probes ++ [{ p with id := s.nextId, dest := x.gid }] }) s

/-- WAIT_CYCLE_PROBE (R59). -/
def execWaitCycleProbe (gid : Nat) (s : State) : Host.Outcome State Fault Refusal :=
  .next (match findGroup s.groups gid with
    | none => s
    | some g =>
      if !blocked g || decide (s.pkg.time.toNat < g.probedAt.toNat + probeTicks) then s
      else
        let s := setG s { g with probedAt := s.pkg.time }
        sendProbe s g { id := 0, sender := gid, stamp := g.waitFrom, sent := s.pkg.time, dest := 0, chain := [gid] })

/-- The sender takes WAITCYCLE at the instruction at which it is blocked (R59, R271, R274). -/
def waitCycle (s : State) (g : Group) (p : Probe) : State :=
  let q := g.queue.headD default
  let thr := match entryInstr q with
    | some i => (match laneForm i with | some (_, f) => (actives g q f).headD 0 | none => 0)
    | none => 0
  takeTrap s g { code := tWaitcycle, info := p.chain.length, lane := true, thr := thr, tlpc := q.addr, chain := p.chain }

/-- A releaser passes a probe on, along its own target (R59). -/
def passProbe (s : State) (g : Group) (p : Probe) : State :=
  if !blocked g || decide (p.sent.toNat ≤ g.waitFrom.toNat) || g.carried.contains (p.sender, p.sent.toNat) then s
  else
    let g := { g with carried := (p.sender, p.sent.toNat) :: g.carried }
    sendProbe (setG s g) g { p with chain := p.chain ++ [g.gid] }

/-- PROBE_FORWARD: a probe reaches a releaser, or returns to its sender (R59). One that reaches a group whose crew is saved is
dropped: no rule says whether a group that stood blocked when it was saved is blocked (DESIGN CHOICE, log 55). -/
def execProbeForward (id : Nat) (s : State) : Host.Outcome State Fault Refusal :=
  .next (match s.probes.find? fun p => p.id == id with
    | none => s
    | some p =>
      let s := { s with probes := s.probes.filter fun x => x.id ≠ id }
      match findGroup s.groups p.dest with
      | none => s
      | some g =>
        if g.gid = p.sender then (if blocked g ∧ g.waitFrom = p.stamp then waitCycle s g p else s)
        else passProbe s g p)

end Sys2Proof.Machine
end

