-- ==== Sys2Proof/Machine/Launch.lean ====
section
/-! DEFINITION. Kernel descriptors, launches and their refusals, completion adds and continuations, the placement of
crews, handler groups, the Sower, and the exit of crews (R48, R49, R54, R153, R186, R192 to R197, R277, R278, R293 to
R296, R300, R400, R465). -/

namespace Sys2Proof.Machine

/-! ## Kernel descriptors (R293) -/

/-- Bytes of a scratchpad (R49). -/
def spadSize : Nat := 1536 * 1024

/-- Whether a near count and a depth are within their limits (R45). -/
def depthOk (near regs : Nat) : Bool :=
  decide (8 ≤ near) && decide (near ≤ 64) && near % 8 == 0 &&
  (regs == near || (regs % 8 == 0 && decide (72 ≤ regs) && decide (regs ≤ 2048)))

/-- A kernel descriptor that passes its checks (R293). -/
def kernelOf (addr x : Nat) : Option Kernel :=
  let k : Kernel :=
    { addr := addr, trapv := dw (nbits x 384 64), trapk := nbits x 320 64, lentry := dw (nbits x 256 64)
      sentry := dw (nbits x 192 64), scratch := nbits x 160 32, stack := nbits x 128 32, regs := nbits x 112 16
      near := nbits x 104 8, raydepth := nbits x 96 8, crew := nbits x 88 8, idem := x.testBit 0 }
  if nbits x 448 64 = 0 ∧ k.trapv.toNat % 4 = 0 ∧ vaOk k.trapv.toNat ∧ k.trapk % 64 = 0 ∧ k.lentry.toNat % 4 = 0 ∧
    k.sentry.toNat % 4 = 0 ∧ k.scratch % 256 = 0 ∧ k.scratch ≤ spadSize ∧ k.stack % 8 = 0 ∧ depthOk k.near k.regs ∧
    k.raydepth ≤ 64 ∧ 1 ≤ k.crew ∧ k.crew ≤ 32 ∧ nbits x 80 8 = 1 ∧ nbits x 1 79 = 0 then some k else none

/-- Where a die scheduler reads a kernel descriptor, resident or not. -/
def kernelAt (s : State) (asid addr : Nat) : Option Nat :=
  match look s asid addr needLoad with
  | .ok pa _ => some pa
  | .absent pa => some pa
  | _ => none

/-- Whether a kernel descriptor can be read now: its tables and its line can be reached (R23, R307). -/
def kernelOpen (s : State) (asid addr : Nat) : Bool :=
  walkOpen s asid addr && reachable s ((kernelAt s asid addr).toList.map fun pa => pa / 64)

/-- A die scheduler or the firmware meets a page that is quarantined: it consumes poison, for no group (R282, R285). -/
def unitPoison (s : State) (asid source pa va acc die : Nat) : State :=
  addFault s 4 acc asid source noGid va [pa, 3, 0, 0] none none die

/-- A die scheduler reads a kernel descriptor: its line is counted at its home slice, or its quarantined page is consumed (R125,
R128, R285). -/
def kernelRead (s : State) (asid addr die : Nat) : State :=
  let s := walked s asid addr
  match look s asid addr needLoad with
  | .ok pa _ => noteReads s [pa / 64]
  | .absent pa => noteReads s [pa / 64]
  | .quar pa => unitPoison s asid (srcSched (schedDie s die)) pa addr needLoad.acc die
  | _ => s

/-- The kernel descriptor at an address; one that cannot be read is not valid. -/
def readKernel (s : State) (asid addr : Nat) : Option Kernel :=
  (kernelAt s asid addr).bind fun pa => kernelOf addr (cohNat s pa 64)

/-! ## Resources (R49, R231) -/

/-- Scratchpad bytes of a group beside its crew's allocation: its deep area and its stack cache. -/
def groupArea (k : Kernel) : Nat := (if 64 < k.regs then (k.regs - 64) * 256 else 0) + (if k.stack = 0 then 0 else 8192)

/-- Scratchpad bytes of a crew that no instruction names. -/
def crewArea (k : Kernel) (groups cg : Nat) : Nat := groups * groupArea k + 256 * cg * k.raydepth

/-- Groups of a core, or of one of its partitions, that hold a slot. -/
def coreGroups (s : State) (core : Nat) : List Group := s.groups.filter fun g => g.core == core && !g.ended
def partGroups (s : State) (core part : Nat) : List Group := (coreGroups s core).filter fun g => g.part == part

/-- Register-file rows that are free in a partition. -/
def freeRows (s : State) (core part : Nat) : Nat := 512 - ((partGroups s core part).map (·.near)).sum

/-- Groups of a near count that a partition can still hold. -/
def partRoom (s : State) (core near part : Nat) : Nat :=
  min (32 - (partGroups s core part).length) (freeRows s core part / max 1 near)

/-- Crews on a core, wherever their grids are. -/
def coreCrews (s : State) (core : Nat) : List Crew := s.crews.filter fun c => c.core == core

/-- Scratchpad bytes in use on a core. The stack cache of a group that has ended counts as free with its deep area, of which
alone R400 says so (DESIGN CHOICE, log 56). -/
def spadUsed (s : State) (core : Nat) : Nat :=
  ((coreCrews s core).map fun c =>
    let k := ((findGrid s c.grid).map (·.k)).getD default
    c.size + crewArea k ((crewGroups s c.grid c.num).filter fun g => !g.ended).length c.gids.length).sum

/-- Whether an allocation may lie at an offset: inside the scratchpad, and clear of the other crews' allocations. -/
def allocFits (s : State) (core at' size : Nat) : Bool :=
  at' % 256 == 0 && decide (at' + size ≤ spadSize) &&
  (coreCrews s core).all fun c => size == 0 || c.size == 0 || decide (at' + size ≤ c.alloc) || decide (c.alloc + c.size ≤ at')

/-- Whether some offset, or the one that a restore needs, takes an allocation. -/
def allocRoom (s : State) (core size : Nat) (fixed : Option Nat) : Bool :=
  match fixed with
  | some a => allocFits s core a size
  | none => (0 :: (coreCrews s core).map fun c => c.alloc + c.size).any fun a => allocFits s core a size

/-- Whether a core can hold a crew of `cg` groups, of which `live` have not ended, under some assignment of those to
partitions (R49, R295). -/
def coreHolds (s : State) (core live cg : Nat) (k : Kernel) (fixed : Option Nat) : Bool :=
  decide (live ≤ ((List.range 16).map (partRoom s core k.near)).sum) &&
  decide (spadUsed s core + k.scratch + crewArea k live cg ≤ spadSize) && allocRoom s core k.scratch fixed

/-- Crews of a kernel that an empty core holds. -/
def emptyHolds (cg : Nat) (k : Kernel) : Nat :=
  let bySlots := 16 * min 32 (512 / max 1 k.near) / max 1 cg
  let bytes := k.scratch + crewArea k cg cg
  if bytes = 0 then bySlots else min bySlots (spadSize / bytes)

/-- Whether the named slots are free and keep every partition within its limits. -/
def slotsFit (s : State) (core near : Nat) (slots : List (Nat × Nat)) : Bool :=
  slots.eraseDups.length == slots.length &&
  slots.all fun p =>
    let mine := (slots.filter fun x => x.1 == p.1).length
    decide (p.1 < 16) && decide (p.2 < 32) && decide (mine ≤ partRoom s core near p.1) &&
    !(partGroups s core p.1).any fun g => g.slot == p.2

/-! ## Submitting a launch (R192 to R194, R294) -/

/-- Causes of a refused launch (R294). -/
def rfKernel : Nat := 1
def rfFit : Nat := 2
def rfSbar : Nat := 3
def rfCrew : Nat := 4
def rfCont : Nat := 5

/-- The logical cores of the package. -/
def coreCount (s : State) : Nat := 4 * s.pkg.quads.length

/-- A launch as the die scheduler takes it. -/
structure Submit where
  asid : Nat
  queue : Nat
  die : Nat
  rec' : BitVec 512
  /-- The item counts of a PERSIST packet. -/
  items : Option (Nat × Nat × Nat)
  deriving DecidableEq, Repr, Inhabited

/-- The kind of grid that a launch makes, and whether it takes scoped barriers (R54, R186). -/
def launchKind (x : Submit) : GridKind := if x.items.isSome then .persist else if lnCores x.rec' then .cores else .plain
def launchSbar (x : Submit) : Bool := x.items.isSome || lnSbar x.rec'

/-- Crews of a launch: one on every core for a persistent grid. -/
def launchCrews (s : State) (x : Submit) : Nat :=
  if x.items.isSome then coreCount s else lnGx x.rec' * lnGy x.rec' * lnGz x.rec'

/-- Grids that hold, or will hold, scoped barriers: each takes 16 of the package network's 64 (R186). -/
def sbarGrids (s : State) : Nat := (s.grids.filter fun r => r.sbar && !r.done).length

/-- The cause of a refusal, if a launch whose kernel is valid is refused. A grid with scoped barriers takes 16 in the
package network, so that network is the first to run short (R54, R186, R294). -/
def launchRefused (s : State) (x : Submit) (k : Kernel) (cg : Nat) : Option Nat :=
  if emptyHolds cg k = 0 then some rfCrew
  else if launchKind x = .cores ∧ emptyHolds cg k * coreCount s < launchCrews s x then some rfFit
  else if launchSbar x ∧ 4 ≤ sbarGrids s then some rfSbar
  else none

/-- A refused launch: an entry of kind 0x06, and the refusal add (R193). `id` is the number that a packet waits on. -/
def refuse (s : State) (x : Submit) (id cause : Nat) : State :=
  let r := x.rec'
  let s := addFault s 6 0 x.asid (srcSched (schedDie s x.die)) noGid 0 [nbits r.toNat 0 64, cause, 0, 0] none none x.die
  pushAdd s (some id) x.asid x.queue (dw (lnCtr r)) badDelta (lnThresh r) (dw (lnCont r)) true x.die

/-- Submit a launch that passed the checks of R192: the state, and the number of its grid (R193). -/
def submit (s : State) (x : Submit) : State × Nat :=
  let id := s.nextId
  let s := kernelRead { s with nextId := s.nextId + 1 } x.asid (lnKdesc x.rec') x.die
  match readKernel s x.asid (lnKdesc x.rec') with
  | none => (refuse s x id rfKernel, id)
  | some k =>
    let cg := if lnCg x.rec' = 0 then k.crew else lnCg x.rec'
    match launchRefused s x k cg with
    | some cause => (refuse s x id cause, id)
    | none =>
      let zero := tab s.pkg.dies.length fun _ => 0
      let r : Grid :=
        { id := id, asid := x.asid, queue := x.queue, kind := launchKind x, sbar := launchSbar x, prio := lnPrio x.rec'
          cg := cg, crews := launchCrews s x, args := dw (lnArgs x.rec'), ctr := dw (lnCtr x.rec')
          cont := dw (lnCont x.rec'), cthresh := lnThresh x.rec', k := k, placed := [], exited := 0, runSum := 0
          items := x.items.getD (0, 0, 0), lo := zero, hi := zero, origins := [], done := false }
      ({ s with grids := s.grids ++ [r] }, id)

/-- PENDING_LAUNCH_DRAIN: the oldest record of a group's buffer goes to its die's scheduler, once that can read the kernel's
descriptor (R23, R193). -/
def execPendingLaunchDrain (gid : Nat) (s : State) : Host.Outcome State Fault Refusal :=
  .next (match s.launches.find? fun l => l.gid == gid with
    | none => s
    | some l =>
      if !kernelOpen s l.asid (lnKdesc l.record) then s else
      let s := { s with launches := s.launches.erase l }
      (submit s { asid := l.asid, queue := l.queue, die := l.die, rec' := l.record, items := none }).1)

/-! ## Completion adds and continuations (R194, R465) -/

/-- An add leaves the list, and its grid is complete. -/
def endAdd (s : State) (a : Add) : State :=
  let s := { s with adds := s.adds.filter fun x => x.id ≠ a.id }
  match a.grid with
  | none => s
  | some id => gridComplete s id a.queue

/-- The continuation that an add calls for, when the low half of the counter equals the threshold (R194). -/
def pushCont (s : State) (a : Add) (v die : Nat) : State :=
  if a.test ∧ a.cont ≠ 0 ∧ v % 2 ^ 32 = a.cthresh then
    { s with nextId := s.nextId + 1
             conts := s.conts ++ [{ id := s.nextId, asid := a.asid, queue := a.queue, addr := a.cont, die := die, left := 0 }] }
  else s

/-- Whether what an add's write sent is on its way (R169). -/
def addSent (s : State) (a : Add) : Bool := s.coh.msgs.any fun m => m.gid == 2 ^ 33 + a.id

/-- An add that has been made ends once its write is performed, with the messages that it sent (R153, R169, R290). -/
def addWritten (s : State) (a : Add) : State :=
  if addSent s a then { s with adds := s.adds.map fun x => if x.id = a.id then { x with sent := true } else x } else endAdd s a

/-- Perform an add at the counter's home slice, where it is one step with its read, once its line can be reached (R27,
R194). -/
def addAt (s : State) (a : Add) (pa : Nat) : State :=
  let x := reach s (.add a.id) clsDemand [pa / 64]
  if !x.2 then x.1
  else
    let v := (cohNat x.1 pa 8 + a.delta.toNat) % 2 ^ 64
    let s := writeBy x.1 (device (2 ^ 33 + a.id)) pa (leBytes 8 v)
    addWritten (pushCont s a v (homeDie s pa)) a

/-- What a scheduler's access waits for: the Gleaner, or the driver (R465). -/
def schedReport (s : State) (asid die va : Nat) (n : Need) (h : Hit) (w : Waiter) (grid : Option Nat) : State :=
  report s asid (srcSched (schedDie s die)) noGid va n h w grid die

/-- A completion, refusal or abort add, once every access of its grid has been performed (R153, R194, R465). On a
quarantined page, which it consumes, it is abandoned, and so on a device-only one (R285; DESIGN CHOICE, log 42). -/
def doAdd (s : State) (id : Nat) : State :=
  match s.adds.find? fun a => a.id == id with
  | none => s
  | some a =>
    if a.sent then addWritten s a
    else if a.left ≠ 0 ∨ (a.grid.any fun r => !gridQuiet s r) then s
    else if a.ctr = 0 then endAdd s a
    else match look s a.asid a.ctr.toNat needAtomic with
      | .ok pa _ => addAt (learn s a.asid a.ctr.toNat) a pa
      | .quar pa => endAdd (unitPoison s a.asid (srcSched (schedDie s a.die)) pa a.ctr.toNat needAtomic.acc a.die) a
      | .devOnly => endAdd s a
      | .far => s
      | h =>
        let s := schedReport s a.asid a.die a.ctr.toNat needAtomic h (.add id) a.grid
        { s with adds := s.adds.map fun x => if x.id = id then { x with left := 1 } else x }

/-- The checks of a refused continuation's own counter (R194). -/
def ctrOk (r : BitVec 512) : Bool := lnCtr r != 0 && lnCtr r % 8 == 0 && vaOk (lnCtr r)

/-- A continuation record that was read is submitted, or refused with cause 5 (R194). -/
def submitCont (s : State) (c : Cont) (r : BitVec 512) : State :=
  if launchOk r then (submit s { asid := c.asid, queue := c.queue, die := c.die, rec' := r, items := none }).1
  else
    let s := addFault s 6 0 c.asid (srcSched (schedDie s c.die)) noGid 0 [nbits r.toNat 0 64, rfCont, 0, 0] none none c.die
    if ctrOk r then pushAdd s none c.asid c.queue (dw (lnCtr r)) badDelta (lnThresh r) (dw (lnCont r)) false c.die else s

/-- A die scheduler reads a continuation record, and with it the kernel's descriptor (R23, R194). R194 gives no outcome where the
record lies on a quarantined or a device-only page, or the driver answers trap or end: the continuation is dropped with no add
(DESIGN CHOICE, log 33). A quarantined page is consumed (R285). -/
def doCont (s : State) (id : Nat) : State :=
  match s.conts.find? fun c => c.id == id with
  | none => s
  | some c =>
    let gone := { s with conts := s.conts.filter fun x => x.id ≠ id }
    if c.left ≠ 0 then s
    else match look s c.asid c.addr.toNat needLoad with
      | .ok pa _ =>
        let r := BitVec.ofNat 512 (cohNat s pa 64)
        if launchOk r && !kernelOpen s c.asid (lnKdesc r) then s else
        let x := reach (learn s c.asid c.addr.toNat) (.add c.id) clsDemand [pa / 64]
        if x.2 then submitCont { x.1 with conts := gone.conts } c (BitVec.ofNat 512 (cohNat x.1 pa 64)) else x.1
      | .quar pa =>
        unitPoison gone c.asid (srcSched (schedDie s c.die)) pa c.addr.toNat needLoad.acc c.die
      | .devOnly => gone
      | .far => s
      | h =>
        let s := schedReport s c.asid c.die c.addr.toNat needLoad h (.cont id) none
        { s with conts := s.conts.map fun x => if x.id = id then { x with left := 1 } else x }

/-! ## Which crew is placed next (R295, R296) -/

/-- The next crew of a grid to be placed: crews are placed in their order. -/
def nextCrew (r : Grid) : Option Nat := if r.done then none else (List.range r.crews).find? fun c => !r.placed.contains c

/-- The order of dies for a crew: c mod D, then the lowest with room. -/
def dieOrder (s : State) (c : Nat) : List Nat := (c % dieCount s) :: List.range (dieCount s)

/-- The first core, in the order of R295, that satisfies a test. -/
def firstCore (s : State) (c : Nat) (ok : Nat → Bool) : Option Nat :=
  (dieOrder s c).findSome? fun d => (List.range (coreCount s)).find? fun k => dieOf s k == d && ok k

/-- Where the next crew of a grid goes, if there is room. -/
def coreFor (s : State) (r : Grid) (c : Nat) : Option Nat :=
  firstCore s c fun k => coreHolds s k r.cg r.cg r.k none && !(r.kind == .persist && (coreCrews s k).any fun x => x.grid == r.id)

/-- Whether a core has what a saved crew needs at once: groups that have ended need no slots and no rows (R281, R400). -/
def savedRoom (s : State) (r : Grid) (v : Saved) (core : Nat) : Bool :=
  coreHolds s core (v.groups.filter fun g => !g.ended).length r.cg r.k (some v.crew.alloc) &&
  decide (slotsTaken s core + v.subs.length ≤ 64) && (v.engine.isNone || (engineOf s core).holder.isNone) &&
  (!r.sbar || quadOf core == v.quad)

/-- The two crews of a pair are restored on the two cores of one pair: the other one runs beside this core, or could be
restored there (R219). -/
def pairFits (s : State) (r : Grid) (v : Saved) (core : Nat) : Bool :=
  match v.partner with
  | none => true
  | some p =>
    core % 2 == v.crew.core % 2 &&
    (match findCrew s v.crew.grid p, s.saved.find? fun x => x.crew.grid == v.crew.grid && x.crew.num == p with
     | some c, _ => c.core == otherCore core
     | none, some x => savedRoom s r x (otherCore core)
     | none, none => true)

/-- Whether a core can hold a saved crew (R186, R219, R281). -/
def savedFits (s : State) (r : Grid) (v : Saved) (core : Nat) : Bool := savedRoom s r v core && pairFits s r v core

/-- Where a saved crew goes, if there is room. -/
def coreForSaved (s : State) (v : Saved) : Option Nat :=
  match findGrid s v.crew.grid with
  | none => none
  | some r => firstCore s v.crew.num (savedFits s r v)

/-- Whether a queue has a crew to place or to restore, and whether one can be placed now. -/
def queueWaits (s : State) (q : Nat) : Bool :=
  (s.grids.any fun r => r.queue == q && (nextCrew r).isSome) ||
  s.saved.any fun v => ((findGrid s v.crew.grid).map (·.queue)) == some q
def gridPlaceable (s : State) (r : Grid) : Bool :=
  match nextCrew r with
  | none => false
  | some c => (coreFor s r c).isSome
def queuePlaceable (s : State) (q : Nat) : Bool :=
  (s.grids.any fun r => r.queue == q && gridPlaceable s r) ||
  s.saved.any fun v => ((findGrid s v.crew.grid).map (·.queue)) == some q && (coreForSaved s v).isSome

/-- The effective priority of a queue. -/
def effOf (s : State) (q : Nat) : Nat := ((findQueue s q).map (·.eff)).getD 0

/-- Queues with live work. -/
def workQueues (s : State) : List Nat := (s.grids.map (·.queue)).eraseDups

/-- Whether a crew of a queue is on a core. -/
def queueRuns (s : State) (q : Nat) : Bool := s.crews.any fun c => ((findGrid s c.grid).map (·.queue)) == some q

/-- Ticks of a queue's time slice (R287), and whether it has run out. -/
def sliceTicks (q : HostQueue) : Nat := if q.slice = 0 then 100000 else 10000 * q.slice
def sliceSpent (s : State) (q : HostQueue) : Bool := q.spent || decide (q.sliceAt.toNat + sliceTicks q ≤ s.pkg.time.toNat)

/-- Whether a queue's slice has run out of time. -/
def ranOut (s : State) (q : HostQueue) : Bool := decide (q.sliceAt.toNat + sliceTicks q ≤ s.pkg.time.toNat)

/-- Where the round robin of a priority starts: at the queue to which it gave its last slice, and behind it once that slice has
run out (R296). -/
def rrFrom (s : State) (level : Nat) : Nat :=
  let h := s.rr.get 0 level
  if (findQueue s h).any (ranOut s) then h + 1 else h

/-- Whether a queue comes before another of its effective priority, or is it, in the round robin by number (R296). -/
def rrFirst (s : State) (a b : Nat) : Bool :=
  let r := rrFrom s (effOf s a)
  if decide (r ≤ a) = decide (r ≤ b) then decide (a ≤ b) else decide (r ≤ a)

/-- Whether two queues of which no crew runs became ready in the same clk (R297). -/
def readyAlike (s : State) (a b : Nat) : Bool :=
  !queueRuns s a && !queueRuns s b && ((findQueue s a).map (·.readyAt)) == ((findQueue s b).map (·.readyAt))

/-- Of some queues of one priority, the one that is served: the first in the round robin, and of those that became ready
with it the lowest number (R296, R297). -/
def servedFirst (s : State) (qs : List Nat) : Option Nat :=
  match qs.find? fun a => qs.all fun b => rrFirst s a b with
  | none => none
  | some f => (qs.filter fun b => b == f || readyAlike s f b).min?

/-- Whether aging has lifted a queue to the priority of a queue that runs: it waits for that queue's slice to end (R297). -/
def agedBehind (s : State) (q : Nat) : Bool :=
  match findQueue s q with
  | none => false
  | some x => decide (x.prio < x.eff) && s.queues.any fun y =>
      y.num != q && y.eff == x.eff && queueRuns s y.num && !sliceSpent s y

/-- Whether crews of a queue whose slice has ended still drain or are saved: the room that they leave goes to its equals
first (R296). -/
def leaving (s : State) (q : Nat) : Bool := ((findQueue s q).map (·.spent)).getD false && queueRuns s q

/-- Whether it is a queue's turn: none of a higher effective priority waits, and of its own priority it is served first
among those that can be placed (R296, R297). -/
def queueTurn (s : State) (q : Nat) : Bool :=
  let peers := (workQueues s).filter fun x => x == q ||
    (queueWaits s x && effOf s x == effOf s q && (queuePlaceable s x || leaving s q) && !agedBehind s x)
  !agedBehind s q && servedFirst s peers == some q &&
  (workQueues s).all fun x => x == q || !queueWaits s x || decide (effOf s x ≤ effOf s q)

/-- Whether a grid goes before another of its queue: its launch priority, then the earlier launch (R296). -/
def gridBefore (a b : Grid) : Bool := if a.prio = b.prio then decide (a.id < b.id) else decide (b.prio < a.prio)

/-- Whether a crew of a grid can be placed or restored now. -/
def gridCan (s : State) (r : Grid) : Bool :=
  gridPlaceable s r || s.saved.any fun v => v.crew.grid == r.id && (coreForSaved s v).isSome

/-- Whether it is a grid's turn in its queue. -/
def gridTurn (s : State) (r : Grid) : Bool :=
  s.grids.all fun x => x.queue != r.queue || x.id == r.id || !(gridBefore x r && gridCan s x)

/-- Whether it is a crew's turn in its grid: no crew before it, saved or not placed yet, has room (R295). -/
def crewTurn (s : State) (r : Grid) (num : Nat) : Bool :=
  (s.saved.all fun v => v.crew.grid != r.id || decide (num ≤ v.crew.num) || (coreForSaved s v).isNone) &&
  (match nextCrew r with
   | some c => decide (num ≤ c) || (coreFor s r c).isNone
   | none => true)

/-- Whether the queue to which the round robin of a priority gave its last slice still has it, and work (R296). -/
def rrHeld (s : State) (level : Nat) : Bool :=
  (findQueue s (s.rr.get 0 level)).any fun h =>
    h.eff == level && !sliceSpent s h && (queueRuns s h.num || queueWaits s h.num)

/-- A queue begins a slice: the round robins of the priority at which it was served and of its own stand at it, but where another
queue there still has its slice (R296). -/
def beginSlice (before s : State) (q : HostQueue) (level : Nat) : State :=
  let give := fun (c : Cells Nat) (l : Nat) => if rrHeld before l then c else c.set 0 l q.num
  { s with rr := give (give s.rr level) q.prio }

/-- A crew of a queue has been placed: its effective priority returns to prio, and a slice begins where its last one has ended,
by time or by pre-emption; crews that all exit early leave it the rest of its slice (R296). -/
def placedQueue (before s : State) (q : Nat) : State :=
  match findQueue s q with
  | none => s
  | some x =>
    let old := (queueRuns before q && !x.spent) || !sliceSpent before x
    let s := if old then s else beginSlice before s x x.eff
    setQueue s { x with eff := x.prio, sliceAt := if old then x.sliceAt else s.pkg.time, spent := false }

/-! ## Placing a crew (R48, R153, R268, R295) -/

/-- Pages of a region of bytes. -/
def pagesFor (n : Nat) : Nat := (n + 4095) / 4096

/-- Pages of a group's replay area, and of its private stack (R119, R268). -/
def replayPages (k : Kernel) : Nat := pagesFor (5248 + 32 * raySize k.raydepth)
def stackPages (k : Kernel) : Nat := pagesFor (32 * k.stack)

/-- Pages that the firmware maps at successive addresses. -/
def firmRun (grid crew asid va page n : Nat) (rights : Nat → Bool × Bool) : List FirmMap :=
  tab n fun i => { grid := grid, crew := crew, asid := asid, vpage := va / 4096 + i, page := page + i
                   read := (rights i).1, write := (rights i).2 }

/-- The pages of a crew: its crew page, read-only; each group's replay area, of which programs reach the first page;
and each group's private stack. -/
def crewMaps (r : Grid) (c : Nat) (p : Placement) : List FirmMap :=
  firmRun r.id c r.asid p.crewPage (p.crewPool / 4096) 1 (fun _ => (true, false)) ++
  firmRun r.id c r.asid p.replay (p.replayPool / 4096) (r.cg * replayPages r.k)
    (fun i => (i % replayPages r.k == 0, i % replayPages r.k == 0)) ++
  firmRun r.id c r.asid p.stack (p.stackPool / 4096) (r.cg * stackPages r.k) (fun _ => (true, true))

/-- Whether the firmware's pages may be mapped: whole pages of the address space, at pool pages that nothing else of
the firmware's uses (log 9). -/
def mapsOk (s : State) (ms : List FirmMap) (p : Placement) : Bool :=
  [p.crewPage, p.crewPool, p.replay, p.replayPool, p.stack, p.stackPool].all (fun a => a % 4096 == 0) &&
  (ms.map (·.page)).eraseDups.length == ms.length && (ms.map (·.vpage)).eraseDups.length == ms.length &&
  ms.all fun m => vaOk (m.vpage * 4096) && decide (m.page < 2 ^ 40) &&
    s.xl.firm.all fun f => f.page != m.page && !(f.asid == m.asid && f.vpage == m.vpage)

/-- A fresh page of the firmware's reads 0: no copy of it stands anywhere. -/
def zeroPage (m : Mem) (page : Nat) : Mem :=
  { m with
    pool := m.pool.cut (4096 * page) 4096, loc := m.loc.cut (4096 * page) 4096, llc := m.llc.cut (4096 * page) 4096
    l1 := m.l1.filter fun l => l.line / 64 ≠ page
    invals := m.invals.filter fun i => i.line / 64 ≠ page
    past := m.past.cut (4096 * page) 4096
    poison := m.poison.filter fun l => l / 64 ≠ page }

/-- The state of a handler group's rows: origin tag, LPC, operand, and 0 (R278). -/
def originLanes (os : List (Nat × Nat × Dword × Dword × Nat)) : Cells Dword :=
  (os.zipIdx).foldl (fun c x =>
    let o := x.1
    Cells.set 0 (Cells.set 0 (Cells.set 0 c x.2 o.2.2.1) (32 + x.2) o.2.2.2.1) (64 + x.2) (dw o.2.2.2.2)) []

/-- A new group of a crew (R48). -/
def newGroup (s : State) (r : Grid) (c : Nat) (p : Placement) (gid i : Nat) : Group :=
  let base := p.stack + 4096 * stackPages r.k * (i + 1)
  let at' := p.slots.getD i (0, 0)
  let regs := [(1, r.args), (2, dw i), (3, dw p.alloc), (63, dw base)]
  let em : Dword := if r.kind = .handler then dw (2 ^ r.origins.length - 1) else 0xFFFFFFFF
  { (default : Group) with
    gid := gid, grid := r.id, crew := c, idx := i, core := p.core, asid := r.asid
    spc := r.k.sentry, lpc := r.k.lentry
    sregs := ((61, em) :: regs).foldl (fun m x => Cells.set 0 m x.1 x.2) []
    lanes := originLanes r.origins
    near := r.k.near, depth := r.k.regs, fmtword := 0x477, trapvec := r.k.trapv
    stkbase := dw base, stklimit := dw (base - 32 * r.k.stack)
    replay := dw (p.replay + 4096 * replayPages r.k * i)
    part := at'.1, slot := at'.2, age := s.pkg.time
    origins := r.origins.map fun o => (o.1, nbits o.2.2.1.toNat 0 8) }

/-- The instances of a network that a grid's crews occupy, those of saved crews included, and the groups in each (R186). -/
def netGroups (s : State) (grid net : Nat) : List (Nat × Nat) :=
  let gs := (s.groups ++ s.saved.flatMap (·.groups)).filter fun g => g.grid == grid
  let insts := gs.map fun g => netInst s g (64 * net)
  insts.eraseDups.map fun i => (i, (insts.filter fun x => x == i).length)

/-- The groups of a grid in an instance of a network that have not arrived at a scoped barrier in a phase. -/
def notArrived (s : State) (grid net inst slot gen : Nat) : Nat :=
  ((s.groups ++ s.saved.flatMap (·.groups)).filter fun g =>
    g.grid == grid && netInst s g (64 * net) == inst && g.arrived.find (2 ^ 21 + 64 * net + slot) != some gen).length

/-- A scoped barrier of an instance with `n` groups of its grid: newly armed, or held from before a crew of the grid was
flushed and placed again. It then expects the groups that are there, of which those that have arrived in its phase count,
and a phase that awaits none of them is complete (R186; DESIGN CHOICE, log 58). -/
def armedBar (s : State) (grid net inst slot n : Nat) : ScopedBar :=
  match s.sbars.find? fun b => b.grid == grid && b.net == net && b.inst == inst && b.slot == slot with
  | none => { grid := grid, net := net, inst := inst, slot := slot, expct := n, pend := n, gen := 0 }
  | some b => match notArrived s grid net inst slot b.gen with
    | 0 => { b with expct := n, pend := n, gen := (b.gen + 1) % 16 }
    | k => { b with expct := n, pend := k }

/-- Arm a grid's scoped barriers once all its crews are placed, in every instance that its crews occupy (R186). -/
def armBarriers (s : State) (r : Grid) : State :=
  if !r.sbar || decide (r.placed.length < r.crews) then s
  else
    let bars := (List.range 4).flatMap fun net =>
      (netGroups s r.id net).flatMap fun i => tab 16 fun slot => armedBar s r.id net i.1 slot i.2
    { s with sbars := (s.sbars.filter fun b => b.grid ≠ r.id) ++ bars }

/-- Place a crew: its pages, its groups and its contexts (R48, R153, R268). -/
def placeCrew (s : State) (r : Grid) (c : Nat) (p : Placement) : State :=
  let maps := crewMaps r c p
  let gs := tab r.cg fun i => newGroup s r c p (s.nextGid + i) i
  let word := p.crewPool
  let crew : Crew :=
    { grid := r.id, num := c, core := p.core, gids := gs.map (·.gid), alloc := p.alloc, size := r.k.scratch, stash := []
      copies := { (default : Ctx) with word := word }, tasks := { (default : Ctx) with word := word + 8 }
      crewPage := p.crewPage, place := p, status := .running, startAt := s.pkg.time.toNat, ran := 0 }
  let r := { r with placed := r.placed ++ [c] }
  let s1 := { s with
    mem := maps.foldl (fun m f => zeroPage m f.page) s.mem
    xl := { s.xl with firm := s.xl.firm ++ maps }
    groups := s.groups ++ gs
    crews := s.crews ++ [crew]
    nextGid := s.nextGid + r.cg }
  placedQueue s (armBarriers (setGrid s1 r) r) r.queue

/-- CREW_PLACE: the next crew of a grid, when it is its turn, on the core of R295 (R295, R296). -/
def execCrewPlace (grid : Nat) (p : Placement) (s : State) : Host.Outcome State Fault Refusal :=
  .next (match findGrid s grid with
    | none => s
    | some r =>
      match nextCrew r with
      | none => s
      | some c =>
        if !s.pkg.up || !queueTurn s r.queue || !gridTurn s r || !crewTurn s r c || coreFor s r c ≠ some p.core ||
          p.slots.length != r.cg || !slotsFit s p.core r.k.near p.slots || !allocFits s p.core p.alloc r.k.scratch ||
          !mapsOk s (crewMaps r c p) p then s
        else placeCrew s r c p)

/-! ## Handler groups (R277, R278) -/

/-- A grid of one handler group. -/
def handlerGrid (s : State) (r : Grid) (k : Kernel) (thrs : List (Nat × Nat × Dword × Dword × Nat)) : Grid :=
  { (default : Grid) with
    id := s.nextId, asid := r.asid, queue := r.queue, kind := .handler, prio := r.prio, cg := 1, crews := 1, k := k
    origins := thrs }

/-- The condition of a handler group's first thread. -/
def unitCode (c : Compact) : Nat := match c.thrs with | [] => tCheck | x :: _ => nbits x.2.2.1.toNat 0 8

/-- HANDLER_GROUP_LAUNCH: the oldest handler group of a grid that a die's compaction unit gathers is launched, once it
is full or 1000 ticks old. A lane-trap kernel whose descriptor is not valid, or whose group no core can hold, counts as
none (R277). -/
def execHandlerGroupLaunch (die grid : Nat) (s : State) : Host.Outcome State Fault Refusal :=
  .next (match s.compacts.find? fun c => c.die == die && c.grid == grid, findGrid s grid with
    | some c, some r =>
      if (c.thrs.length < 32 ∧ s.pkg.time.toNat < c.since.toNat + 1000) ∨ !kernelOpen s r.asid r.k.trapk then s
      else
        let s := kernelRead { s with compacts := s.compacts.erase c } r.asid r.k.trapk die
        let code := unitCode c
        match readKernel s r.asid r.k.trapk with
        | none => abortGrid s grid (causeTrap code) die
        | some k =>
          if emptyHolds 1 k = 0 then abortGrid s grid (causeTrap code) die
          else { s with nextId := s.nextId + 1, grids := s.grids ++ [handlerGrid s r k c.thrs] }
    | _, _ => s)

/-! ## The Sower (R196, R197) -/

/-- Items of a die's share: those whose number is the die's modulo D. -/
def shareOf (s : State) (r : Grid) (die : Nat) : Nat :=
  let n := r.items.1 * r.items.2.1 * r.items.2.2
  (n + dieCount s - 1 - die) / dieCount s

/-- Items of a die's share that have not been handed out. -/
def shareLeft (s : State) (r : Grid) (die : Nat) : Nat := shareOf s r die - r.lo.getD die 0 - r.hi.getD die 0

/-- The die with the most items left, the lower number on a tie. -/
def richest (s : State) (r : Grid) : Nat :=
  (List.range (dieCount s)).foldl (fun b d => if shareLeft s r b < shareLeft s r d then d else b) 0

/-- The next item for a die, and the grid that has handed it out; `none` when no item is left (R196). -/
def takeItem (s : State) (r : Grid) (die : Nat) : Option (Nat × Grid) :=
  if 0 < shareLeft s r die then
    let n := r.lo.getD die 0
    some (die + dieCount s * n, { r with lo := r.lo.set die (n + 1) })
  else
    let e := richest s r
    if shareLeft s r e = 0 then none
    else
      let n := r.hi.getD e 0
      some (e + dieCount s * (shareOf s r e - 1 - n), { r with hi := r.hi.set e (n + 1) })

/-- The 16 bytes of a mailbox for an item (R196, R197). -/
def itemBytes (r : Grid) (i : Nat) : List Byte :=
  let gx := max 1 r.items.1
  let gy := max 1 r.items.2.1
  leBytes 4 (i % gx) ++ leBytes 4 (i / gx % gy) ++ leBytes 4 (i / gx / gy) ++ leBytes 4 1

/-- The fetch of a die that came first. -/
def firstFetch (s : State) (die : Nat) : Option Group :=
  let gs := s.groups.filter fun g => dieOf s g.core == die && g.fetch.isSome
  let at' := fun (g : Group) => (g.fetch.getD (0, 0)).2
  gs.find? fun g => gs.all fun x => decide (at' g ≤ at' x)

/-- SOWER_DELIVER (R196, R197). -/
def execSowerDeliver (die : Nat) (s : State) : Host.Outcome State Fault Refusal :=
  .next (match firstFetch s die with
    | none => s
    | some g =>
      match g.fetch, gridOf s g with
      | some f, some r =>
        let s := setG s { g with fetch := none }
        (match takeItem s r die with
         | none => spadWrite s g.core f.1 (leBytes 12 0 ++ leBytes 4 2)
         | some x => spadWrite (setGrid s x.2) g.core f.1 (itemBytes r x.1))
      | _, _ => s)

/-! ## The exit of a crew (R153, R194, R400) -/

/-- Whether a crew's accesses are all performed: its requests, and the messages and invalidations of its writes, or of its
core's buffered stores (R153, R169, R194). -/
def crewQuiet (s : State) (c : Crew) : Bool :=
  (s.reqs.all fun r => !(c.gids.contains r.gid && r.kind != .pref && decide (r.stage < 2))) &&
  (underway s).all fun x => !x.1.cores.contains c.core && x.1.accs.all fun y => !c.gids.contains y.gid

/-- Whether a crew's groups, tasks and copies are all settled. -/
def crewSettled (s : State) (c : Crew) : Bool := c.copies.openN == [] && c.tasks.openN == [] && crewQuiet s c

/-- What goes home as a crew leaves: the buffered stores of its core, and then, once its accesses are performed, the lines
of its stash, both of which are charged; `false` while it waits (R121, R123, R131). -/
def crewHome (s : State) (c : Crew) : State × Bool :=
  let w := flushPaid s (.stash c.grid c.num) (c.gids.headD noGid) c.core none
  if w.2 && crewQuiet w.1 c then drainStash w.1 c (.stash c.grid c.num) fun _ => true else (w.1, false)

/-- The stream records of a crew are written as it leaves (R130). -/
def settleCrew (s : State) (c : Crew) : State :=
  (s.streams.filter fun t => t.grid == c.grid && t.crew == c.num).foldl (fun s t => dropStream s t.core t.slot) s

/-- The last crew of a grid has exited: its barriers and merge streams go, a PERSIST packet completes, and the
completion add follows (R186, R194, R253, R291). -/
def gridExits (s : State) (r : Grid) (die : Nat) : State :=
  let s := { s with sbars := s.sbars.filter fun b => b.grid ≠ r.id }
  let s := if r.kind = .persist then packetDone s r.queue (.grid r.id) else s
  let s := freeStreams (setGrid s { r with done := true }) r.id
  pushAdd s (some r.id) r.asid r.queue r.ctr 1 r.cthresh r.cont true die

/-- CREW_EXIT_COMPLETE (R400). The exit of a grid's last crew waits until its fragments have been merged (R194). The spec
does not name the die whose scheduler makes the completion add: it is the die where the last crew exited (DESIGN CHOICE, log
53). -/
def execCrewExitComplete (grid crew : Nat) (s : State) : Host.Outcome State Fault Refusal :=
  .next (match findCrew s grid crew, findGrid s grid with
    | some c, some r =>
      let last := decide (r.crews ≤ r.exited + 1)
      if c.status ≠ .exiting ∨ !crewSettled s c ∨ (last ∧ gridFrags s grid) then s
      else
        let x := crewHome s c
        if !x.2 then x.1
        else
        let s := removeCrew (settleCrew x.1 c) c
        let r := { r with exited := r.exited + 1, runSum := r.runSum + c.ran + (s.pkg.time.toNat - c.startAt) }
        if last then gridExits s r (dieOf s c.core) else setGrid s r
    | _, _ => s)

end Sys2Proof.Machine
end

