-- ==== Sys2Proof/Machine/Preempt.lean ====
section
/-! DEFINITION. Pre-emption, saves and restores, aging and adoption, soft errors and teardown (R53, R216, R219, R243,
R250, R259, R269, R279 to R285, R296, R300). -/

namespace Sys2Proof.Machine

/-! ## The decision (R279) -/

/-- What the scheduler does with a crew. -/
inductive Decision where
  | drain | flush | save
  deriving DecidableEq, Repr, Inhabited

/-- How long a crew has run. -/
def elapsed (s : State) (c : Crew) : Nat := c.ran + (s.pkg.time.toNat - c.startAt)

/-- Drain, flush and restart, or save, in this order (R279). The mean run time of the crews that have exited is
runSum / exited. -/
def decide' (s : State) (r : Grid) (c : Crew) : Decision :=
  if r.exited ≠ 0 ∧ r.runSum < r.exited * (elapsed s c + s.policy.drain) then .drain
  else if r.k.idem ∧ elapsed s c < s.policy.restart then .flush
  else .save

/-- The other crew of an active pair (R219). -/
def partnerOf (s : State) (c : Crew) : Option Crew :=
  if pairOn s c.core && (engineOf s c.core).holder == some (c.grid, c.num) then
    s.crews.find? fun x => x.grid == c.grid && x.core == otherCore c.core &&
      (engineOf s x.core).holder == some (x.grid, x.num)
  else none

/-- The decision for a crew; the two crews of a pair go the same way, and are saved when they would not, or when one of them
drains already (R219). -/
def decision (s : State) (r : Grid) (c : Crew) : Decision :=
  match partnerOf s c with
  | none => decide' s r c
  | some x => if x.status = .running ∧ decide' s r c = decide' s r x then decide' s r c else .save

/-- Put the paired tasks of a core's pair that have not committed back to their records. -/
def abortPaired (s : State) (core : Nat) : State :=
  let even := pairCore core
  let m := engineOf s even
  let again := fun (t : Task) =>
    if t.pair && (t.stage == .accepted || t.stage == .issued) then
      { t with stage := .accepted, prog := 0, prog1 := 0, staged := [], holds := [], flags := 0, fail := false, vpages := [] }
    else t
  let keys := (m.window.filter fun t => t.pair && (t.stage == .accepted || t.stage == .issued)).map (·.key)
  let s := dropWaiters s fun w => match w with
    | .task g c key _ => m.holder == some (g, c) && keys.contains key
    | _ => false
  if m.window.any (·.pair) then setEngine s even { m with window := m.window.map again } else s

/-- A pre-emption of a half of a pair aborts the paired tasks that have not committed: of the crew that holds its core's
engine (R219). -/
def abortHalf (s : State) (c : Crew) : State :=
  if (engineOf s c.core).holder = some (c.grid, c.num) then abortPaired s c.core else s

/-- Discard a crew, which is placed again from its launch state; its stash has been written back (R279). -/
def flushCrew (s : State) (r : Grid) (c : Crew) : State :=
  let s := abortHalf s c
  let s := c.gids.foldl dropVerdicts s
  let s := removeCrew s c
  let mine := fun (x : Copy) => x.queue.isNone && x.grid == c.grid && x.crew == c.num
  setGrid { s with copies := s.copies.filter fun x => !mine x } { r with placed := r.placed.erase c.num }

/-- A crew that runs or drains is to be saved, and with it the other crew of an active pair (R219). -/
def startSave (s : State) (c : Crew) : State :=
  let mate := (partnerOf s c).map (·.num)
  let stops := fun (x : Crew) => (match x.status with | .running => true | .draining _ => true | _ => false) &&
    x.grid == c.grid && (x.num == c.num || some x.num == mate)
  let one := fun (x : Crew) => if stops x then { x with status := .saving } else x
  { abortHalf s c with crews := s.crews.map one }

/-- Pre-empt a crew that is running (R279). -/
def preempt (s : State) (d : Decision) (c : Crew) : State :=
  match findGrid s c.grid, d with
  | none, _ => s
  | some _, .drain =>
    let one := fun (x : Crew) =>
      if x.grid = c.grid ∧ x.num = c.num ∧ x.status = .running then { x with status := .draining s.pkg.time.toNat } else x
    { s with crews := s.crews.map one }
  | some r, .flush => flushCrew s r c
  | some _, .save => startSave s c

/-- Crews of a queue that are running. -/
def runningCrews (s : State) (q : Nat) : List Crew :=
  s.crews.filter fun c => c.status == .running && ((findGrid s c.grid).map (·.queue)) == some q

/-- Whether a queue's fetcher is inside a packet: one that has started and has steps left, or one that it looks at and whose
pages it awaits. A queue that has stopped or been destroyed starts no packet, and goes on with those that have started
(R290, R292). -/
def inPacket (q : HostQueue) : Bool := (q.pkts.any fun p => p.2.steps) || (!q.stopped && !q.destroyed && q.left != 0)

/-- Whether work of a higher effective priority has no room, and this queue's slice has run longest of those that it may
pre-empt (R296). -/
def outranked (s : State) (q : HostQueue) : Bool :=
  (workQueues s).any fun x =>
    decide (q.eff < effOf s x) && queueWaits s x && !queuePlaceable s x &&
    s.queues.all fun y => y.num == q.num || !queueRuns s y.num || y.spent || decide (effOf s x ≤ y.eff) ||
      decide (q.sliceAt.toNat < y.sliceAt.toNat) || (q.sliceAt == y.sliceAt && decide (q.num < y.num))

/-- The dirty lines of the stashes of the crews that are to be flushed go home first, charged as demand traffic; `false` while
some wait (R27, R29, R121, R279). -/
def flushedHome (s : State) : List (Decision × Crew) → State × Bool
  | [] => (s, true)
  | d :: r =>
    let x := if d.1 = .flush then drainStash s d.2 (.stash d.2.grid d.2.num) fun _ => true else (s, true)
    if x.2 then flushedHome x.1 r else x

/-- TIME_SLICE_EXPIRY: the slice has run out, which a packet under way holds back, or a higher effective priority needs the
room (R279, R292, R296). A queue whose slice has run out comes after its equals; one that is outranked keeps its place. -/
def execTimeSliceExpiry (queue : Nat) (s : State) : Host.Outcome State Fault Refusal :=
  .next (match findQueue s queue with
    | none => s
    | some q =>
      let cs := runningCrews s queue
      if cs = [] ∨ !((sliceSpent s q && !inPacket q) || outranked s q) then s
      else
        let ds := cs.map fun c => (decision s ((findGrid s c.grid).getD default) c, c)
        let x := flushedHome s ds
        if !x.2 then x.1 else
        let s := ds.foldl (fun s d => preempt s d.1 d.2) x.1
        let rr := if sliceSpent s q ∧ !inPacket q then s.rr.set 0 q.eff queue else s.rr
        setQueue { s with rr := rr } { q with spent := true })

/-- DRAIN_TIMEOUT: after twice the drain threshold a drained crew is saved (R279). -/
def execDrainTimeout (grid crew : Nat) (s : State) : Host.Outcome State Fault Refusal :=
  .next (match findCrew s grid crew with
    | none => s
    | some c =>
      match c.status with
      | .draining t =>
        if s.pkg.time.toNat < t + 2 * s.policy.drain then s else startSave s c
      | _ => s)

/-! ## Saving (R53, R280) -/

/-- Kinds of result that a save converts: rays and samples into their records, a raster scan into its token, and a
try-wait, which is made again (R53, R184). -/
def converted (k : ResKind) : Bool := k == .trace || k == .samp || k == .rast || k == .tryBar

/-- Whether a result is to be delivered before a save: a TRACE or SAMP that has ended, and a try-wait whose condition has
held (R184, R244). -/
def dueResult (i : Inflight) : Bool :=
  ((i.kind == .trace || i.kind == .samp) && i.needs == 0) || (i.kind == .tryBar && i.sval != 0)

/-- Whether a ray in an engine slot has used up its steps: it ends with STEPS, and is not saved (R234, R236). -/
def rayEnds (r : Ray) : Bool := decide (r.budget ≤ r.steps) && (match r.stage with | .slot _ => true | _ => false)

/-- Whether a group's results have returned or can be converted, its stores have been performed with the messages that they
sent, and its fetch has been delivered (R53, R159, R169, R197). -/
def groupSaves (s : State) (g : Group) : Bool :=
  (g.infl.all fun i => converted i.kind && !dueResult i) && g.fetch.isNone &&
  (s.rays.all fun r => !(r.gid == g.gid && rayEnds r)) && (s.reqs.all fun r => !(r.gid == g.gid && r.kind != .pref)) &&
  s.coh.msgs.all fun m => m.gid != g.gid

/-- Whether no task that the engine computes runs: one that still awaits its accumulator, or the other half of a pair, does
not run yet (R209, R216, R219). -/
def engineSaves (s : State) (c : Crew) : Bool :=
  let m := engineOf s c.core
  m.holder != some (c.grid, c.num) ||
  m.window.all fun t => t.stage != .issued || tkKind t.desc == kTload || tkKind t.desc == kTstore || !accReady m t ||
    !pairReady s c.core t

/-- The raster scans of a group stop at a sample boundary, which the spec leaves open, and are delivered (R250). -/
def saveRasts (s : State) (g : Group) : State :=
  (g.infl.filter fun i => i.kind == .rast).foldl (fun s i =>
    let g := (findGroup s.groups g.gid).getD g
    let n := (Config.freeWord s.draws).toNat % (candCount (triOf i.caps) + 1)
    setG { s with draws := s.draws + 1 } (returnResult s g (cutRast i n))) s

/-- A running sampler stops at a texel boundary, with fva 0 in its record (R259). -/
def saveSamp (s : State) (g : Group) : State :=
  match g.samp with
  | none => s
  | some m => if m.fva.isNone then sampSave s g m 0 0 else s

/-- The rays of a group that are in engine slots are written out, each with steps left (R234, R243). -/
def saveRays (s : State) (g : Group) : State :=
  (s.rays.filter fun r => r.gid == g.gid && (match r.stage with | .slot _ => true | _ => false)).foldl
    (fun s r => saveRay s r 0) s

/-- Convert what a group has under way; its stack cache has been written back (R53, R119). -/
def saveGroup (s : State) (gid : Nat) : State :=
  let now := fun (s : State) => (findGroup s.groups gid).getD default
  let s := saveRasts s (now s)
  let s := saveSamp s (now s)
  let s := saveRays s (now s)
  setG s { now s with pipe := none, pairWait := none, rows := [] }

/-- Bytes of a crew's allocation, by offset; and its words that are poisoned. -/
def spadOf (s : State) (c : Crew) : Cells Byte :=
  (s.spad.filter fun e => decide (2 ^ 21 * c.core + c.alloc ≤ e.1) && decide (e.1 < 2 ^ 21 * c.core + c.alloc + c.size)).map
    fun e => (e.1 - 2 ^ 21 * c.core, e.2)
def badOf (s : State) (c : Crew) : List Nat :=
  (s.poisonSpad.filter fun x => x.1 == c.core && decide (c.alloc ≤ 4 * x.2) && decide (4 * x.2 < c.alloc + c.size)).map Prod.snd

/-- Whether no running copy that touches the crew's scratchpad is off a 64-byte boundary, and none owes its object a step, so
that all can be suspended (R191, R269). -/
def copiesHalt (s : State) (c : Crew) : Bool :=
  s.copies.all fun x => !(x.queue.isNone && x.grid == c.grid && x.crew == c.num && touchesSpad x) ||
    (x.owed == 0 && (x.stage != .running || cpBoundary x))

/-- The side of a copy that lies in the scratchpad: the source before the destination, and the barrier object where neither does
(R269). -/
def spadSide (c : Copy) : Nat := if cpSsp c.cmd then 0 else if cpDsp c.cmd then 1 else 2

/-- Copies that touch the crew's scratchpad are suspended (R269). -/
def suspendCopies (s : State) (c : Crew) : State :=
  let one := fun (x : Copy) =>
    if x.grid == c.grid && x.crew == c.num && touchesSpad x && x.stage == .running then
      { x with stage := .suspended, fva := 0, stamp := s.pkg.time, cause := 4, side := spadSide x, vpages := [] }
    else x
  { s with copies := s.copies.map one }

/-- The other crew of a pair that is being saved, which may have been saved already (R219). -/
def mateOf (s : State) (c : Crew) : Option Nat :=
  match s.saved.find? fun v => v.crew.grid == c.grid && v.partner == some c.num with
  | some v => some v.crew.num
  | none => (partnerOf s c).map (·.num)

/-- Write back the stack caches of a crew's groups, each once it has been charged; `false` while they wait (R27, R119). -/
def crewSpill (s : State) (c : Crew) : State × Bool :=
  c.gids.foldl (fun x gid =>
    match x.2, findGroup x.1.groups gid with
    | true, some g => spillCharged x.1 g (.spill gid) fun _ => true
    | _, _ => x) (s, true)

/-- The save of a crew (R280): its results are converted, its streams are settled, its subscriptions are recorded and end,
and it leaves its core. The size in the header is a free value: no rule states the layout in the driver's save area (log
34). -/
def saveCrew (s : State) (c : Crew) : State :=
  let partner := mateOf s c
  let s := c.gids.foldl saveGroup s
  let s := settleCrew s c
  let c := (findCrew s c.grid c.num).getD c
  let m := engineOf s c.core
  let held := m.holder == some (c.grid, c.num)
  let subs := s.coh.subs.filter fun b => b.crews.contains (c.grid, c.num)
  let clean := fun (e : Stash) => { e with filled := [], dirty := [] }
  let kept := { c with status := .running, stash := c.stash.map clean, ran := elapsed s c }
  let v : Saved :=
    { crew := kept, groups := crewGroups s c.grid c.num, spad := spadOf s c, bad := badOf s c
      engine := if held then some { m with window := m.window.map fun t => { t with vpages := [] } } else none, subs := subs, partner := partner, quad := quadOf c.core
      stamp := s.pkg.time, size := (Config.freeWord s.draws).toNat, version := 1 }
  let s := freeEngine (leaveSubs (suspendCopies s c) c.grid c.num) c.grid c.num
  { s with
    draws := s.draws + 1
    groups := s.groups.filter fun g => !(g.grid == c.grid && g.crew == c.num)
    crews := s.crews.filter fun x => !(x.grid == c.grid && x.num == c.num)
    poisonSpad := s.poisonSpad.filter fun x => !(x.1 == c.core && v.bad.contains x.2)
    saved := s.saved ++ [v] }

/-- The group of a crew whose settled pages the driver has answered with a trap that it has not taken yet, if any. -/
def trapDue (s : State) (c : Crew) : Option (Group × (Nat × Dword × Nat)) :=
  (crewGroups s c.grid c.num).findSome? fun g =>
    if g.park = .none ∧ !g.ended then g.answer.map fun a => (g, a) else none

/-- CREW_SAVE (R53, R280): a trap that a group of the crew is due to take comes first (R286). -/
def execCrewSave (grid crew : Nat) (s : State) : Host.Outcome State Fault Refusal :=
  .next (match findCrew s grid crew with
    | none => s
    | some c =>
      match (if c.status = .saving then trapDue s c else none) with
      | some x => trapG s { x.1 with answer := none } x.1.parkLane x.2.1 x.2.2.1.toNat x.2.2.2
      | none =>
      if c.status = .saving ∧ (crewGroups s grid crew).all (groupSaves s) ∧ engineSaves s c ∧ copiesHalt s c then
        let x := crewHome s c
        let y := if x.2 then crewSpill x.1 c else x
        if y.2 then saveCrew (followCore y.1 c.core c.gids) ((findCrew y.1 grid crew).getD c) else y.1
      else s)

/-! ## Restoring (R177, R281) -/

/-- Whether every page of an object may still be subscribed to. -/
def subPages (s : State) (asid : Nat) (o : Obj) : Bool := (objPages o).all fun va => (devicePa s asid va needSub).isSome

/-- The lines of an object that a core's L1 holds. -/
def objHeld (s : State) (core asid : Nat) (o : Obj) : List Nat :=
  heldLines s core asid o.num ((objPages o).filterMap fun va =>
    (devicePa s asid va needSub).map fun pa => (va / 4096, pageOf pa))

/-- What a core's L1 holds of some lines, dirty or buffered, goes home once it has been charged as demand traffic; `false`
while some waits (R27, R172). -/
def homeHeld (s : State) (core : Nat) : List Nat → State × Bool
  | [] => (s, true)
  | l :: r =>
    if !(s.mem.l1.any fun x => x.core == core && x.line == l && (x.kind == .owned || x.buffered)) then homeHeld s core r
    else
      let x := reachCore s core (.l1 core l) clsDemand [l]
      if x.2 then homeHeld (flushSi x.1 noGid core (some l)) core r else x

/-- What the core that a saved crew returns to holds of the objects that the crew subscribes to (R177). -/
def resubLines (s : State) (v : Saved) (core : Nat) : List Nat :=
  v.subs.flatMap fun b => match findObj s b.asid b.obj, b.stash with
    | some o, none => if (l1Sub s core b.asid b.obj).isNone then objHeld s core b.asid o else []
    | _, _ => []

/-- A crew's L1 subscription is made again as SUBP would, or stays ended (R177). -/
def resubL1 (s : State) (c : Crew) (b : Sub) (o : Obj) : State :=
  match l1Sub s c.core b.asid b.obj with
  | some x =>
    if x.fmt ≠ b.fmt ∨ x.update ≠ b.update then s
    else
      let join := fun (y : Sub) => if y = x then { y with crews := (c.grid, c.num) :: y.crews } else y
      { s with coh := { s.coh with subs := s.coh.subs.map join } }
  | none =>
    if 64 ≤ slotsTaken s c.core then s
    else
      let s := discardHeld s c.core (objHeld s c.core b.asid o)
      let b := { b with core := c.core, crews := [(c.grid, c.num)] }
      { s with coh := { s.coh with subs := b :: s.coh.subs } }

/-- The subscription of a stash entry is made again, or the entry traps on every access from then on (R174, R177). -/
def resubStash (s : State) (c : Crew) (b : Sub) (slot : Nat) : State :=
  let e := c.stash.find? fun e => e.slot == slot
  let fits := match e with | some e => stashFits s b.asid e | none => false
  if fits && decide (slotsTaken s c.core < 64) then
    let b := { b with core := c.core, crews := [(c.grid, c.num)] }
    { s with coh := { s.coh with subs := b :: s.coh.subs } }
  else
    let kill := fun (e : Stash) => if e.slot = slot then { e with dead := true } else e
    match findCrew s c.grid c.num with
    | none => s
    | some c => setCrew s { c with stash := c.stash.map kill }

/-- One recorded subscription (R177). R177 names no outcome where an element page no longer grants rd and suba, or is
unmapped, and none where the slot holds another object by now: the subscription stays ended, and the record in the slot is
subscribed to (DESIGN CHOICE, log 52). -/
def resubscribe (s : State) (c : Crew) (b : Sub) : State :=
  match findObj s b.asid b.obj, b.stash with
  | some o, none => if admits o.hfmt b.fmt && subPages s b.asid o then resubL1 s c b o else s
  | none, none => s
  | _, some slot => resubStash s c b slot

/-- A try-wait that was under way begins again with its full hint (R184). -/
def retryWait (time : Nat) (i : Inflight) : Inflight :=
  if i.kind = .tryBar then { i with aux := time + (i.caps.getD 3 0).toNat } else i

/-- A group of a restored crew in its new place (R53, R281). -/
def restoredGroup (s : State) (core : Nat) (slots : List (Nat × Nat)) (g : Group) : Group :=
  let at' := slots.getD g.idx (0, 0)
  { readyG s.pkg.time g with
    core := core, part := at'.1, slot := at'.2, pipe := none
    waitFrom := if g.park = .word then s.pkg.time else g.waitFrom
    infl := g.infl.map (retryWait s.pkg.time.toNat)
    frozenS := g.frozenS && codeAwaited s g.gid false
    frozenL := g.frozenL && codeAwaited s g.gid true }

/-- A saved crew returns to a core, which keeps no older copy than its threads have read (R136, R281). -/
def restoreCrew (s : State) (v : Saved) (p : Placement) : State :=
  let c := { v.crew with
    core := p.core, place := { v.crew.place with core := p.core, slots := p.slots }, startAt := s.pkg.time.toNat }
  let gids := c.gids
  let s := freshCore s p.core
  let spad := s.spad.cut (2 ^ 21 * p.core + c.alloc) c.size
  let resume := fun (x : Copy) =>
    if x.grid == c.grid && x.crew == c.num && touchesSpad x then
      { x with core := p.core, quad := quadOf p.core, stage := if x.stage = .suspended then .running else x.stage }
    else x
  let home := fun (r : Ray) => if gids.contains r.gid then { r with issuer := p.core } else r
  let bad := s.poisonSpad.filter fun x => !(x.1 == p.core && decide (c.alloc ≤ 4 * x.2) && decide (4 * x.2 < c.alloc + c.size))
  let s := { s with
    saved := s.saved.filter fun x => !(x.crew.grid == c.grid && x.crew.num == c.num)
    crews := s.crews ++ [c]
    groups := s.groups ++ v.groups.map (restoredGroup s p.core p.slots)
    spad := v.spad.foldl (fun m e => Cells.put m (2 ^ 21 * p.core + e.1) e.2) spad
    poisonSpad := v.bad.map (fun w => (p.core, w)) ++ bad
    copies := s.copies.map resume
    rays := s.rays.map home }
  let s := match v.engine with
    | some m => setEngine s p.core m
    | none => s
  v.subs.foldl (fun s b => resubscribe s c b) s

/-- CREW_RESTORE: a saved crew, when it is its queue's turn, on the core of R295 that meets its needs (R281). What that
core's L1 gives up for the crew's subscriptions goes home first (R172). -/
def execCrewRestore (grid crew : Nat) (p : Placement) (s : State) : Host.Outcome State Fault Refusal :=
  .next (match s.saved.find? fun v => v.crew.grid == grid && v.crew.num == crew, findGrid s grid with
    | some v, some r =>
      let live := (v.groups.filter fun g => !g.ended).map fun g => p.slots.getD g.idx (0, 0)
      if !s.pkg.up || !queueTurn s r.queue || !gridTurn s r || !crewTurn s r crew || coreForSaved s v ≠ some p.core ||
        p.alloc ≠ v.crew.alloc || p.slots.length != r.cg || !slotsFit s p.core r.k.near live then s
      else
        let x := homeHeld s p.core (resubLines s v p.core)
        if x.2 then placedQueue x.1 (restoreCrew x.1 v p) r.queue else x.1
    | _, _ => s)

/-! ## Aging and adoption (R296, R300) -/

/-- Whether a queue waits with no crew of it running (R296). -/
def queueStarved (s : State) (q : Nat) : Bool := queueWaits s q && !queueRuns s q

/-- Queues that begin to wait note when (R296, R297). -/
def markWaits (old new : State) : State :=
  let one := fun (q : HostQueue) =>
    if queueStarved new q.num && !queueStarved old q.num then { q with waitSince := new.pkg.time, readyAt := new.pkg.time } else q
  { new with queues := new.queues.map one }

/-- Ticks of waiting for each step of priority (R296). -/
def agingTicks : Nat := 1000000

/-- PRIORITY_AGING (R296). -/
def execPriorityAging (queue : Nat) (s : State) : Host.Outcome State Fault Refusal :=
  .next (match findQueue s queue with
    | none => s
    | some q =>
      if !queueStarved s queue || decide (3 ≤ q.eff) || decide (s.pkg.time.toNat < q.waitSince.toNat + agingTicks) then s
      else setQueue s { q with eff := q.eff + 1, waitSince := q.waitSince + dw agingTicks })

/-- SCHEDULER_FAILOVER: the next die's scheduler adopts what the failed one served (R300). -/
def execSchedulerFailover (die : Nat) (s : State) : Host.Outcome State Fault Refusal :=
  .next (
    let heir := schedDie s ((die + 1) % dieCount s)
    if dieCount s ≤ die ∨ heir = die ∨ s.fw.adopted.any (fun a => a.1 == die) then s
    else
      let move := fun (a : Nat × Nat) => if a.2 = die then (a.1, heir) else a
      { s with fw := { s.fw with adopted := (die, heir) :: s.fw.adopted.map move } })

/-! ## Soft errors and teardown (R282 to R285) -/

/-- The places of the quarantine list (R285). -/
def quarMax : Nat := 1024

/-- A page goes on the quarantine list; with the list full, an entry of kind 0x09 is made (R285). -/
def quarantine (s : State) (page : Nat) : State :=
  if s.mem.quar.contains page then s
  else if quarMax ≤ s.mem.quar.length then
    addFault s 9 0 0 (srcSlice (homeSlice s page)) noGid 0 [4096 * page, 0, 0, 0] none none 0
  else { s with mem := { s.mem with quar := page :: s.mem.quar } }

/-- The pages that hold poison. -/
def poisonPages (s : State) : List Nat := (s.mem.poison.map fun l => l / 64).eraseDups

/-- Everything of an address space is killed (R284, step 2 and 3): crews, saves, grids, launches, adds, copies, tasks,
rays, fragments, streams, objects and subscriptions. -/
def killSpace (s : State) (asid : Nat) : State :=
  let grids := (s.grids.filter fun r => r.asid == asid).map (·.id)
  let s := (s.crews.filter fun c => grids.contains c.grid).foldl removeCrew s
  let s := (s.coh.subs.filter fun b => b.asid == asid).foldl endSub s
  let quiet := fun (f : FaultRec) => if f.asid = asid then { f with waiter := none, grid := none } else f
  let halt := fun (q : HostQueue) => if q.asid = asid then q.stick fun _ => true else q
  { s with
    saved := s.saved.filter fun v => !grids.contains v.crew.grid
    xl := { s.xl with firm := s.xl.firm.filter fun f => !grids.contains f.grid }
    sbars := s.sbars.filter fun b => !grids.contains b.grid
    compacts := s.compacts.filter fun c => !grids.contains c.grid
    merges := grids.foldl (fun ms id => ms.map (dropFrags id)) s.merges
    grids := s.grids.filter fun r => r.asid ≠ asid
    launches := s.launches.filter fun l => l.asid ≠ asid
    adds := s.adds.filter fun a => a.asid ≠ asid
    conts := s.conts.filter fun c => c.asid ≠ asid
    copies := s.copies.filter fun c => c.asid ≠ asid
    rays := s.rays.filter fun r => r.asid ≠ asid
    hints := s.hints.filter fun h => h.asid ≠ asid
    queues := s.queues.map halt
    faults := s.faults.map quiet
    coh := { s.coh with
      objs := s.coh.objs.filter fun o => o.asid ≠ asid
      msgs := s.coh.msgs.filter fun m => m.asid ≠ asid } }

/-- Teardown of an address space (R284). -/
def teardown (s : State) (asid : Nat) : State :=
  let s := killSpace s asid
  let n := s.mem.quar.length
  let s := (poisonPages s).foldl quarantine s
  addFault s 8 0 asid (srcSched (schedDie s 0)) noGid 0 [s.mem.quar.length - n, 0, 0, 0] none none 0

/-- Address spaces with a live grid. -/
def liveSpaces (s : State) : List Nat := (s.grids.map (·.asid)).eraseDups

/-- Poison in engine storage: of the matrix engine, of a ray in a slot, or of the sampler (R282). -/
def poisonEngine (s : State) (core place : Nat) : State :=
  if place < 2 ^ 20 then
    let m := engineOf s core
    if m.bad.contains place then s else setEngine s core { m with bad := place :: m.bad }
  else if place < 2 ^ 21 then
    match (slotRays s core)[place - 2 ^ 20]? with
    | some r => setRay s { r with bad := true }
    | none => s
  else
    let at' := place - 2 ^ 21
    let hurt := fun (m : Samp) => { m with bad := true }
    let one := fun (g : Group) =>
      if g.core = core ∧ g.part = at' / 32 ∧ g.slot = at' % 32 ∧ !g.ended then { g with samp := g.samp.map hurt } else g
    { s with groups := s.groups.map one }

/-- An error in state that all crews of a core share is consumed by all their groups (R283). No cause of R282 names it, and its
entry has cause 0 and address 0 (DESIGN CHOICE, log 67). -/
def sharedError (s : State) (core : Nat) : State :=
  match s.groups.filter fun g => g.core == core && !g.ended with
  | [] => s
  | g :: r => consumeAll s (g :: r) (srcCore core) 0 0 0 g.asid (dieOf s core)

/-- Poison in a register row. A result under way that was to clean the row, together with what it zeroed as it entered, cleans it
no more where it leaves threads as they are. -/
def poisonRow (s : State) (gid row : Nat) : State :=
  let hurt := fun (i : Inflight) =>
    if i.rows.contains row ∧ i.mask ≠ BitVec.allOnes 32 ∧ i.kind ≠ .samp then { i with whole := false } else i
  { mapGroup s gid (fun g => { g with infl := g.infl.map hurt }) with
    poisonRows := if s.poisonRows.contains (gid, row) then s.poisonRows else (gid, row) :: s.poisonRows }

/-- SOFT_ERROR (R282 to R284). -/
def execSoftError (target : ErrTarget) (s : State) : Host.Outcome State Fault Refusal :=
  .next (match target with
    | .line pl => markPoison s pl
    | .spad core word => { s with poisonSpad := if s.poisonSpad.contains (core, word) then s.poisonSpad else (core, word) :: s.poisonSpad }
    | .row gid row => poisonRow s gid row
    | .engine core place => poisonEngine s core place
    | .shared core => sharedError s core
    | .orphan (some asid) => teardown s asid
    | .orphan none => (liveSpaces s).foldl teardown s)

end Sys2Proof.Machine
end

