-- ==== Sys2Proof/Machine/Power.lean ====
section
/-! DEFINITION. Bring-up, the time base, the activity governor's periods and power, ports of the pod, root pointers, bias,
and what the world outside does to memory (R18 to R23, R26 to R31, R111, R285, R304, R305, R307, R309). -/

namespace Sys2Proof.Machine

/-! ## Bring-up (R18, R20 to R22) -/

/-- Physical units whose bits are set, ascending. -/
def unitsOf (x n : Nat) : List Nat := (List.range n).filter fun k => x.testBit k

/-- Fields of the unit map (R20). -/
def umDies (u : BitVec 1024) : List Nat := unitsOf (nbits u.toNat 0 16) 16
def umQuads (u : BitVec 1024) (die : Nat) : List Nat := unitsOf (nbits u.toNat (128 + 32 * die) 32) 32
def umChans (u : BitVec 1024) : List Nat := unitsOf (nbits u.toNat 32 32) 32
def umPorts (u : BitVec 1024) : List Nat := unitsOf (nbits u.toNat 64 8) 8
def umLinks (u : BitVec 1024) : List Nat := unitsOf (nbits u.toNat 80 16) 16

/-- The checks of the unit map (R20). -/
def umapOk (u : BitVec 1024) : Bool :=
  let x := u.toNat
  nbits x 640 384 == 0 && nbits x 96 32 == 0 && nbits x 72 8 == 0 && x.testBit 64 && umChans u != [] &&
  nbits x 16 16 == 1 && umDies u != [] &&
  (List.range 16).all fun d => (umDies u).contains d == (umQuads u d != [])

/-- The units that an accepted descriptor enables, in their logical order (R18). Quads are kept as 32 × die + quad. -/
def enabled (u : BitVec 1024) (frames : Nat) (digest : BitVec 256) : Pkg :=
  { State.reset.pkg with
    up := true, dies := umDies u, quads := (umDies u).flatMap fun d => (umQuads u d).map fun q => 32 * d + q
    chans := umChans u, ports := umPorts u, links := umLinks u, nframes := frames, digest := digest }

/-- What outlives a package reset: memory outside the package, the firmware's images, floor and log, and the model's
counters. -/
def resetPackage (s : State) : State :=
  { State.reset with
    agenda := s.agenda, turns := s.turns, draws := s.draws, nextId := s.nextId
    mem := { State.reset.mem with pool := s.mem.pool }
    fw := { State.reset.fw with images := s.fw.images, floor := s.fw.floor, log := s.fw.log } }

/-- Frames of local memory on a channel: 3 GB of GDDR-7 each (R2, R122; log 44). -/
def chanFrames : Nat := 786432

/-- PACKAGE_RESET: the counter starts at 0 and the firmware checks the part descriptor; one that fails leaves the package
in bring-up with the cause in the log (R21, R22, R301). -/
def execPackageReset (umap : BitVec 1024) (frames : Nat) (body sig : List Byte) (s : State) :
    Host.Outcome State Fault Refusal :=
  .next (
    let s := resetPackage s
    let digest := Config.shake (leBytes 128 umap.toNat ++ body)
    if !Config.falconOk digest sig then logEvent s srcFirmware causeSignature
    else if !umapOk umap then logEvent s srcFirmware causeUnitMap
    else { s with pkg := enabled umap (min frames (chanFrames * (umChans umap).length)) digest })

/-! ## The pod (R23, R307) -/

/-- Ticks within which the package's counter must agree with the pod's (R22). -/
def podTolerance : Nat := 2

/-- POD_TIME_ALIGNED: a package behind the pod steps its counter forward; one that is ahead holds it until the pod has
caught up (R23). Of the boundaries of the governor that a step forward passes, each is a turn of its own, one after
another, and the last is the one after which memory is charged again (DESIGN CHOICE, log 53). -/
def execPodTimeAligned (podTime : Dword) (s : State) : Host.Outcome State Fault Refusal :=
  .next (
    if s.pkg.podPos.isNone ∨ s.pkg.podTraffic then s
    else if s.pkg.time.toNat < podTime.toNat then flushFaults { s with pkg := { s.pkg with time := podTime, podTraffic := true } }
    else if s.pkg.time.toNat ≤ podTime.toNat + podTolerance then { s with pkg := { s.pkg with podTraffic := true } }
    else s)

/-- A link goes down, or comes back (R307). -/
def setLink (s : State) (link : Nat) (down : Bool) : State :=
  let rest := s.pkg.linksDown.filter fun d => d.1 ≠ link
  { s with pkg := { s.pkg with linksDown :=
      if !down then rest else if (downSince s link).isSome then s.pkg.linksDown else (link, s.pkg.time) :: rest } }

/-- Ticks that a link may be down before its traffic is rerouted: 1 ms (R307). -/
def linkTicks : Nat := 1000000

/-- Whether the traffic for a destination is to take another link: it has none yet, or its link has been down for more than
1 ms (R307). -/
def needsRoute (s : State) (dest : Nat) : Bool :=
  match routeOf s dest with
  | none => true
  | some l => match downSince s l with
    | none => false
    | some t => decide (t + linkTicks < s.pkg.time.toNat)

/-- Whether a request that has been sent to a destination has not been acknowledged. -/
def onRoute (s : State) (dest : Nat) : Bool :=
  s.reqs.any fun r => r.stage != 0 && podHome s r.line == some dest && remote s r.line

/-- POD_LINK_REROUTE: once its link has been down for more than 1 ms and every request on the old route has been
acknowledged, the traffic for a destination takes another link (R307). -/
def execPodLinkReroute (dest link : Nat) (s : State) : Host.Outcome State Fault Refusal :=
  .next (
    if s.pkg.podPos.isNone ∨ s.pkg.links.length ≤ link ∨ (downSince s link).isSome ∨ !needsRoute s dest ∨ onRoute s dest then s
    else { s with pkg := { s.pkg with routes := (dest, link) :: s.pkg.routes.filter fun r => r.1 ≠ dest } })

/-! ## The activity governor (R26 to R31, R309) -/


/-- The resources that have budgets (R28). -/
def govResources (s : State) : List Nat :=
  tab s.pkg.quads.length resSlice ++ tab s.pkg.chans.length resChan ++
  (List.range s.pkg.ports.length).flatMap fun p => [resPort p 0, resPort p 1]

/-- Capacity of a resource in a period, and demand's floor there (R28). -/
def capacity (res : Nat) : Nat := if res < 4096 then 1000000 else if res < 8192 then 640000 else 512000
def demandFloor (res : Nat) : Nat := capacity res / 4

/-- The bytes that a list of budgets gives a class at a resource. -/
def givenTo (bs : List Budget) (res cls : Nat) : Nat := ((bs.filter fun b => b.res == res && b.cls == cls).map (·.bytes)).sum

/-- Whether budgets obey the limits of R28 at a resource. -/
def budgetOk (bs : List Budget) (res : Nat) : Bool :=
  decide (((List.range 6).map (givenTo bs res)).sum ≤ capacity res) &&
  decide (demandFloor res ≤ givenTo bs res clsDemand) && decide (capacity res ≤ 32 * givenTo bs res clsMigration) &&
  decide (capacity res ≤ 32 * givenTo bs res clsCleaning)

/-- The package's energy in a period, in nanojoules (R309). -/
def packageEnergy : Nat := 13600000

/-- Whether a set of energy budgets is within the package limit. -/
def energyOk (s : State) (e : List (Nat × Nat)) : Bool :=
  decide ((e.map Prod.snd).sum ≤ packageEnergy) && e.all fun x => decide (x.1 < s.pkg.dies.length)

/-- The budgets of a period, by 8 × resource + class. -/
def loadBudgets (s : State) (bs : List Budget) : Cells Nat :=
  (govResources s).foldl (fun c r => (List.range 6).foldl (fun c k => Cells.set 0 c (8 * r + k) (givenTo bs r k)) c) []

/-- A group of a die whose energy has run out: one that was ready parks, and is unbound (R30, R51). -/
def energyPark (s : State) (die : Nat) (g : Group) : Group :=
  if dieOf s g.core = die ∧ g.park = .none ∧ g.dim = false then { g with dim := true, pipe := none } else g

/-- GOVERNOR_PERIOD_BOUNDARY: fresh budgets are loaded, stopped dies issue again, with a new age for the groups that
they parked, and sleeping fetchers look again (R26, R29, R30, R51, R61, R289). Halved energy budgets stay halved until a period reads under the limit (R309). -/
def execGovernorPeriodBoundary (budgets : List Budget) (energy : List (Nat × Nat)) (s : State) :
    Host.Outcome State Fault Refusal :=
  .next (
    if !s.pkg.up ∨ s.pkg.time.toNat < nextPeriod s ∨ !(govResources s).all (budgetOk budgets) ∨ !energyOk s energy then s
    else
      let high := s.gov.overLimit && Config.freeBool s.draws
      let left := loadBudgets s budgets
      let eng := energy.foldl (fun c e => Cells.set 0 c e.1 (if high then e.2 / 2 else e.2)) []
      let age := fun (g : Group) => if g.dim then readyG s.pkg.time g else g
      { s with
        draws := s.draws + 1
        gov := { s.gov with left := left, given := left, energy := eng, stopped := [], periods := s.gov.periods + 1, overLimit := high }
        groups := s.groups.map age
        queues := s.queues.map fun q => { q with awake := true } })

/-- DIE_ENERGY_EXHAUSTED: the die stops, and its ready groups park and are unbound (R30, R51). -/
def execDieEnergyExhausted (die : Nat) (s : State) : Host.Outcome State Fault Refusal :=
  .next (
    if s.pkg.dies.length ≤ die ∨ s.gov.stopped.contains die then s
    else
      { s with gov := { s.gov with stopped := die :: s.gov.stopped }, groups := s.groups.map (energyPark s die) })

/-- POWER_LIMIT_EXCEEDED: the firmware halves every die's budget and logs the event (R309). -/
def execPowerLimitExceeded (s : State) : Host.Outcome State Fault Refusal :=
  .next (
    if !s.pkg.up ∨ s.gov.overLimit then s
    else
      let half := (s.gov.energy.map fun e => (e.1, e.2 / 2)).filter fun e => e.2 ≠ 0
      logEvent { s with gov := { s.gov with overLimit := true, energy := half } } srcFirmware causePower)

/-! ## Address spaces and bias (R111, R305) -/

/-- ROOT_POINTER_INSTALL: the address space is created, with cr.afflags 0 (R48, R111). -/
def execRootPointerInstall (asid : BitVec 12) (root : Nat) (s : State) : Host.Outcome State Fault Refusal :=
  .next (setAfflags { s with xl := { s.xl with roots := s.xl.roots.put asid.toNat (root % 2 ^ 52 / 4096 * 4096) } } asid.toNat 0)

/-- DEVICE_BIAS_SET: for a region of host memory that has posted a migration request (R128, R305). -/
def execDeviceBiasSet (region : Nat) (s : State) : Host.Outcome State Fault Refusal :=
  .next (
    if !(65536 * region).testBit 51 || s.pkg.bias.contains region || !s.mem.asked.contains region then s
    else { s with pkg := { s.pkg with bias := region :: s.pkg.bias } })

/-! ## The world outside (R128, R282, R285, R305) -/

/-- Write bytes into memory that is held nowhere on the package. -/
def poolPuts : Mem → Nat → List Byte → Mem
  | m, _, [] => m
  | m, pa, b :: r => poolPuts (poolPut m pa b) (pa + 1) r

/-- Lines that a write covers whole. -/
def wholeLines (pa n : Nat) : List Nat := (linesOf pa n).filter fun l => decide (pa ≤ 64 * l) && decide (64 * l + 64 ≤ pa + n)

/-- Poison leaves the lines that are written whole, and a page that is scrubbed leaves the quarantine list (R285). -/
def scrub (m : Mem) (pa n : Nat) : Mem :=
  let whole := wholeLines pa n
  { m with
    poison := m.poison.filter fun l => !whole.contains l
    quar := m.quar.filter fun p => !((List.range 64).all fun k => whole.contains (64 * p + k)) }

/-- The agent number of the host among those that access a region from outside (R128). -/
def hostWho : Nat := 0xFFFF

/-- Whether an access from outside arrives over a pod link: another package's, at a line whose home is here (R307). -/
def overPod (s : State) (who line : Nat) : Bool := s.pkg.podTraffic && who != hostWho && podHome s line == s.pkg.podPos

/-- Whether an access is another package's and does not come over the pod: to a line that is homed elsewhere, or to this
package's host memory, no package sends one here (R305, R307). -/
def strays (s : State) (who : Nat) (ls : List Nat) : Bool := who != hostWho && !ls.all (overPod s who)

/-- A pod request that arrives at its home slice: charged to the pod's class, and counted as a far access; it waits while
its budget does not admit it, or the demand budget the write-backs that it makes (R27, R29, R128). -/
def podReach (s : State) (who pa : Nat) (lines : List Nat) : State × Bool :=
  let w := recallsPaid s (.pod who pa) lines
  if !w.2 then w else
  let s := w.1
  let r := claim s (.pod who pa) clsPod 64 (lines.flatMap (reqResources s))
  if r.2 then (lines.foldl (fun s l => countFar (touchSector (useHome s l) l) who l) r.1, true) else r

/-- The host or another package writes bytes. A pod request writes at its home slice, as a write of the package's own does
(R168, R176, R307); a write of the host recalls its lines from every copy, the images included (R169, R305). -/
def outWrite (s : State) (who pa : Nat) (bs : List Byte) : State :=
  let ls := linesOf pa bs.length
  if strays s who ls then s
  else if ls.all (overPod s who) then
    let r := podReach s who pa ls
    if r.2 then
      let s := writeBy r.1 (device noGid) pa bs
      { s with mem := scrub s.mem pa bs.length }
    else r.1
  else
    let s := ls.foldl (fun s l => countFar (snooped s l) who l) s
    { s with mem := scrub (poolPuts s.mem pa bs) pa bs.length }

/-- The host or another package reads a line: owned dirty copies are written back first (R124, R305). -/
def outRead (s : State) (who pa : Nat) : State :=
  let l := pa / 64
  if strays s who [l] then s
  else if overPod s who l then
    let r := podReach s who pa [l]
    if r.2 then cleanLine r.1 l else r.1
  else countFar (snooped s l) who l

end Sys2Proof.Machine
end

