-- ==== Sys2Proof/Machine/HostQ.lean ====
section
/-! DEFINITION. The driver register block and its commands, shoot-downs, answers to faults, firmware updates and
attestation, and the packets of host queues (R116, R126, R177, R263, R287 to R292, R298 to R302, R306). -/

namespace Sys2Proof.Machine

/-! ## Queues and packets (R287 to R290) -/

/-- A pool address that the driver names: its low 52 bits (log 8). -/
def poolAt (x : Nat) : Nat := x % 2 ^ 52

/-- Bytes of a packet, and slots of a ring. -/
def packetBytes : Nat := 128
def ringSlots (q : HostQueue) : Nat := 2 ^ q.lsz

/-- The lines of the slot that the fetcher looks at next, and the packet there. -/
def packetLines (q : HostQueue) : List Nat := linesOf (poolAt (q.base + packetBytes * q.head)) packetBytes
def headPacket (s : State) (q : HostQueue) : BitVec 1024 :=
  BitVec.ofNat 1024 (cohNat s (poolAt (q.base + packetBytes * q.head)) packetBytes)

/-- Fields of a packet's header (R288), and its payload by bits. -/
def pkKind (p : BitVec 1024) : Nat := nbits p.toNat 0 8
def pkPhase (p : BitVec 1024) : Bool := p.getLsbD 8
def pkOrd (p : BitVec 1024) : Bool := p.getLsbD 9
def pkBits (p : BitVec 1024) (lo n : Nat) : Nat := nbits p.toNat lo n

/-- Kinds of packet (R288). -/
def pkDispatch : Nat := 1
def pkPersist : Nat := 2
def pkCopy : Nat := 3
def pkSignal : Nat := 4
def pkWritesignal : Nat := 5
def pkWaittl : Nat := 6
def pkNop : Nat := 7

/-- The record or command that a packet holds in bits [575:64]. -/
def pkRecord (p : BitVec 1024) : BitVec 512 := p.extractLsb' 64 512

/-- A PERSIST packet's launch record without the fields that are ignored (R291). -/
def persistRecord (p : BitVec 1024) : BitVec 512 :=
  let r := (pkRecord p).toNat
  let drop := fun (x lo n : Nat) => x - nbits x lo n * 2 ^ lo
  BitVec.ofNat 512 (drop (drop r 64 48) 386 2)

/-- A COPY packet's command without the fields that are ignored (R291). -/
def packetCommand (p : BitVec 1024) : BitVec 512 :=
  let r := (pkRecord p).toNat
  let drop := fun (x lo n : Nat) => x - nbits x lo n * 2 ^ lo
  BitVec.ofNat 512 (drop (drop r 10 3) 16 48)

/-- The checks of a packet (R288, R291): its header, its kind, and its payload. -/
def packetOk (p : BitVec 1024) : Bool :=
  pkBits p 10 54 == 0 &&
  (match pkKind p with
   | 1 => pkBits p 576 448 == 0 && launchOk (pkRecord p)
   | 2 => pkBits p 672 352 == 0 && launchOk (persistRecord p)
   | 3 =>
     let c := packetCommand p
     pkBits p 576 448 == 0 && cpFieldsOk c && !cpSsp c && !cpDsp c && !cpBen c
   | 4 => pkBits p 192 832 == 0 && pkBits p 64 64 % 8 == 0
   | 5 =>
     pkBits p 704 320 == 0 && pkBits p 264 56 == 0 && pkBits p 128 64 % 8 == 0 && decide (1 ≤ pkBits p 256 8) &&
     decide (pkBits p 256 8 ≤ 48)
   | 6 => pkBits p 192 832 == 0 && pkBits p 64 64 % 8 == 0
   | 7 => pkBits p 64 960 == 0
   | _ => false)

/-- Whether every packet that has started has completed. -/
def allDone (q : HostQueue) : Bool := q.pkts.all fun p => p.2 == .done

/-- The queue stops at a packet, at its head or one that has started, and 1 goes to its status word, which keeps 2 once the
queue has been destroyed. The other packets that have started go on (R290). -/
def badPacket (s : State) (q : HostQueue) : State :=
  let s := setQueue s (q.stick fun n => q.onStep == some n)
  if q.destroyed then s else devWrite s q.stat (leBytes 8 1)

/-- The fetcher consumes the slot, and the packet starts (R289, R290). -/
def consumed (q : HostQueue) (w : PktWait) : HostQueue :=
  let h := (q.head + 1) % ringSlots q
  { q with head := h, phase := if h = 0 then !q.phase else q.phase, fetched := q.fetched + 1
           pkts := q.pkts ++ [(q.fetched + 1, w)] }

/-- Whether a packet may start: SIGNAL and WAITTL, and those that say so, only after every earlier one has completed
(R288, R290). -/
def mayStart (q : HostQueue) (p : BitVec 1024) : Bool :=
  !(pkOrd p || pkKind p == pkSignal || pkKind p == pkWaittl) || allDone q

/-- The fetcher of a queue looks at its next packet (R289): a slot of the previous lap puts it to sleep, a packet that
fails a check stops the queue, and one of the kind asked for goes on to `k`. -/
def onPacket (s : State) (queue kind : Nat) (k : State → HostQueue → BitVec 1024 → State) : State :=
  match findQueue s queue with
  | none => s
  | some q =>
    if !s.pkg.up || q.stopped || q.destroyed || !q.awake || q.left != 0 || !sendable s (packetLines q) then s
    else
      let s := noteReads s (packetLines q)
      let p := headPacket s q
      if pkPhase p ≠ q.phase then setQueue s { q with awake := false }
      else if !mayStart q p then s
      else if !packetOk p then badPacket s { q with onStep := none }
      else if pkKind p ≠ kind then s
      else k s q p

/-- The fetcher's accesses in the queue's address space, for its head packet or a step of a numbered one that has started: all
pass, or what fails is reported and awaited (R261, R263), or they wait until their tables can be read (R23). A quarantined page
is consumed (R285). With it, or with a device-only page, the queue stops with BADPKT (DESIGN CHOICE, log 68). -/
def packetProbe (s : State) (q : HostQueue) (onStep : Option Nat) (els : List Asked) (k : State → List Found → State) : State :=
  let q := { q with onStep := onStep }
  match misses s q.asid els with
  | [] => k (learnAll s q.asid els) (founds s q.asid els)
  | m :: r =>
    let ws := awaited (m :: r)
    if (m :: r).any fun x => x.2 == .far then s
    else match quarOf (m :: r) with
    | some x =>
      let s := reportEach s q.asid srcFirmware noGid .hint none 0 ws
      badPacket (unitPoison s q.asid srcFirmware x.1 x.2.va x.2.need.acc 0) q
    | none =>
    if ws = [] then badPacket s q
    else
      let s := reportEach s q.asid srcFirmware noGid (.packet q.num) none 0 ws
      setQueue s { q with left := ws.length }

/-- One address, and a range of addresses, to be probed. -/
def rangeAsked (n : Need) (va len : Nat) : List Asked :=
  let last := va + len - 1
  asking n ((0, va) :: (if va / 4096 = last / 4096 then [] else [(0, last)]))

/-- The fetcher of a queue as a writer. -/
def fetcher (q : HostQueue) : Writer := device (2 ^ 32 + q.num)

/-- The lines of `n` bytes of an address space whose probe has passed. -/
def vaLines (s : State) (asid va n : Nat) : List Nat :=
  (pageParts va n).flatMap fun p => match devicePa s asid p.1 needStore with
    | none => []
    | some pa => linesOf pa p.2

/-- Write bytes of an address space whose probe has passed, page by page, counted at their home slices and charged (R27, R128;
log 48). -/
def vaWrite (s : State) (w : Writer) (asid va : Nat) (bs : List Byte) : State :=
  let n := 4096 - va % 4096
  let one := fun (s : State) (va : Nat) (bs : List Byte) =>
    match devicePa s asid va needStore with
    | none => s
    | some pa => writeBy s w pa bs
  one (one ((vaLines s asid va bs.length).foldl deviceAt s) va (bs.take n)) (va + n) (bs.drop n)

/-- Whether what a queue's fetcher wrote has sent messages that are on their way (R169). -/
def fetcherSent (s : State) (q : HostQueue) : Bool := s.coh.msgs.any fun m => m.gid == (fetcher q).gid

/-- Packets that have written all they write complete once what their writes sent has arrived (R153, R169, R291). -/
def sentDone (s : State) (queue : Nat) : State :=
  match findQueue s queue with
  | none => s
  | some q => if (q.pkts.any fun p => p.2 == .sent) && !fetcherSent s q then packetDone s queue .sent else s

/-- PACKET_DISPATCH (R291). -/
def execPacketDispatch (queue : Nat) (s : State) : Host.Outcome State Fault Refusal :=
  .next (onPacket s queue pkDispatch fun s q p =>
    if !kernelOpen s q.asid (lnKdesc (pkRecord p)) then s else
    let s := setQueue s (consumed q (.grid s.nextId))
    (submit s { asid := q.asid, queue := q.num, die := 0, rec' := pkRecord p, items := none }).1)

/-- PACKET_PERSIST (R196, R291). -/
def execPacketPersist (queue : Nat) (s : State) : Host.Outcome State Fault Refusal :=
  .next (onPacket s queue pkPersist fun s q p =>
    if !kernelOpen s q.asid (lnKdesc (persistRecord p)) then s else
    let s := setQueue s (consumed q (.grid s.nextId))
    let items := (pkBits p 576 32 + 1, pkBits p 608 32 + 1, pkBits p 640 32 + 1)
    (submit s { asid := q.asid, queue := q.num, die := 0, rec' := persistRecord p, items := some items }).1)

/-- PACKET_COPY: on the engine of logical quad (queue number mod Q) (R291). -/
def execPacketCopy (queue : Nat) (s : State) : Host.Outcome State Fault Refusal :=
  .next (onPacket s queue pkCopy fun s q p =>
    let quad := q.num % max 1 s.pkg.quads.length
    let c := newCopy s (packetCommand p) 0 0 (4 * quad) quad q.asid (some q.num) (q.fetched + 1)
    let s := setQueue s (consumed q (.copy s.nextId))
    { s with nextId := s.nextId + 1, copies := s.copies ++ [c] })

/-- A packet writes bytes of the queue's address space, where their homes can be reached (R23), as the queue stands in `q`
from then on. -/
def packetWrite (s : State) (q : HostQueue) (va : Nat) (bs : List Byte) : State :=
  if sendable s (vaLines s q.asid va bs.length) then vaWrite (setQueue s q) (fetcher q) q.asid va bs else s

/-- PACKET_SIGNAL: the packet completes once its write is performed (R169, R291). -/
def execPacketSignal (queue : Nat) (s : State) : Host.Outcome State Fault Refusal :=
  .next (sentDone (onPacket s queue pkSignal fun s q p =>
    let va := pkBits p 64 64
    packetProbe s q none (asking needStore [(0, va)]) fun s _ =>
      packetWrite s (consumed q .sent) va (leBytes 8 (pkBits p 128 64))) queue)

/-- The number of a packet that has started and still waits for something in its fetcher, of one kind, with what that is. -/
def stepOf (q : HostQueue) (f : PktWait → Option (Nat × Nat)) : Option (Nat × Nat × Nat) :=
  q.pkts.findSome? fun p => (f p.2).map fun x => (p.1, x)

/-- A packet that has started goes on to another step. -/
def HostQueue.stepTo (q : HostQueue) (n : Nat) (w : PktWait) : HostQueue :=
  { q with pkts := q.pkts.map fun p => if p.1 = n then (n, w) else p }

/-- A WRITESIGNAL that has written its data writes its signal, as a release: once every message that the data caused has
been applied; it completes once the signal is performed (R169, R291, R297). -/
def trySignal (s : State) (queue : Nat) : State :=
  match findQueue s queue with
  | none => s
  | some q =>
    match stepOf q fun w => match w with | .signal sig v => some (sig, v) | _ => none with
    | none => sentDone s queue
    | some (n, sig, v) =>
      if q.left ≠ 0 ∨ fetcherSent s q then s
      else packetProbe s q (some n) (asking needStore [(0, sig)]) fun s _ =>
        sentDone (packetWrite s (q.stepTo n .sent) sig (leBytes 8 v)) queue

/-- WRITESIGNAL: the data, then the signal (R291, R297). -/
def execWritesignal (queue : Nat) (s : State) : Host.Outcome State Fault Refusal :=
  .next (trySignal (onPacket s queue pkWritesignal fun s q p =>
    let va := pkBits p 64 64
    let sig := pkBits p 128 64
    let n := pkBits p 256 8
    packetProbe s q none (rangeAsked needStore va n ++ asking needStore [(0, sig)]) fun s _ =>
      packetWrite s (consumed q (.signal sig (pkBits p 192 64))) va (leBytes n (pkBits p 320 384))) queue)

/-- A WAITTL that has started completes once its word holds at least n (R291). -/
def tryWaittl (s : State) (queue : Nat) : State :=
  match findQueue s queue with
  | none => s
  | some q =>
    match stepOf q fun w => match w with | .word va n => some (va, n) | _ => none with
    | none => s
    | some (k, va, n) =>
      if q.left ≠ 0 then s
      else packetProbe s q (some k) (asking needLoad [(0, va)]) fun s fs =>
        let lines := fs.map fun x => x.pa / 64
        if !sendable s lines then s
        else
          let s := noteReads s lines
          if fs.all fun x => decide (n ≤ cohNat s x.pa 8) then packetDone s queue (.word va n) else s

/-- WAITTL: the packet starts, and completes when its condition holds (R290, R291). -/
def execWaittl (queue : Nat) (s : State) : Host.Outcome State Fault Refusal :=
  .next (tryWaittl (onPacket s queue pkWaittl fun s q p =>
    setQueue s (consumed q (.word (pkBits p 64 64) (pkBits p 128 64)))) queue)

/-- PACKET_NOP (R291). -/
def execPacketNop (queue : Nat) (s : State) : Host.Outcome State Fault Refusal :=
  .next (onPacket s queue pkNop fun s q _ => bumpQueue (setQueue s (consumed q .done)) q.num)

/-- DOORBELL: the queue's fetcher wakes (R289, R306). -/
def execDoorbell (queue : Nat) (s : State) : Host.Outcome State Fault Refusal :=
  .next (match findQueue s queue with
    | none => s
    | some q => setQueue s { q with awake := true })

/-! ## The command area (R306) -/

def cmdCode (s : State) : Nat := nbits s.regs.cmd.toNat 0 8
/-- Operand dwords 1 to 3. -/
def cmdArg (s : State) (i : Nat) : Nat := nbits s.regs.cmd.toNat (64 * i) 64

/-- Whether every bit that a command's table does not assign is 0. -/
def cmdOk (s : State) : Bool :=
  let a := cmdArg s 1
  let b := cmdArg s 2
  let c := cmdArg s 3
  nbits s.regs.cmd.toNat 8 56 == 0 && nbits s.regs.cmd.toNat 256 256 == 0 &&
  (match cmdCode s with
   | 1 => b == 0 && c == 0
   | 2 => decide (a < 2 ^ 16) && b == 0 && c == 0
   | 3 => decide (a < 2 ^ 12)
   | 4 => decide (a < 2 ^ 32) && decide (b < 4) && c == 0
   | 5 => b == 0 && c == 0
   | 6 => c == 0
   | 7 => decide (a < 32) && b == 0 && c == 0
   | _ => false)

/-- A command completes with a status and a result. -/
def finish (s : State) (status result : Nat) : State :=
  { s with regs := { s.regs with cdone := true, cstatus := BitVec.ofNat 8 status, cresult := BitVec.ofNat 24 result } }

/-- A command is under way: CSTAT's done bit reads 0. -/
def pending (s : State) : State := { s with regs := { s.regs with cdone := false } }

/-- A queue descriptor that passes its checks (R287), as a queue of a number. -/
def queueOf (s : State) (num x : Nat) : Option HostQueue :=
  let q : HostQueue :=
    { num := num, asid := nbits x 0 12, prio := nbits x 14 2, slice := nbits x 24 8, lsz := nbits x 19 5
      base := poolAt (nbits x 128 64), stat := poolAt (nbits x 192 64), tl := poolAt (nbits x 256 64), head := 0
      phase := true, awake := true, fetched := 0, left := 0, onStep := none, pkts := [], bumped := 0, stopped := false
      destroyed := false, eff := nbits x 14 2, waitSince := s.pkg.time, readyAt := s.pkg.time
      sliceAt := s.pkg.time, spent := true }
  if nbits x 320 192 = 0 ∧ nbits x 256 64 % 8 = 0 ∧ nbits x 192 64 % 8 = 0 ∧ nbits x 128 64 % 4096 = 0 ∧
    nbits x 32 96 = 0 ∧ 4 ≤ q.lsz ∧ q.lsz ≤ 16 ∧ nbits x 16 3 = 0 ∧ nbits x 12 2 = 0 then some q else none

/-- The number of the next queue: one more than any that has been created. -/
def nextQueue (s : State) : Nat := s.queues.foldl (fun n q => max n (q.num + 1)) 0

/-- QCREATE (R287, R290, R306). -/
def runQcreate (s : State) : State :=
  let at' := cmdArg s 1
  if at' % 64 ≠ 0 then finish s 2 0
  else
    let s := noteReads s [poolAt at' / 64]
    match queueOf s (nextQueue s) (cohNat s (poolAt at') 64) with
    | none => finish s 2 0
    | some q => finish (devWrite { s with queues := s.queues ++ [q] } q.stat (leBytes 8 0)) 0 q.num

/-- QDESTROY: no further packet starts, and 2 goes to the status word (R290, R306). -/
def runQdestroy (s : State) : State :=
  match findQueue s (cmdArg s 1) with
  | none => finish s 0 0
  | some q => finish (devWrite (setQueue s { q with destroyed := true }) q.stat (leBytes 8 2)) 0 0

/-! ## Shoot-downs (R116, R126, R177) -/

/-- Whether a virtual address lies in the range of a shoot-down. -/
def inShoot (base len va : Nat) : Bool := decide (base ≤ va) && decide (va < base + len)

/-- Drop the cached translations of a range. -/
def dropRange (s : State) (asid base len : Nat) : State :=
  { s with xl := { s.xl with tlb := s.xl.tlb.filter fun t => !(t.asid == asid && inShoot base len (4096 * t.vpage)) } }

/-- Whether a page is unmapped, or mapped without rd or suba (R174, R177). -/
def cannotSub (s : State) (asid va : Nat) : Bool :=
  match leafOf s asid va with
  | .leaf _ e => !grants needSub e
  | .bad _ _ => true

/-- Whether an object has an element page in a range that no longer lets a core subscribe (R177). -/
def losesPage (s : State) (asid base len : Nat) (o : Obj) : Bool :=
  (objPages o).any fun va => inShoot base len (va / 4096 * 4096) && cannotSub s asid va

/-- The pages of a range that the tables pin: address space, virtual page, pool page. -/
def pinsOf (s : State) (asid base len : Nat) : List (Nat × Nat × Nat) :=
  (List.range (len / 4096)).filterMap fun i =>
    let va := base + 4096 * i
    match leafOf s asid va with
    | .leaf l e => if ptePin e then some (asid, va / 4096, pageOf (leafPa va l e)) else none
    | .bad _ _ => none

/-- Whether a set of pins is within 7/8 of the frames (R126). -/
def pinsFit (s : State) (pins : List (Nat × Nat × Nat)) : Bool :=
  decide (8 * ((pins.map fun p => p.2.2).eraseDups).length ≤ 7 * s.pkg.nframes)

/-- SHOOTDOWN: translations of the range go, subscriptions that it ends are ended, and the pages that it pins are made
resident; beyond the limit none of them is newly pinned (R126). -/
def runShootdown (s : State) : State :=
  let asid := cmdArg s 1
  let base := cmdArg s 2
  let len := cmdArg s 3
  if base % 4096 ≠ 0 ∨ len % 4096 ≠ 0 ∨ len = 0 then finish s 2 0
  else
    let id := s.nextId
    let s := dropRange (pending { s with nextId := id + 1 }) asid base len
    let lost := s.coh.objs.filter fun o => o.asid == asid && losesPage s asid base len o
    let s := lost.foldl (fun s o => endSubs s asid o.num) s
    let pins := pinsOf s asid base len
    let mine := fun (p : Nat × Nat × Nat) => p.1 == asid && inShoot base len (4096 * p.2.1)
    let kept := s.mem.pinned.filter fun p => !mine p || pins.contains p
    let new := pins.filter fun p => !kept.contains p
    let ok := pinsFit s (kept ++ new)
    let s := { s with mem := { s.mem with pinned := if ok then kept ++ new else kept } }
    let away := if ok then ((new.map fun p => p.2.2).eraseDups).filter fun p => !resident s p else []
    let s := away.foldl (fun s p => addPageWait s p srcFirmware (.shoot id) false) s
    let c : Shoot := { id := id, asid := asid, base := base, len := len, upto := id, full := !ok, left := away.length }
    { s with xl := { s.xl with shoots := c :: s.xl.shoots } }

/-- Whether an access that passed its probe with an old translation has not retired (R116): a request, a lane instruction whose
result has not returned, a sample, a ray, a copy or a task from before the shoot-down, but for one that waits for the driver; or
a write of a tile element that is not performed (R169, R177). -/
def oldAccess (s : State) (c : Shoot) : Bool :=
  let hit := inShoot c.base c.len
  let pages := fun (l : List Nat) => l.any fun p => hit (4096 * p)
  (s.coh.msgs.any fun m => m.asid == c.asid && m.elems.any fun e => hit e.va) ||
  (s.groups.any fun g => g.asid == c.asid && g.infl.any fun i => decide (i.id < c.upto) && pages i.vpages) ||
  (s.copies.any fun x => x.asid == c.asid && decide (x.id < c.upto) && (x.stage == .running || x.stage == .finished) && pages x.vpages) ||
  (s.engines.any fun e => e.2.window.any fun t => t.asid == c.asid && t.stage != .retired && t.holds == [] && pages t.vpages) ||
  (s.reqs.any fun r => r.asid == c.asid && decide (r.id < c.upto) && r.parts.any fun p => hit p.va.toNat) ||
  (s.groups.any fun g => g.asid == c.asid && match g.samp with
    | some m => decide (m.infl < c.upto) && m.fva.isNone && hit m.desc.toNat
    | none => false) ||
  s.rays.any fun r => r.asid == c.asid && decide (r.id < c.upto) && pages r.vpages &&
    match r.stage with | .slot _ => true | _ => false

/-- SHOOTDOWN_COMPLETE (R116, R126). -/
def execShootdownComplete (id : Nat) (s : State) : Host.Outcome State Fault Refusal :=
  .next (match s.xl.shoots.find? fun c => c.id == id with
    | none => s
    | some c =>
      if c.left ≠ 0 ∨ oldAccess s c then s
      else
        let s := dropRange { s with xl := { s.xl with shoots := s.xl.shoots.filter fun x => x.id ≠ id } } c.asid c.base c.len
        finish s (if c.full then 1 else 0) 0)

/-! ## Answers to faults (R263) -/

/-- The trap that a fault's answer trap takes, by the kind of its entry. -/
def answerTrap (kind : Nat) : Nat := if kind = 1 then tXlate else if kind = 2 then tProt else tIfetch

/-- A group will take the trap of an answer at its instruction, once every page it reported is settled. -/
def withAnswer (g : Group) (f : FaultRec) : Group :=
  if g.answer.isSome then g else { g with answer := some (answerTrap f.kind, f.va, f.thr) }

/-- The answer trap (R263, R206, R241, R372, R388, R465). R263 names no outcome for a packet: its queue stops with BADPKT (DESIGN
CHOICE, log 68). -/
def answerTrapTo (s : State) (f : FaultRec) (w : Waiter) : State :=
  match w with
  | .group gid => releaseWaiter (mapGroup s gid fun g => withAnswer g f) w
  | .fetch gid _ => releaseWaiter (mapGroup s gid fun g => withAnswer g f) w
  | .copy id => (match findCopy s id with | some c => endCopy s c | none => s)
  | .task grid crew key half =>
    releaseWaiter (mapTask s grid crew key fun t => if half = 2 then { t with skip := true } else { t with fail := true }) w
  | .ray id => releaseWaiter { s with rays := s.rays.map fun r => if r.id = id then { r with kill := true } else r } w
  | .samp gid =>
    let one := fun (m : Samp) => { m with trap := some (answerTrap f.kind, f.va.toNat) }
    releaseWaiter (mapGroup s gid fun g => { g with samp := g.samp.map one }) w
  | .frag die key => releaseWaiter (mapFrag s die key fun x => { x with drop := true }) w
  | .add id => (match s.adds.find? fun a => a.id == id with | some a => endAdd s a | none => s)
  | .packet q => (match findQueue s q with | some x => badPacket s x | none => s)
  | .cont id => { s with conts := s.conts.filter fun c => c.id ≠ id }
  | .shoot _ => releaseWaiter s w
  | .hint => s

/-- The answer end: the grid that owns the work is aborted; an add is abandoned and aborts nothing, and work of no grid
ends as it does with trap (R263, R465). -/
def answerEnd (s : State) (f : FaultRec) (w : Waiter) : State :=
  match w, f.grid with
  | .add _, _ => answerTrapTo s f w
  | _, none => answerTrapTo s f w
  | _, some id => abortGrid s id (causeKind f.kind) f.die

/-- FAULTANS: code 3, which is no answer, changes nothing (R263, R306; DESIGN CHOICE, log 36). -/
def runFaultans (s : State) : State :=
  let s := finish s 0 0
  match s.faults.find? fun f => f.index == some (cmdArg s 1) with
  | none => s
  | some f =>
    if cmdArg s 2 = 3 then s
    else
      let s := { s with faults := s.faults.filter fun x => x.id ≠ f.id }
      match f.waiter with
      | none => s
      | some w =>
        if cmdArg s 2 = 0 then releaseWaiter s w
        else if cmdArg s 2 = 1 then answerTrapTo s f w
        else answerEnd s f w

/-! ## Firmware (R298 to R302) -/

/-- The bytes of an image at an address, from what its first eight say, and its lines with the signature (log 11). -/
def imageSize (s : State) (pa : Nat) : Nat := Config.imageBytes (dw (cohNat s pa 8))
def imageLines (s : State) (pa : Nat) : List Nat := linesOf pa (imageSize s pa + Config.sigBytes)

/-- An image: the digest of its body, and its signature, which follows the body (log 11). -/
def imageDigest (s : State) (pa : Nat) : BitVec 256 × List Byte :=
  let n := imageSize s pa
  (Config.shake (tab n fun i => cohByte s (pa + i)), tab Config.sigBytes fun i => cohByte s (pa + n + i))

/-- Statuses of UPDATE (R299). -/
def upLayout : Nat := 1
def upSignature : Nat := 2
def upBusy : Nat := 3
def upVersion : Nat := 4

/-- Whether a save is in a layout version that an image cannot import (R299). -/
def cannotImport (s : State) (image : BitVec 256) : Bool :=
  s.saved.any fun v => !(Config.imageLayouts image).contains v.version

/-- UPDATE: the standby verifies and boots the image and imports the state table (R299, R301). An image that ends in LAYOUT here
leaves the floor; one that passes raises it, and it stays raised if LAYOUT comes at the switch (DESIGN CHOICE, log 38). -/
def runUpdate (s : State) : State :=
  let x := imageDigest s (poolAt (cmdArg s 1))
  if s.fw.update.isSome then finish s upBusy 0 else
  let s := noteReads s (imageLines s (poolAt (cmdArg s 1)))
  if !Config.falconOk x.1 x.2 then finish s upSignature 0
  else if Config.imageVersion x.1 < s.fw.floor then finish s upVersion 0
  else if cannotImport s x.1 then finish s upLayout 0
  else pending { s with fw := { s.fw with update := some x.1, floor := max s.fw.floor (Config.imageVersion x.1) } }

/-- The digest of the image on a complex. -/
def imageOn (f : Firmware) (complex : Nat) : BitVec 256 := f.images.getD complex 0

/-- LIVE_UPDATE_SWITCH: between packets of every queue the updated complex becomes active, unless a save has been made since
the command that it cannot import (R299). -/
def execLiveUpdateSwitch (s : State) : Host.Outcome State Fault Refusal :=
  .next (match s.fw.update with
    | none => s
    | some d =>
      if s.queues.any inPacket then s
      else if cannotImport s d then finish { s with fw := { s.fw with update := none } } upLayout 0
      else
        let new := 1 - s.fw.active
        let images := tab 2 fun i => if i = new then d else imageOn s.fw i
        finish { s with fw := { s.fw with active := new, images := images, update := none, beat := s.pkg.time } } 0 0)

/-- Ticks without a heartbeat after which the standby takes over (R298). -/
def beatTicks : Nat := 100000

/-- FIRMWARE_FAILOVER: the active complex has sent no heartbeat for 100 µs; at the next packet boundary of every queue
the standby takes over, and logs it (R298). A pending update stays pending (DESIGN CHOICE, log 38). -/
def execFirmwareFailover (s : State) : Host.Outcome State Fault Refusal :=
  .next (
    if s.pkg.time.toNat < s.fw.beat.toNat + beatTicks ∨ s.queues.any inPacket then s
    else logEvent { s with fw := { s.fw with active := 1 - s.fw.active, beat := s.pkg.time } } srcFirmware causeFailover)

/-- The bytes of an attestation report that are signed (R302). -/
def reportBytes (s : State) (nonce : Nat) : List Byte :=
  leBytes 32 nonce ++ leBytes 32 s.pkg.digest.toNat ++ leBytes 32 (imageOn s.fw 0).toNat ++
  leBytes 32 (imageOn s.fw 1).toNat ++ leBytes 8 s.fw.floor ++ leBytes 8 s.pkg.time.toNat

/-- ATTEST (R302). -/
def runAttest (s : State) : State :=
  let body := reportBytes s (cohNat s (poolAt (cmdArg s 1)) 32)
  let s := noteReads s (linesOf (poolAt (cmdArg s 1)) 32)
  finish (devWrite s (poolAt (cmdArg s 2)) (body ++ Config.attestSign body)) 0 0

/-- PODJOIN: a position that another package holds is refused (R23, R306). -/
def runPodjoin (s : State) : State :=
  let p := cmdArg s 1
  if Config.podHeld p then finish s 2 0
  else finish { s with pkg := { s.pkg with podPos := some p, podTraffic := false } } 0 0

/-! ## Register writes (R306) -/

/-- The command of the command area. -/
def runCommand (s : State) : State :=
  match cmdCode s with
  | 1 => runQcreate s
  | 2 => runQdestroy s
  | 3 => runShootdown s
  | 4 => runFaultans s
  | 5 => runUpdate s
  | 6 => runAttest s
  | 7 => runPodjoin s
  | _ => s

/-- The lines that a command reads: a queue descriptor, an image, a nonce. -/
def cmdLines (s : State) : List Nat :=
  match cmdCode s with
  | 1 => [poolAt (cmdArg s 1) / 64]
  | 5 => imageLines s (poolAt (cmdArg s 1))
  | 6 => linesOf (poolAt (cmdArg s 1)) 32
  | _ => []

/-- Whether a command can read its operands now (R23, R307). -/
def cmdOpen (s : State) : Bool := s.pkg.podPos.isNone || reachable s (cmdLines s)

/-- A write to GO: ignored while a command runs; a command with a nonzero bit that its table does not assign, or an
unknown code, completes with status 0xFF. One whose operands cannot be read yet waits (R23). -/
def goCommand (s : State) : State :=
  if !s.regs.cdone then s
  else if !cmdOk s then finish s 0xFF 0
  else if cmdOpen s then runCommand s
  else pending { s with regs := { s.regs with held := some s.regs.cmd } }

/-- A command that waited for its operands runs once they can be read, with the command area that it was given (R23, R306). -/
def resumeCommand (s : State) : State :=
  match s.regs.held with
  | none => s
  | some c =>
    let t := { s with regs := { s.regs with cmd := c, held := none } }
    if cmdOpen t then
      let u := runCommand t
      { u with regs := { u.regs with cmd := s.regs.cmd } }
    else s

/-- The driver writes GO with a command of one code in the command area. -/
def command (s : State) (code : Nat) : State := if cmdCode s = code then goCommand s else s

def execQcreate (s : State) : Host.Outcome State Fault Refusal := .next (command s 1)
def execQdestroy (s : State) : Host.Outcome State Fault Refusal := .next (command s 2)
def execShootdown (s : State) : Host.Outcome State Fault Refusal := .next (command s 3)
def execFaultans (s : State) : Host.Outcome State Fault Refusal := .next (command s 4)
def execUpdate (s : State) : Host.Outcome State Fault Refusal := .next (command s 5)
def execAttest (s : State) : Host.Outcome State Fault Refusal := .next (command s 6)
def execPodjoin (s : State) : Host.Outcome State Fault Refusal := .next (command s 7)

/-- A write of FQHEAD: appending goes on where it stopped for want of room. -/
def writeFqhead (s : State) (v : Dword) : State :=
  flushFaults { s with regs := { s.regs with fqhead := v.setWidth 32 } }

/-- FQHEAD_WRITE (R306). -/
def execFqheadWrite (value : Dword) (s : State) : Host.Outcome State Fault Refusal := .next (writeFqhead s value)

/-- A value with bits [11:0] zero. -/
def pageAligned (v : Dword) : Dword := v &&& ~~~0xFFF#64

/-- Set a register of the block. -/
def setRegs (s : State) (r : Regs) : State := { s with regs := r }

/-- Replace one dword of the command area. -/
def setCmd (c : BitVec 512) (i : Nat) (v : Dword) : BitVec 512 :=
  BitVec.ofNat 512 (c.toNat - nbits c.toNat (64 * i) 64 * 2 ^ (64 * i) + v.toNat * 2 ^ (64 * i))

/-- REGISTER_WRITE: an 8-byte write of a register; a read-only register, an offset that holds none, and the pod home
registers of a package that has joined, ignore it (R306). -/
def execRegisterWrite (off : Nat) (value : Dword) (s : State) : Host.Outcome State Fault Refusal :=
  .next (
    let joined := s.pkg.podPos.isSome
    if off = 0x0000 then
      (match findQueue s value.toNat with
       | none => s
       | some q => setQueue s { q with awake := true })
    else if off = 0x0100 then setRegs s { s.regs with fqbase := pageAligned value }
    else if off = 0x0108 then setRegs s { s.regs with fqsize := value }
    else if off = 0x0118 then writeFqhead s value
    else if off = 0x0200 then (if joined then s else setRegs s { s.regs with podhbase := pageAligned value })
    else if off = 0x0208 then (if joined then s else setRegs s { s.regs with podhlen := pageAligned value })
    else if 0x1000 ≤ off ∧ off < 0x1040 ∧ off % 8 = 0 then
      setRegs s { s.regs with cmd := setCmd s.regs.cmd ((off - 0x1000) / 8) value }
    else if off = 0x1040 then goCommand s
    else s)

end Sys2Proof.Machine
end

