-- ==== Sys2Proof/Machine/Turns.lean ====
section
/-! DEFINITION. What one turn of one agent does: which instruction runs, for which group or ray, or what the
world outside changes (R37, R50, R60, log 2). -/

namespace Sys2Proof.Machine

/-- What a turn comes to: a changed state, an instruction to run, or a fault. -/
inductive Move where
  | idle (s : State)
  | run (i : Instr) (s : State)
  | stop (f : Fault)
  deriving Repr

/-- A group that has its turn in the choice of its partition (R37, R50, log 46). -/
def offered (s : State) (g : Group) (lane : Bool) : Group :=
  if lane then { g with offL := some s.pkg.time } else { g with offS := some s.pkg.time, slow := false }

/-- It is the turn of a group's scalar or lane stream. -/
def offer (s : State) (gid : Nat) (lane : Bool) : State :=
  { s with cur := gid, groups := s.groups.map fun g => if g.gid = gid then offered s g lane else g }

/-- The scalar stream of a group executes the instruction at SPC (R37). -/
def scalarTurn (s : State) (gid : Nat) : Move :=
  match findGroup s.groups gid with
  | none => .idle s
  | some g =>
    if !canIssue s g || g.park ≠ .none || g.run ≠ [] || g.frozenS || g.frozenL || g.pairWait.isSome ||
        passedOver s g scalarCould then .idle s
    else
      let s := offer s gid false
      let g := offered s g false
      match (if g.parkLane then none else g.answer) with
      | some a => .idle (trapScalar s { g with answer := none } a.1 a.2.1.toNat)
      | none =>
        match fetchUnit s g.core g.asid g.spc.toNat with
        | .word w =>
          let s := learn s g.asid g.spc.toNat
          (match decodeScalar w with
           | some i => .run i s
           | none => .run (.illegalScalarWord w) s)
        | .miss l => .idle (fetchMiss s g l false)
        | .away pa => .idle (fetchAway s g pa false)
        | .bad _ => .run .scalarFetchFault s
        | .prot => .idle (trapScalar s g tProt g.spc.toNat)
        | .far => .idle s
        | .quar pa => .idle (consume s g 3 pa g.spc.toNat needFetch.acc)

/-- The lane stream of a group tries to enter the head of its queue (R34, R50). -/
def laneTurn (s : State) (gid : Nat) : Move :=
  match findGroup s.groups gid with
  | none => .idle s
  | some g =>
    if !canIssue s g || g.park ≠ .none || g.pipe = none || passedOver s g laneCould then .idle s
    else
      let s := offer s gid true
      let g := offered s g true
      match g.queue with
      | [] => .idle s
      | q :: _ =>
        match (if g.parkLane then g.answer else none) with
        | some a => .idle (trapLane s { g with answer := none } a.1 a.2.1.toNat a.2.2)
        | none =>
          match entryInstr q with
          | some i => .run i s
          | none => .idle s

/-- The word that a ray executes next: the program's word at pc, and a fill word where no slot holds it (R222, R223). -/
def microWord (s : State) (r : Ray) (core : Nat) : Word :=
  match s.progs.find? fun p => p.core == core && p.asid == r.asid && p.addr == r.prog with
  | some p => p.words.getD r.pc.toNat 0
  | none => 0

/-- Whether a ray's issuing crew lets it run (R243). A ray in a slot goes on when the die's energy is used up (R30). -/
def rayMay (s : State) (r : Ray) : Bool :=
  s.pkg.up && (match findGroup s.groups r.gid with | some g => onCore s g | none => false)

/-- A traversal engine executes the next micro-instruction of a ray; one whose steps equal its budget ends instead
(R222, R236). -/
def microTurn (s : State) (ray : Nat) : Move :=
  match findRay s ray with
  | none => .idle s
  | some r =>
    match r.stage with
    | .slot core =>
      if !rayMay s r then .idle s
      else if r.budget ≤ r.steps then .run (.rayStepBudgetExhausted ray) s
      else
        let w := microWord s r core
        (match decodeMicro w with
         | some i => .run i { s with curRay := ray }
         | none => .run (.undefinedMicroOpcode w) { s with curRay := ray })
    | _ => .idle s

/-- A quad's instruction cache loses a block (R60). -/
def codeDrop (s : State) (quad line : Nat) : State :=
  { s with mem := { s.mem with icache := s.mem.icache.filter fun b => !(b.quad == quad && b.line == line) } }

/-- A block that was on its way to a quad's instruction cache arrives (R60, R73). -/
def codeArrive (s : State) (quad line : Nat) : State :=
  let one := fun (b : CodeBlock) => if b.quad = quad ∧ b.line = line then { b with here := true } else b
  { s with mem := { s.mem with icache := s.mem.icache.map one } }

/-! ## Time (log 14) -/

/-- Moments at which something is due, which no wait passes: the governor's boundary, the close of a batch, the launch of
a handler group, the deadlines of try-waits, the probes of blocked groups, and the aging of queues that wait (R296). -/
def dueTimes (s : State) : List Nat :=
  (if s.pkg.up then [nextPeriod s] else []) ++ s.batches.map (fun b => b.2.toNat + batchTicks) ++
  s.compacts.map (fun c => c.since.toNat + 1000) ++
  ((s.queues.filter fun q => queueStarved s q.num && decide (q.eff < 3)).map fun q => q.waitSince.toNat + agingTicks) ++
  s.groups.flatMap fun g =>
    (g.infl.filter fun i => i.kind == .tryBar).map (·.aux) ++
    (if blocked g then [g.probedAt.toNat + probeTicks] else []) ++
    (match g.park, g.queue with
     | .word, q :: _ => (match entryInstr q with | some (.twait f _ _ _) => [g.waitFrom.toNat + waitHint g q f] | _ => [])
     | _, _ => [])

/-- Whether the counter is held until the pod's has caught up (R23). -/
def timeHeld (s : State) : Bool := s.pkg.podPos.isSome && !s.pkg.podTraffic

/-- The counter advances by at most `n` ticks, never backwards and not past what is due; records whose stamp has passed
are then appended (R22, R25, R264). -/
def waitTurn (s : State) (n : Nat) : State :=
  if timeHeld s then s
  else
    let now := s.pkg.time.toNat
    let t := (dueTimes s).foldl min (min (now + n) (2 ^ 64 - 1))
    flushFaults { s with pkg := { s.pkg with time := dw (max now t) } }

/-! ## Turns -/

/-- The turn that comes next, and the state with it taken off the agenda (log 2). -/
def takeTurn (s : State) : Turn × State :=
  match s.agenda with
  | t :: r => (t, { s with agenda := r })
  | [] => (Config.freeTurn s.turns, { s with turns := s.turns + 1 })

/-- Bytes of a line. -/
def lineBytes : Nat := 64

/-- What a turn comes to. -/
def move (s : State) (t : Turn) : Move :=
  match t with
  | .scalar gid => scalarTurn s gid
  | .lane gid => laneTurn s gid
  | .micro ray => microTurn s ray
  | .event i => .run i s
  | .wait n => .idle (waitTurn s n)
  | .codeDrop quad line => .idle (codeDrop s quad line)
  | .codeArrive quad line => .idle (codeArrive s quad line)
  | .inval id => .idle (invalArrives s id)
  | .tlbDrop asid vpage => .idle (tlbDrop s asid vpage)
  | .evict core line => .idle (evictPaid s core line)
  | .sectorEvict page => .idle (sectorPaid s page)
  | .add id => .idle (doAdd s id)
  | .cont id => .idle (doCont s id)
  | .link n down => .idle (setLink s n down)
  | .policy drain restart => .idle { s with policy := { drain := drain, restart := restart } }
  | .outWrite who pa bytes =>
    if 2 ^ 52 < pa + bytes.length then .stop (.noSuchPoolAddress pa) else .idle (outWrite s who pa bytes)
  | .outRead who pa => if 2 ^ 52 < pa + lineBytes then .stop (.noSuchPoolAddress pa) else .idle (outRead s who pa)

/-- What follows every step: traffic of the device that waits for its charge is charged, what waits in the outbox goes, a command
that waits for its operands runs, fences whose obligation is met stand no more, copies make the transfer steps that they owe, parked
groups are tested, the home slices count what units of the device have read, older groups are asked again, and queues that begin to
wait note when (R23, R29, R37, R51, R128, R147, R191, R296). -/
def settle (old new : State) : State :=
  markWaits old (askAgain old (countReads (wakeAll (settleCopies (settleAllFences (resumeCommand (sendOutbox (payOwed new))))))))

/-- The outcome of a step whose instruction has been executed. -/
def settled (old : State) (o : Host.Outcome State Fault Refusal) : Host.Outcome State Fault Refusal :=
  match o with
  | .next t => .next (settle old t)
  | .fault f => .fault f
  | .refused r => .refused r

end Sys2Proof.Machine
end

