-- ==== Sys2Proof/Machine/Dispatch.lean ====
section
/-! DEFINITION. The meaning of every instruction and event, one arm for each. -/

namespace Sys2Proof.Machine

def exec (i : Instr) (s : State) : Host.Outcome State Fault Refusal :=
  match i with
  | .packageReset umap frames body sig => Sys2Proof.Machine.execPackageReset umap frames body sig s
  | .podTimeAligned podTime => Sys2Proof.Machine.execPodTimeAligned podTime s
  | .governorPeriodBoundary budgets energy => Sys2Proof.Machine.execGovernorPeriodBoundary budgets energy s
  | .governedRequestAdmit id => Sys2Proof.Machine.execGovernedRequestAdmit id s
  | .dieEnergyExhausted die => Sys2Proof.Machine.execDieEnergyExhausted die s
  | .powerLimitExceeded => Sys2Proof.Machine.execPowerLimitExceeded s
  | .groupBind core part => Sys2Proof.Machine.execGroupBind core part s
  | .laneQueueEnqueue gid => Sys2Proof.Machine.execLaneQueueEnqueue gid s
  | .resultReturn gid id => Sys2Proof.Machine.execResultReturn gid id s
  | .icacheFillReturn gid lane => Sys2Proof.Machine.execIcacheFillReturn gid lane s
  | .waitCycleProbe gid => Sys2Proof.Machine.execWaitCycleProbe gid s
  | .probeForward id => Sys2Proof.Machine.execProbeForward id s
  | .crewPlace grid p => Sys2Proof.Machine.execCrewPlace grid p s
  | .pendingLaunchDrain gid => Sys2Proof.Machine.execPendingLaunchDrain gid s
  | .crewExitComplete grid crew => Sys2Proof.Machine.execCrewExitComplete grid crew s
  | .sowerDeliver die => Sys2Proof.Machine.execSowerDeliver die s
  | .memoryRequestAtHome id => Sys2Proof.Machine.execMemoryRequestAtHome id s
  | .lineRecall id => Sys2Proof.Machine.execLineRecall id s
  | .requestReturn id => Sys2Proof.Machine.execRequestReturn id s
  | .accessCounterHalve => Sys2Proof.Machine.execAccessCounterHalve s
  | .stackCacheFillSpill gid row => Sys2Proof.Machine.execStackCacheFillSpill gid row s
  | .winnowerClean frame unit => Sys2Proof.Machine.execWinnowerClean frame unit s
  | .precisionMessageQuad id => Sys2Proof.Machine.execPrecisionMessageQuad id s
  | .precisionMessageCore id core => Sys2Proof.Machine.execPrecisionMessageCore id core s
  | .copyTransferStep id => Sys2Proof.Machine.execCopyTransferStep id s
  | .copyRetire id => Sys2Proof.Machine.execCopyRetire id s
  | .copyCmdCopy id => Sys2Proof.Machine.execCopyCmdCopy id s
  | .copyCmdFill id => Sys2Proof.Machine.execCopyCmdFill id s
  | .copyCmdSignal id => Sys2Proof.Machine.execCopyCmdSignal id s
  | .tryWaitHintExpiry gid id => Sys2Proof.Machine.execTryWaitHintExpiry gid id s
  | .gleanerHint id => Sys2Proof.Machine.execGleanerHint id s
  | .tload core task => Sys2Proof.Machine.execTload core task s
  | .tstore core task => Sys2Proof.Machine.execTstore core task s
  | .tmma core task => Sys2Proof.Machine.execTmma core task s
  | .thad core task => Sys2Proof.Machine.execThad core task s
  | .tzero core task => Sys2Proof.Machine.execTzero core task s
  | .tcvt core task => Sys2Proof.Machine.execTcvt core task s
  | .tjoin core task => Sys2Proof.Machine.execTjoin core task s
  | .matrixTaskRetire core task => Sys2Proof.Machine.execMatrixTaskRetire core task s
  | .tmaskPairWriteResume gid => Sys2Proof.Machine.execTmaskPairWriteResume gid s
  | .rayResume ray core => Sys2Proof.Machine.execRayResume ray core s
  | .rayStepBudgetExhausted ray => Sys2Proof.Machine.execRayStepBudgetExhausted ray s
  | .fragmentArrival die id => Sys2Proof.Machine.execFragmentArrival die id s
  | .streamClose die id => Sys2Proof.Machine.execStreamClose die id s
  | .samplerResume gid => Sys2Proof.Machine.execSamplerResume gid s
  | .residencyFault id => Sys2Proof.Machine.execResidencyFault id s
  | .gleanerBatchClose gleaner frames => Sys2Proof.Machine.execGleanerBatchClose gleaner frames s
  | .gleanerFrameEligible gleaner page frame => Sys2Proof.Machine.execGleanerFrameEligible gleaner page frame s
  | .gleanerEvict gleaner page => Sys2Proof.Machine.execGleanerEvict gleaner page s
  | .gleanerFetch gleaner page => Sys2Proof.Machine.execGleanerFetch gleaner page s
  | .pageResident gleaner page => Sys2Proof.Machine.execPageResident gleaner page s
  | .handlerGroupLaunch die grid => Sys2Proof.Machine.execHandlerGroupLaunch die grid s
  | .timeSliceExpiry queue => Sys2Proof.Machine.execTimeSliceExpiry queue s
  | .drainTimeout grid crew => Sys2Proof.Machine.execDrainTimeout grid crew s
  | .crewSave grid crew => Sys2Proof.Machine.execCrewSave grid crew s
  | .crewRestore grid crew p => Sys2Proof.Machine.execCrewRestore grid crew p s
  | .softError target => Sys2Proof.Machine.execSoftError target s
  | .doorbell queue => Sys2Proof.Machine.execDoorbell queue s
  | .fqheadWrite value => Sys2Proof.Machine.execFqheadWrite value s
  | .registerWrite off value => Sys2Proof.Machine.execRegisterWrite off value s
  | .qcreate => Sys2Proof.Machine.execQcreate s
  | .qdestroy => Sys2Proof.Machine.execQdestroy s
  | .shootdown => Sys2Proof.Machine.execShootdown s
  | .shootdownComplete id => Sys2Proof.Machine.execShootdownComplete id s
  | .faultans => Sys2Proof.Machine.execFaultans s
  | .update => Sys2Proof.Machine.execUpdate s
  | .liveUpdateSwitch => Sys2Proof.Machine.execLiveUpdateSwitch s
  | .attest => Sys2Proof.Machine.execAttest s
  | .podjoin => Sys2Proof.Machine.execPodjoin s
  | .packetDispatch queue => Sys2Proof.Machine.execPacketDispatch queue s
  | .packetPersist queue => Sys2Proof.Machine.execPacketPersist queue s
  | .packetCopy queue => Sys2Proof.Machine.execPacketCopy queue s
  | .packetSignal queue => Sys2Proof.Machine.execPacketSignal queue s
  | .writesignal queue => Sys2Proof.Machine.execWritesignal queue s
  | .waittl queue => Sys2Proof.Machine.execWaittl queue s
  | .packetNop queue => Sys2Proof.Machine.execPacketNop queue s
  | .priorityAging queue => Sys2Proof.Machine.execPriorityAging queue s
  | .firmwareFailover => Sys2Proof.Machine.execFirmwareFailover s
  | .schedulerFailover die => Sys2Proof.Machine.execSchedulerFailover die s
  | .hostSnoop line => Sys2Proof.Machine.execHostSnoop line s
  | .backInvalidateSnoop line => Sys2Proof.Machine.execBackInvalidateSnoop line s
  | .cxlPortFailure port => Sys2Proof.Machine.execCxlPortFailure port s
  | .podLinkReroute dest link => Sys2Proof.Machine.execPodLinkReroute dest link s
  | .iadd f sat => Sys2Proof.Machine.execIadd f sat s
  | .isub f sat => Sys2Proof.Machine.execIsub f sat s
  | .imul f sat => Sys2Proof.Machine.execImul f sat s
  | .imulh f => Sys2Proof.Machine.execImulh f s
  | .imad f sat => Sys2Proof.Machine.execImad f sat s
  | .imin f => Sys2Proof.Machine.execImin f s
  | .imax f => Sys2Proof.Machine.execImax f s
  | .iabs f sat => Sys2Proof.Machine.execIabs f sat s
  | .iaddx f cbit => Sys2Proof.Machine.execIaddx f cbit s
  | .idp4 f sat => Sys2Proof.Machine.execIdp4 f sat s
  | .lop3 f lut => Sys2Proof.Machine.execLop3 f lut s
  | .shl f => Sys2Proof.Machine.execShl f s
  | .shr f => Sys2Proof.Machine.execShr f s
  | .sra f => Sys2Proof.Machine.execSra f s
  | .fshl f => Sys2Proof.Machine.execFshl f s
  | .fshr f => Sys2Proof.Machine.execFshr f s
  | .brev f => Sys2Proof.Machine.execBrev f s
  | .popc f => Sys2Proof.Machine.execPopc f s
  | .clz f => Sys2Proof.Machine.execClz f s
  | .bfe f => Sys2Proof.Machine.execBfe f s
  | .bfi f => Sys2Proof.Machine.execBfi f s
  | .bperm f => Sys2Proof.Machine.execBperm f s
  | .icmp f cond => Sys2Proof.Machine.execIcmp f cond s
  | .fcmp f cond => Sys2Proof.Machine.execFcmp f cond s
  | .sel f k => Sys2Proof.Machine.execSel f k s
  | .mov f => Sys2Proof.Machine.execMov f s
  | .movi f imm => Sys2Proof.Machine.execMovi f imm s
  | .cvt f m => Sys2Proof.Machine.execCvt f m s
  | .pack f mode => Sys2Proof.Machine.execPack f mode s
  | .unpk f hi => Sys2Proof.Machine.execUnpk f hi s
  | .sreg f sel => Sys2Proof.Machine.execSreg f sel s
  | .fadd f => Sys2Proof.Machine.execFadd f s
  | .fsub f => Sys2Proof.Machine.execFsub f s
  | .fmul f => Sys2Proof.Machine.execFmul f s
  | .ffma f => Sys2Proof.Machine.execFfma f s
  | .fmin f => Sys2Proof.Machine.execFmin f s
  | .fmax f => Sys2Proof.Machine.execFmax f s
  | .frnd f => Sys2Proof.Machine.execFrnd f s
  | .fdot2 f => Sys2Proof.Machine.execFdot2 f s
  | .frcpe f => Sys2Proof.Machine.execFrcpe f s
  | .frsqe f => Sys2Proof.Machine.execFrsqe f s
  | .fex2 f => Sys2Proof.Machine.execFex2 f s
  | .flg2 f => Sys2Proof.Machine.execFlg2 f s
  | .fsin f => Sys2Proof.Machine.execFsin f s
  | .fcos f => Sys2Proof.Machine.execFcos f s
  | .mmac f freg => Sys2Proof.Machine.execMmac f freg s
  | .xget f => Sys2Proof.Machine.execXget f s
  | .xput f => Sys2Proof.Machine.execXput f s
  | .xbcast f => Sys2Proof.Machine.execXbcast f s
  | .xred f op => Sys2Proof.Machine.execXred f op s
  | .xscan f op excl => Sys2Proof.Machine.execXscan f op excl s
  | .xvote f mode k => Sys2Proof.Machine.execXvote f mode k s
  | .ld f m => Sys2Proof.Machine.execLd f m s
  | .st f m => Sys2Proof.Machine.execSt f m s
  | .lds f m => Sys2Proof.Machine.execLds f m s
  | .sts f m => Sys2Proof.Machine.execSts f m s
  | .atom f m => Sys2Proof.Machine.execAtom f m s
  | .red f m => Sys2Proof.Machine.execRed f m s
  | .pref f lvl rq => Sys2Proof.Machine.execPref f lvl rq s
  | .sdesc f kind del => Sys2Proof.Machine.execSdesc f kind del s
  | .subp f => Sys2Proof.Machine.execSubp f s
  | .unsp f => Sys2Proof.Machine.execUnsp f s
  | .upgp f => Sys2Proof.Machine.execUpgp f s
  | .cinv f scope => Sys2Proof.Machine.execCinv f scope s
  | .cwb f scope => Sys2Proof.Machine.execCwb f scope s
  | .cdisc f scope => Sys2Proof.Machine.execCdisc f scope s
  | .fence f m => Sys2Proof.Machine.execFence f m s
  | .bara f m => Sys2Proof.Machine.execBara f m s
  | .barw f net => Sys2Proof.Machine.execBarw f net s
  | .bartw f net => Sys2Proof.Machine.execBartw f net s
  | .qpush f => Sys2Proof.Machine.execQpush f s
  | .qpop f => Sys2Proof.Machine.execQpop f s
  | .twait f cond w32 scope => Sys2Proof.Machine.execTwait f cond w32 scope s
  | .waitt f scope => Sys2Proof.Machine.execWaitt f scope s
  | .rast f => Sys2Proof.Machine.execRast f s
  | .samp f => Sys2Proof.Machine.execSamp f s
  | .sampg f => Sys2Proof.Machine.execSampg f s
  | .trace f => Sys2Proof.Machine.execTrace f s
  | .omrg f seq close => Sys2Proof.Machine.execOmrg f seq close s
  | .ckacc f flt => Sys2Proof.Machine.execCkacc f flt s
  | .cktest f flt => Sys2Proof.Machine.execCktest f flt s
  | .idem f fin => Sys2Proof.Machine.execIdem f fin s
  | .trapl f => Sys2Proof.Machine.execTrapl f s
  | .nop f => Sys2Proof.Machine.execNop f s
  | .scAdd d a b => Sys2Proof.Machine.execScAdd d a b s
  | .scAddImm d a imm => Sys2Proof.Machine.execScAddImm d a imm s
  | .scSub d a b => Sys2Proof.Machine.execScSub d a b s
  | .scSubImm d a imm => Sys2Proof.Machine.execScSubImm d a imm s
  | .scMul d a b => Sys2Proof.Machine.execScMul d a b s
  | .scMulImm d a imm => Sys2Proof.Machine.execScMulImm d a imm s
  | .scMulh d a b => Sys2Proof.Machine.execScMulh d a b s
  | .scMulhImm d a imm => Sys2Proof.Machine.execScMulhImm d a imm s
  | .scDiv d a b => Sys2Proof.Machine.execScDiv d a b s
  | .scDivImm d a imm => Sys2Proof.Machine.execScDivImm d a imm s
  | .scRem d a b => Sys2Proof.Machine.execScRem d a b s
  | .scRemImm d a imm => Sys2Proof.Machine.execScRemImm d a imm s
  | .scAnd d a b => Sys2Proof.Machine.execScAnd d a b s
  | .scAndImm d a imm => Sys2Proof.Machine.execScAndImm d a imm s
  | .scOr d a b => Sys2Proof.Machine.execScOr d a b s
  | .scOrImm d a imm => Sys2Proof.Machine.execScOrImm d a imm s
  | .scXor d a b => Sys2Proof.Machine.execScXor d a b s
  | .scXorImm d a imm => Sys2Proof.Machine.execScXorImm d a imm s
  | .scShl d a b => Sys2Proof.Machine.execScShl d a b s
  | .scShlImm d a imm => Sys2Proof.Machine.execScShlImm d a imm s
  | .scShr d a b => Sys2Proof.Machine.execScShr d a b s
  | .scShrImm d a imm => Sys2Proof.Machine.execScShrImm d a imm s
  | .scSra d a b => Sys2Proof.Machine.execScSra d a b s
  | .scSraImm d a imm => Sys2Proof.Machine.execScSraImm d a imm s
  | .scBitc d a cnt => Sys2Proof.Machine.execScBitc d a cnt s
  | .scSet d a b cond => Sys2Proof.Machine.execScSet d a b cond s
  | .scSel d a b sel => Sys2Proof.Machine.execScSel d a b sel s
  | .scMov d a => Sys2Proof.Machine.execScMov d a s
  | .scLimm d chunk ins imm => Sys2Proof.Machine.execScLimm d chunk ins imm s
  | .scBr r bit sense off => Sys2Proof.Machine.execScBr r bit sense off s
  | .scJmp off => Sys2Proof.Machine.execScJmp off s
  | .scCall off => Sys2Proof.Machine.execScCall off s
  | .scRet => Sys2Proof.Machine.execScRet s
  | .scLd d a off ord scope => Sys2Proof.Machine.execScLd d a off ord scope s
  | .scSt d a off ord scope => Sys2Proof.Machine.execScSt d a off ord scope s
  | .scAtom d a b aop scope => Sys2Proof.Machine.execScAtom d a b aop scope s
  | .scFence m => Sys2Proof.Machine.execScFence m s
  | .scLrun cnt => Sys2Proof.Machine.execScLrun cnt s
  | .scLset off pf cnt => Sys2Proof.Machine.execScLset off pf cnt s
  | .scLwait => Sys2Proof.Machine.execScLwait s
  | .scPush d a q => Sys2Proof.Machine.execScPush d a q s
  | .scFetch d a => Sys2Proof.Machine.execScFetch d a s
  | .scYield => Sys2Proof.Machine.execScYield s
  | .scExit => Sys2Proof.Machine.execScExit s
  | .scCsrr d num => Sys2Proof.Machine.execScCsrr d num s
  | .scCsrw a num => Sys2Proof.Machine.execScCsrw a num s
  | .scTrap code => Sys2Proof.Machine.execScTrap code s
  | .scTrapReturn => Sys2Proof.Machine.execScTrapReturn s
  | .scNop => Sys2Proof.Machine.execScNop s
  | .trLdn mi win lay => Sys2Proof.Machine.execTrLdn mi win lay s
  | .trBox md => Sys2Proof.Machine.execTrBox md s
  | .trTri cb mt off4 cf => Sys2Proof.Machine.execTrTri cb mt off4 cf s
  | .trXfm off16 back => Sys2Proof.Machine.execTrXfm off16 back s
  | .trDec md boff sz => Sys2Proof.Machine.execTrDec md boff sz s
  | .trPush ma mb => Sys2Proof.Machine.execTrPush ma mb s
  | .trPop mi mt cb cull => Sys2Proof.Machine.execTrPop mi mt cb cull s
  | .trSort md mn => Sys2Proof.Machine.execTrSort md mn s
  | .trHit mt mp mi mu => Sys2Proof.Machine.execTrHit mt mp mi mu s
  | .trAny mt mp mi mu => Sys2Proof.Machine.execTrAny mt mp mi mu s
  | .trBr cb sense target => Sys2Proof.Machine.execTrBr cb sense target s
  | .trJmp target => Sys2Proof.Machine.execTrJmp target s
  | .trAlu md ma mb fn => Sys2Proof.Machine.execTrAlu md ma mb fn s
  | .trLdi md hi imm => Sys2Proof.Machine.execTrLdi md hi imm s
  | .trBnd cb mi lay => Sys2Proof.Machine.execTrBnd cb mi lay s
  | .trEnd => Sys2Proof.Machine.execTrEnd s
  | .rootPointerInstall asid root => Sys2Proof.Machine.execRootPointerInstall asid root s
  | .deviceBiasSet region => Sys2Proof.Machine.execDeviceBiasSet region s
  | .illegalScalarWord w => Sys2Proof.Machine.execIllegalScalarWord w s
  | .undefinedMicroOpcode w => Sys2Proof.Machine.execUndefinedMicroOpcode w s
  | .scalarFetchFault => Sys2Proof.Machine.execScalarFetchFault s

end Sys2Proof.Machine
end

