-- ==== Sys2Proof/Machine/Step.lean ====
section
/-! DEFINITION. One step of the machine: the next turn is taken off the agenda, and the instruction or event
that it comes to is executed (log 2). -/

namespace Sys2Proof.Machine

/-- One step. -/
def step (s : State) : Host.Outcome State Fault Refusal :=
  match move (takeTurn s).2 (takeTurn s).1 with
  | .idle t => .next (settle s t)
  | .run i t => settled s (exec i t)
  | .stop r => .fault r

/-- The state with an instruction's bits where the next step fetches them. -/
def State.withFetchWord (s : State) (nbits w : Nat) : State := placeWord s nbits w

end Sys2Proof.Machine
end

