-- ==== Sys2Proof/Safety.lean ====
section
/-! DEFINITION. What counts as a safe run, and the terms that statements use: the canonical form of memory, a group, a ray
or an entry that is ready, what an instruction writes, and what it leaves alone. -/

namespace Sys2Proof.Machine

/-- The canonical form of memory: pool bytes, and the dirty copies of local frames and of the LLC. -/
def memWf (m : Mem) : Bool := Cells.wf 0 m.pool && Cells.rising 0 m.loc && Cells.rising 0 m.llc

/-- A step goes on: it answers a next state. -/
def Goes (s : State) : Prop := ∃ t, step s = .next t

/-- Every one of the first `n` steps goes on. -/
def SafeRun : Nat → State → Prop
  | 0, _ => True
  | n + 1, s => ∃ t, step s = .next t ∧ SafeRun n t

/-! ## Lane instructions -/

/-- The entry is the head of the queue of the group whose turn it is, and the checks at issue find nothing: no row that
the instruction reads or writes is pending or held (R44), and no row that it reads is poisoned (R282). -/
abbrev LaneReady (s : State) (i : Instr) (g : Group) (q : QEntry) : Prop :=
  curG s = some g ∧ g.queue.head? = some q ∧
  (∀ r ∈ (laneRows i).1 ++ (laneRows i).2, r ∉ g.pend ∧ r ∉ g.held) ∧
  (∀ r ∈ (laneRows i).1, (g.gid, r) ∉ s.poisonRows)

/-- The thread whose operands thread `t` uses (R35). -/
def sourceOf (g : Group) (q : QEntry) (f : LaneForm) (t : Nat) : Nat := srcThr f (actives g q f) t

/-- The instruction answers a next state in which its entry has left the queue, every active thread's row d is the first
part of `out` at the thread whose operands it uses, and the second parts are ORed into cr.fflags (R34, R35, R67, R80). -/
def LaneWrites (i : Instr) (f : LaneForm) (s : State) (g : Group) (q : QEntry) (out : Nat → Dword × Flags) : Prop :=
  ∃ t g', exec i s = .next t ∧ curG t = some g' ∧ g'.queue = g.queue.tail ∧
    (∀ thr ∈ actives g q f, lane g' f.d.toNat thr = (out (sourceOf g q f thr)).1) ∧
    g'.fflags = g.fflags ||| unionFlags ((actives g q f).map fun thr => (out (sourceOf g q f thr)).2)

/-- A row of elements computed one by one from the elements of a, b and c, with the flags of each (R66, R310). -/
def byElem (g : Group) (q : QEntry) (f : LaneForm) (k : Nat → Nat → Nat → Nat × Flags) (t : Nat) : Dword × Flags :=
  let r := tab (elemCount f.ty) fun e => k (elem f.ty (opA g f t) e) (elem f.ty (opB g q f t) e) (elem f.ty (opC g q f t) e)
  (rowElems f.ty (r.map Prod.fst), unionFlags (r.map Prod.snd))

/-- A row of integer elements: each exact result is wrapped, or clamped under `.sat` (R96). -/
def byInt (g : Group) (q : QEntry) (f : LaneForm) (sat : Bool) (op : Int → Int → Int → Int) : Nat → Dword × Flags :=
  byElem g q f fun x y z =>
    let v := op (readInt f.ty x) (readInt f.ty y) (readInt f.ty z)
    (if sat then clampTo (isSigned f.ty) (elemWidth f.ty) v else wrapTo (elemWidth f.ty) v, 0)

/-- A row of elements that are functions of the bits of the elements of a, b and c. -/
def byBits (g : Group) (q : QEntry) (f : LaneForm) (op : Nat → Nat → Nat → Nat) : Nat → Dword × Flags :=
  byElem g q f fun x y z => (op x y z % 2 ^ elemWidth f.ty, 0)

/-- A result and its flags are an exact value that is not 0, rounded once: the pattern that represents the value, with no flag,
where there is one; and where its magnitude lies between two neighbouring patterns, the one that the mode names, with nx, and uf
beside it at most (R93, R95). -/
def RoundsOnce (f : Fmt) (rm : Rm) (v : Q) (r : Nat × Flags) : Prop :=
  v.n ≠ 0 →
  (∀ (x d : Nat) (a : Int), x < 2 ^ f.width → dec f x = .fin v.isNeg ⟨a, d⟩ → a * v.d = v.n * d → r = (x, 0)) ∧
  (∀ (x a b d : Nat), dec f x = .fin false ⟨a, d⟩ → dec f (x + 1) = .fin false ⟨b, d⟩ → x + 1 ≤ f.maxBits →
    a * v.d < v.n.natAbs * d → v.n.natAbs * d < b * v.d →
    let up := match rm with
      | .rne => (a + b) * v.d < 2 * (v.n.natAbs * d) ∨ ((a + b) * v.d = 2 * (v.n.natAbs * d) ∧ x % 2 = 1)
      | .rtz => False
      | .rup => 0 < v.n
      | .rdn => v.n < 0
      | .rna => (a + b) * v.d ≤ 2 * (v.n.natAbs * d)
    (up → r.1 = signBit f v.isNeg + (x + 1)) ∧ (¬ up → r.1 = signBit f v.isNeg + x) ∧ (r.2 = nxF ∨ r.2 = nxF ||| ufF))

/-- An integer is the one to which a mode rounds an exact value (R93, R343). -/
def NearInt (rm : Rm) (v : Q) (k : Int) : Prop :=
  let off := 2 * (k * v.d - v.n).natAbs
  match rm with
  | .rne => off ≤ v.d ∧ (off = v.d → k % 2 = 0)
  | .rtz => k = v.n.tdiv v.d
  | .rup => k = -(-v.n / v.d)
  | .rdn => k = v.n / v.d
  | .rna => off ≤ v.d ∧ (off = v.d → v.n.natAbs ≤ k.natAbs * v.d)

/-- A whole row from the rows of a, b and c, with no flag. -/
def byRow (g : Group) (q : QEntry) (f : LaneForm) (op : Dword → Dword → Dword → Dword) (t : Nat) : Dword × Flags :=
  (op (opA g f t) (opB g q f t) (opC g q f t), 0)

/-- The form of a lane instruction whose results are written when it issues and which names one destination row; `none`
for every other instruction. -/
def inPipe : Instr → Option LaneForm
  | .iadd f _ => some f | .isub f _ => some f | .imul f _ => some f | .imulh f => some f | .imad f _ => some f
  | .imin f => some f | .imax f => some f | .iabs f _ => some f | .idp4 f _ => some f | .lop3 f _ => some f
  | .shl f => some f | .shr f => some f | .sra f => some f | .fshl f => some f | .fshr f => some f | .brev f => some f
  | .popc f => some f | .clz f => some f | .bfe f => some f | .bfi f => some f | .bperm f => some f
  | .icmp f _ => some f | .fcmp f _ => some f | .sel f _ => some f | .mov f => some f | .movi f _ => some f
  | .cvt f _ => some f | .pack f _ => some f | .unpk f _ => some f | .sreg f _ => some f | .fadd f => some f
  | .fsub f => some f | .fmul f => some f | .ffma f => some f | .fmin f => some f | .fmax f => some f
  | .frnd f => some f | .fdot2 f => some f | .frcpe f => some f | .frsqe f => some f | .fex2 f => some f
  | .flg2 f => some f | .fsin f => some f | .fcos f => some f | .xget f => some f | .xbcast f => some f
  | .xscan f _ _ => some f | .xvote f _ _ => some f
  | _ => none

/-- Everything that the two states hold of memory reads alike: every byte of the address space, at its home and coherently,
and every byte of every scratchpad. -/
def SameMemory (s t : State) : Prop :=
  (∀ a, cohByte t a = cohByte s a) ∧ (∀ a, homeByte t.mem a = homeByte s.mem a) ∧
  ∀ core off, spadByte t core off = spadByte s core off

/-- Every group but the one whose turn it is keeps every field. -/
def SameOthers (s t : State) : Prop := ∀ n, n ≠ s.cur → findGroup t.groups n = findGroup s.groups n

/-- The special registers of a group that no computing instruction writes (R48, R78, R273, R283). -/
def SameControl (g g' : Group) : Prop :=
  g'.trapvec = g.trapvec ∧ g'.handler = g.handler ∧ g'.replay = g.replay ∧ g'.fmtword = g.fmtword ∧ g'.slips = g.slips ∧
  g'.idemspc = g.idemspc ∧ g'.idemlpc = g.idemlpc ∧ g'.restarts = g.restarts ∧ g'.stkbase = g.stkbase ∧
  g'.stklimit = g.stklimit ∧ g'.resv = g.resv

/-! ## Lane accesses -/

/-- What LD does to global memory (R357, R358). -/
def loadOf (f : LaneForm) (m : MemMod) : GlobalOp :=
  { need := needLoad, size := accSize f.ty m.sz, kind := .load, rq := m.req, ord := m.ord, scope := m.scope
    sz := m.sz, aop := .add, res := some .load, data := fun _ => 0, cmp := fun _ => 0 }

/-- What ST does to global memory: operand c of each thread is stored (R357, R358). -/
def storeOf (g : Group) (q : QEntry) (f : LaneForm) (m : MemMod) : GlobalOp :=
  { need := needStore, size := accSize f.ty m.sz, kind := .store, rq := m.req, ord := m.ord, scope := m.scope
    sz := m.sz, aop := .add, res := none, data := opC g q f, cmp := fun _ => 0 }

/-- The lane instructions that access global memory, each with its operation and the address of a thread (R315, R358,
R384). -/
inductive GlobalForm (g : Group) (q : QEntry) (f : LaneForm) : Instr → GlobalOp → (Nat → Dword) → Prop where
  | ld (m : MemMod) : GlobalForm g q f (.ld f m) (loadOf f m) (addrAB g q f)
  | st (m : MemMod) : GlobalForm g q f (.st f m) (storeOf g q f m) (addrAB g q f)
  | atom (m : AtomMod) : m.spad = false →
      GlobalForm g q f (.atom f m) (globalAtom g q f m false) fun t => lane g f.a.toNat t
  | red (m : AtomMod) : m.spad = false →
      GlobalForm g q f (.red f m) (globalAtom g q f m true) fun t => lane g f.a.toNat t

/-- What LDS and STS do to the scratchpad (R361, R362). -/
def ldsOf (f : LaneForm) (m : MemMod) : SpadOp :=
  { need := needLoad, size := accSize f.ty m.sz, release := false, sc := m.ord == .sc, scope := spadScope m.scope, res := some .scratch
    upd := none, row := fun v => spadRow f m.sz v, reds := false }
def stsOf (g : Group) (q : QEntry) (f : LaneForm) (m : MemMod) : SpadOp :=
  { need := needStore, size := accSize f.ty m.sz, release := m.ord != .plain, sc := m.ord == .sc, scope := spadScope m.scope, res := none
    upd := some fun t _ => ((opC g q f t).toNat % 2 ^ (8 * accSize f.ty m.sz), 0), row := fun _ => 0, reds := false }

/-- The lane instructions that access the scratchpad, each with its operation and the offset of a thread (R315, R361, R384). -/
inductive SpadForm (g : Group) (q : QEntry) (f : LaneForm) : Instr → SpadOp → (Nat → Int) → Prop where
  | lds (m : MemMod) : SpadForm g q f (.lds f m) (ldsOf f m) (spadOff g q f)
  | sts (m : MemMod) : SpadForm g q f (.sts f m) (stsOf g q f m) (spadOff g q f)
  | atom (m : AtomMod) : m.spad = true →
      SpadForm g q f (.atom f m) (spadAtom g q f m false) fun t => (lane g f.a.toNat t).toInt
  | red (m : AtomMod) : m.spad = true →
      SpadForm g q f (.red f m) (spadAtom g q f m true) fun t => (lane g f.a.toNat t).toInt

/-- What the report of a failing page leaves for its settlement: a residency fault on its way to the page's Gleaner, or a
record of a translation or a protection fault for the driver, each of which releases the group (R261 to R265). -/
def Reported (t : State) (g : Group) (va : Nat) : Hit → Prop
  | .absent pa => ∃ w ∈ t.waits, w.page = pageOf pa ∧ w.waiter = .group g.gid
  | .xlate l e => ∃ r ∈ t.faults, r.kind = 1 ∧ r.asid = g.asid ∧ r.gid = g.gid ∧ r.va = dw va ∧
      r.detail = [dw l, dw e, 0, 0] ∧ r.waiter = some (.group g.gid)
  | .prot e => ∃ r ∈ t.faults, r.kind = 2 ∧ r.asid = g.asid ∧ r.gid = g.gid ∧ r.va = dw va ∧
      r.detail = [dw e, 0, 0, 0] ∧ r.waiter = some (.group g.gid)
  | _ => False

/-- What a state and a group are once the bytes of the group's stack cache that a test selects have been written back; they are as
they were where it selects none (R119). -/
def Spilled (s : State) (g : Group) (p : Nat → Bool) (s1 : State) (g1 : Group) : Prop :=
  ((g.stack.any fun e => p e.1) = false ∧ s1 = s ∧ g1 = g) ∨
  ((g.stack.any fun e => p e.1) = true ∧ spillCharged s g (laneWho g) p = (s1, true) ∧
    g1 = (findGroup s1.groups g.gid).getD g)

/-! ## Scalar instructions -/

/-- It is the group's turn, and none of the registers that the instruction names is reserved (R40). -/
abbrev ScalarReady (s : State) (g : Group) (regs : List SReg) : Prop :=
  curG s = some g ∧ ∀ r ∈ regs, reserved g r.toNat = false

/-- The instruction answers the next state in which its register holds the value and SPC is past it; a value outside the
private stack for s63 takes STACK (R71, R119). -/
def ScalarWrites (i : Instr) (s : State) (g : Group) (d : SReg) (v : Dword) : Prop :=
  exec i s = .next (if d = 63 ∧ stackBad g v = true then trapScalar s g tStack v.toNat
    else setG s { setScal g d.toNat v with spc := g.spc + 4, offS := none, target := .none, carried := [] })

/-- The instruction answers the next state in which only the group differs. -/
def ScalarMoves (i : Instr) (s : State) (g : Group) (spc : Dword) : Prop :=
  exec i s = .next (setG s { g with spc := spc, offS := none, target := .none, carried := [] })

/-- The destination and the sources of a scalar instruction that computes one register from others. -/
def computes : Instr → Option (SReg × List SReg)
  | .scAdd d a b => some (d, [a, b]) | .scSub d a b => some (d, [a, b]) | .scMul d a b => some (d, [a, b])
  | .scMulh d a b => some (d, [a, b]) | .scDiv d a b => some (d, [a, b]) | .scRem d a b => some (d, [a, b])
  | .scAnd d a b => some (d, [a, b]) | .scOr d a b => some (d, [a, b]) | .scXor d a b => some (d, [a, b])
  | .scShl d a b => some (d, [a, b]) | .scShr d a b => some (d, [a, b]) | .scSra d a b => some (d, [a, b])
  | .scAddImm d a _ => some (d, [a]) | .scSubImm d a _ => some (d, [a]) | .scMulImm d a _ => some (d, [a])
  | .scMulhImm d a _ => some (d, [a]) | .scDivImm d a _ => some (d, [a]) | .scRemImm d a _ => some (d, [a])
  | .scAndImm d a _ => some (d, [a]) | .scOrImm d a _ => some (d, [a]) | .scXorImm d a _ => some (d, [a])
  | .scShlImm d a _ => some (d, [a]) | .scShrImm d a _ => some (d, [a]) | .scSraImm d a _ => some (d, [a])
  | .scBitc d a _ => some (d, [a]) | .scSet d a b _ => some (d, [a, b]) | .scSel d a b c => some (d, [a, b, c])
  | .scMov d a => some (d, [a]) | .scLimm d _ _ _ => some (d, [])
  | _ => none

/-- The registers that a scalar instruction which does not compute reads, and then those that it writes, where it names any
(R40, R389, R390). -/
def names : Instr → Option (List SReg)
  | .scLd d a _ _ _ => some [a, d] | .scSt d a _ _ _ => some [a, d] | .scAtom d a b _ _ => some [a, b, d]
  | .scBr r _ _ _ => some [r] | .scCall _ => some [62] | .scRet => some [62]
  | .scPush d a _ => some (tab 8 (fun k => a + BitVec.ofNat 6 k) ++ [d]) | .scFetch d a => some [a, d]
  | .scCsrr d _ => some [d] | .scCsrw a _ => some [a]
  | _ => none

/-! ## Rays -/

/-- It is the ray's turn, it is in a slot of the core's traversal engine (R222), and its storage is not poisoned (R282). -/
abbrev RayReady (s : State) (r : Ray) (core : Nat) : Prop :=
  findRay s s.curRay = some r ∧ r.stage = .slot core ∧ r.bad = false

/-- The micro-instruction answers the next state in which the ray is as given, one step counted, at its next word (R222,
R236). -/
def RayGoes (i : Instr) (s : State) (r : Ray) : Prop :=
  exec i s = .next (setRay s { r with steps := r.steps + 1, pc := r.pc + 1 })

/-- What working a ray's stack comes to when nothing holds it up: a ray that has not been resumed works it in its engine; a
resumed one in the ray area, once the lines have been charged to its core, where no entry that it takes is poisoned (R232,
R240, R243). -/
def StackGoes (s : State) (core : Nat) (r n : Ray) (reads : Nat) (t : State) : Prop :=
  let on := fun (s : State) => setRay s { n with steps := n.steps + 1, pc := n.pc + 1 }
  (r.flags.getLsbD 1 = false ∧ t = on s) ∨
  (∃ g, r.flags.getLsbD 1 = true ∧ findGroup s.groups r.gid = some g ∧
    ((stackLines s g r n reads = [] ∧ t = on s) ∨
     ∃ s1, stackLines s g r n reads ≠ [] ∧ reachCore s core (.ray r.id) clsDemand (stackLines s g r n reads) = (s1, true) ∧
       (∀ k ∈ stackGets r reads, poisoned s1 (stackAt s g r k) 8 = false) ∧ t = on (stackWrite s1 g r n)))

/-- The micro-instruction answers the next state in which the ray has ended with a status, one step counted (R233). -/
def RayEnds (i : Instr) (s : State) (r : Ray) (status : Nat) : Prop :=
  exec i s = .next (endRay s { r with steps := r.steps + 1 } status)

end Sys2Proof.Machine
end

