-- ==== Sys2Proof/Certificates/Slice0/Obligations.lean ====
section
/-! DEFINITION. The statements for the provers. Each docstring names the rules of the spec that the statement rests on. -/

open Sys2Proof Sys2Proof.Machine

/-! ## Encoding -/

/-- Decoding the word of a well-formed lane instruction gives the instruction back, with every operand at every value;
the one exception is the word of three zero units, which is illegal (R62 to R64, R68). A legal lane instruction is read back
from its bytes in memory, prefix first, and the bytes after it are left (R4, R62, R68). -/
def Obligations.LaneWordsRoundTrip : Prop :=
  (∀ (i : Instr) (p : Option Word) (w : LaneBits), i.wf = true → encodeLane i = some (p, w) →
    decodeLane p w = if w = 0 then none else some i) ∧
  (∀ (i : Instr) (p : Option Word) (w : LaneBits) (rest : List Byte), decodeLane p w = some i →
    decodeLaneBytes (laneBytes p w ++ rest) = some (i, rest))

/-- Decoding the word of a well-formed scalar instruction, or of a well-formed micro-instruction, gives the instruction back
(R70, R74, R390, R428). -/
def Obligations.ScalarAndMicroWordsRoundTrip : Prop :=
  (∀ (i : Instr) (w : Word), i.wf = true → encodeScalar i = some w → decodeScalar w = some i) ∧
  (∀ (i : Instr) (w : Word), i.wf = true → encodeMicro i = some w → decodeMicro w = some i)

/-- Words written out from the spec's encodings decode to what they stand for (R62, R70, R74, R75, R390, R428): IADD.s32 v10, v1, v2;
SC.ADD s1, s2, s3; SC.JMP of +1 unit; SC.TRAP −1; TR.JMP 3. Illegal encodings are refused: three zero units; the opcode value
that marks a prefix, so that a second prefix is illegal; and the scalar and micro words of zeros (R63, R69, R70, R74). -/
def Obligations.KnownAndIllegalWords : Prop :=
  decodeLane none (BitVec.ofNat 96 (1 * 2 ^ 23 + 2 * 2 ^ 34 + 10 * 2 ^ 12)) =
      some (.iadd ⟨none, .s32, none, 1, .lane 2, .lane 0, 10, false, false⟩ false) ∧
  decodeScalar (BitVec.ofNat 32 (0x01 + 1 * 2 ^ 7 + 2 * 2 ^ 13 + 3 * 2 ^ 19)) = some (.scAdd 1 2 3) ∧
  decodeScalar (BitVec.ofNat 32 (0x21 + 1 * 2 ^ 7)) = some (.scJmp 1) ∧
  decodeScalar 0xFFF80052 = some .scTrapReturn ∧
  decodeMicro (BitVec.ofNat 32 (0x0C + 3 * 2 ^ 5)) = some (.trJmp 3) ∧
  (∀ p, decodeLane p 0 = none) ∧
  (∀ p (w : LaneBits), w.extractLsb' 0 10 = 0x3FF → decodeLane p w = none) ∧
  decodeScalar 0 = none ∧ decodeMicro 0 = none

/-! ## Steps -/

/-- A step runs the decoded instruction, on the state with the turn taken, and with what follows every step after it. The
scalar turn of a group that may issue, with no older group of its partition that could, runs the word at SPC, the group's turn
noted and the translation kept; the lane turn of such a group that holds a pipe runs the entry at the head of its lane queue; the micro turn of a ray in an engine slot, with budget
left, runs the word at its pc; an event turn runs its event (R34, R37, R50, R60, R222, R236). That one turn of one agent is a
step, the agenda that orders them, and that a group whose turn in the same tick completed no instruction bars no younger one, are the
model's choices (log 2, log 46). -/
def Obligations.StepRunsTheDecodedInstruction : Prop :=
  (∀ (s : State) (gid : Nat) (rest : List Turn) (g : Group) (w : Word) (i : Instr),
    s.agenda = .scalar gid :: rest → findGroup s.groups gid = some g → canIssue { s with agenda := rest } g = true →
    g.park = .none → g.run = [] → g.frozenS = false → g.frozenL = false → g.pairWait = none → g.answer = none →
    passedOver { s with agenda := rest } g scalarCould = false →
    fetchUnit (offer { s with agenda := rest } gid false) g.core g.asid g.spc.toNat = .word w → decodeScalar w = some i →
    step s = settled s (exec i (learn (offer { s with agenda := rest } gid false) g.asid g.spc.toNat))) ∧
  (∀ (s : State) (gid : Nat) (rest : List Turn) (g : Group) (q : QEntry) (i : Instr),
    s.agenda = .lane gid :: rest → findGroup s.groups gid = some g → canIssue { s with agenda := rest } g = true →
    g.park = .none → g.pipe.isSome = true → g.answer = none → g.queue.head? = some q → entryInstr q = some i →
    passedOver { s with agenda := rest } g laneCould = false →
    step s = settled s (exec i (offer { s with agenda := rest } gid true))) ∧
  (∀ (s : State) (ray : Nat) (rest : List Turn) (r : Ray) (core : Nat) (i : Instr),
    s.agenda = .micro ray :: rest → findRay s ray = some r → r.stage = .slot core →
    rayMay { s with agenda := rest } r = true → r.steps < r.budget →
    decodeMicro (microWord { s with agenda := rest } r core) = some i →
    step s = settled s (exec i { s with agenda := rest, curRay := ray })) ∧
  (∀ (s : State) (rest : List Turn) (i : Instr), s.agenda = .event i :: rest →
    step s = settled s (exec i { s with agenda := rest }))

/-- No step stops the machine, except a turn in which an agent outside the package names bytes beyond the 52-bit pool
address space (R113, R304). A turn that is not enabled changes nothing, by the model's choice (log 2). -/
def Obligations.EveryStepGoesOn : Prop :=
  ∀ s : State,
    (∃ t, step s = .next t) ∨
    (∃ who pa bs, (takeTurn s).1 = .outWrite who pa bs ∧ 2 ^ 52 < pa + bs.length ∧ step s = .fault (.noSuchPoolAddress pa)) ∨
    (∃ who pa, (takeTurn s).1 = .outRead who pa ∧ 2 ^ 52 < pa + 64 ∧ step s = .fault (.noSuchPoolAddress pa))

/-! ## Reset and the invariant of memory -/

/-- After reset the package is in bring-up, its time-stamp counter is 0, nothing is enabled and nothing runs (R21, R22); memory is
in its canonical form. That memory lists nothing at reset is the model's choice (log 3). -/
def Obligations.ResetIsBringUp : Prop :=
  State.reset.pkg.up = false ∧ State.reset.pkg.time = 0 ∧ State.reset.pkg.quads = [] ∧ State.reset.groups = [] ∧
  State.reset.crews = [] ∧ State.reset.grids = [] ∧ State.reset.queues = [] ∧ memWf State.reset.mem = true

/-- Every step that goes on keeps memory in its canonical form: keys strictly rising, and no pool byte listed that reads as an
unlisted one. Memory is what R4 and R122 lay out; its canonical form, and the 0 of a byte that nothing has written, are the
model's own choice (log 3). -/
def Obligations.StepKeepsMemoryCanonical : Prop :=
  ∀ s t : State, memWf s.mem = true → step s = .next t → memWf t.mem = true

/-! ## Scalar registers and arithmetic -/

/-- s0 reads 0 whatever was written to it; a write to any other register is read back, and no other register changes (R32,
R389). -/
def Obligations.ScalarRegisters : Prop :=
  ∀ (g : Group) (n : SReg) (m : SReg) (v : Dword),
    scal g 0 = 0 ∧ scal (setScal g n.toNat v) m.toNat = (if m = n ∧ n ≠ 0 then v else scal g m.toNat) ∧ setScal g 0 v = g

/-- The register and the immediate forms of SC.ADD to SC.SRA write the results of R391, with the special cases of R392, and
SPC goes on; a result for s63 that lies outside the private stack takes STACK instead (R71, R119). -/
def Obligations.ScalarArithmetic : Prop :=
  (∀ (s : State) (g : Group) (d a b : SReg), ScalarReady s g [a, b, d] →
    let x := scal g a.toNat
    let y := scal g b.toNat
    let k := y.toNat % 64
    ScalarWrites (.scAdd d a b) s g d (x + y) ∧
    ScalarWrites (.scSub d a b) s g d (x - y) ∧
    ScalarWrites (.scMul d a b) s g d (x * y) ∧
    ScalarWrites (.scMulh d a b) s g d (BitVec.ofInt 64 (x.toInt * y.toInt / 2 ^ 64)) ∧
    ScalarWrites (.scDiv d a b) s g d (if y = 0 then BitVec.allOnes 64 else BitVec.ofInt 64 (x.toInt.tdiv y.toInt)) ∧
    ScalarWrites (.scRem d a b) s g d (if y = 0 then x else BitVec.ofInt 64 (x.toInt.tmod y.toInt)) ∧
    ScalarWrites (.scAnd d a b) s g d (x &&& y) ∧
    ScalarWrites (.scOr d a b) s g d (x ||| y) ∧
    ScalarWrites (.scXor d a b) s g d (x ^^^ y) ∧
    ScalarWrites (.scShl d a b) s g d (BitVec.ofNat 64 (x.toNat * 2 ^ k)) ∧
    ScalarWrites (.scShr d a b) s g d (BitVec.ofNat 64 (x.toNat / 2 ^ k)) ∧
    ScalarWrites (.scSra d a b) s g d (BitVec.ofInt 64 (x.toInt / 2 ^ k))) ∧
  (∀ (s : State) (g : Group) (d a : SReg) (imm : BitVec 13), ScalarReady s g [a, d] →
    let x := scal g a.toNat
    let y : Dword := imm.signExtend 64
    let k := y.toNat % 64
    ScalarWrites (.scAddImm d a imm) s g d (x + y) ∧
    ScalarWrites (.scSubImm d a imm) s g d (x - y) ∧
    ScalarWrites (.scMulImm d a imm) s g d (x * y) ∧
    ScalarWrites (.scMulhImm d a imm) s g d (BitVec.ofInt 64 (x.toInt * y.toInt / 2 ^ 64)) ∧
    ScalarWrites (.scDivImm d a imm) s g d (if y = 0 then BitVec.allOnes 64 else BitVec.ofInt 64 (x.toInt.tdiv y.toInt)) ∧
    ScalarWrites (.scRemImm d a imm) s g d (if y = 0 then x else BitVec.ofInt 64 (x.toInt.tmod y.toInt)) ∧
    ScalarWrites (.scAndImm d a imm) s g d (x &&& y) ∧
    ScalarWrites (.scOrImm d a imm) s g d (x ||| y) ∧
    ScalarWrites (.scXorImm d a imm) s g d (x ^^^ y) ∧
    ScalarWrites (.scShlImm d a imm) s g d (BitVec.ofNat 64 (x.toNat * 2 ^ k)) ∧
    ScalarWrites (.scShrImm d a imm) s g d (BitVec.ofNat 64 (x.toNat / 2 ^ k)) ∧
    ScalarWrites (.scSraImm d a imm) s g d (BitVec.ofInt 64 (x.toInt / 2 ^ k)))

/-- SC.BITC, SC.SET, SC.SEL, SC.MOV and SC.LIMM write the values of R395, R414, R413, R409 and R405. -/
def Obligations.ScalarSelectsAndCounts : Prop :=
  (∀ (s : State) (g : Group) (d a : SReg), ScalarReady s g [a, d] →
    let x := scal g a.toNat
    ScalarWrites (.scBitc d a .popc) s g d (BitVec.ofNat 64 ((List.range 64).filter fun k => x.getLsbD k).length) ∧
    ScalarWrites (.scBitc d a .clz) s g d (BitVec.ofNat 64 ((List.range 64).takeWhile fun k => !x.getLsbD (63 - k)).length) ∧
    ScalarWrites (.scBitc d a .ctz) s g d (BitVec.ofNat 64 ((List.range 64).takeWhile fun k => !x.getLsbD k).length) ∧
    ScalarWrites (.scMov d a) s g d x) ∧
  (∀ (s : State) (g : Group) (d a b : SReg), ScalarReady s g [a, b, d] →
    let x := scal g a.toNat
    let y := scal g b.toNat
    ScalarWrites (.scSet d a b .eq) s g d (if x = y then 1 else 0) ∧
    ScalarWrites (.scSet d a b .ne) s g d (if x = y then 0 else 1) ∧
    ScalarWrites (.scSet d a b .lt) s g d (if x.toInt < y.toInt then 1 else 0) ∧
    ScalarWrites (.scSet d a b .le) s g d (if x.toInt ≤ y.toInt then 1 else 0) ∧
    ScalarWrites (.scSet d a b .ltu) s g d (if x.toNat < y.toNat then 1 else 0) ∧
    ScalarWrites (.scSet d a b .leu) s g d (if x.toNat ≤ y.toNat then 1 else 0)) ∧
  (∀ (s : State) (g : Group) (d a b c : SReg), ScalarReady s g [a, b, c, d] →
    ScalarWrites (.scSel d a b c) s g d (if scal g c.toNat ≠ 0 then scal g a.toNat else scal g b.toNat)) ∧
  (∀ (s : State) (g : Group) (d : SReg) (chunk : BitVec 3) (imm : BitVec 13), ScalarReady s g [d] →
    ScalarWrites (.scLimm d chunk false imm) s g d (BitVec.ofInt 64 (imm.toInt * 2 ^ (13 * chunk.toNat))) ∧
    ∃ v : Dword, ScalarWrites (.scLimm d chunk true imm) s g d v ∧
      ∀ k < 64, v.getLsbD k = if 13 * chunk.toNat ≤ k ∧ k ≤ 13 * chunk.toNat + 12 then imm.getLsbD (k - 13 * chunk.toNat)
        else (scal g d.toNat).getLsbD k)

/-- SC.BR, SC.JMP, SC.CALL and SC.RET move SPC as R72, R396, R397 and R412 say, SC.CALL with SPC + 4 in s62; SC.NOP only
goes on (R410). -/
def Obligations.ScalarTransfers : Prop :=
  (∀ (s : State) (g : Group) (r : SReg) (bit : BitVec 6) (sense : Bool) (off : BitVec 12), ScalarReady s g [r] →
    ScalarMoves (.scBr r bit sense off) s g
      (if (scal g r.toNat).getLsbD bit.toNat = sense then g.spc + BitVec.ofInt 64 (off.toInt * 4) else g.spc + 4)) ∧
  (∀ (s : State) (g : Group) (off : BitVec 25), ScalarReady s g [] →
    ScalarMoves (.scJmp off) s g (g.spc + BitVec.ofInt 64 (off.toInt * 4)) ∧ ScalarMoves .scNop s g (g.spc + 4)) ∧
  (∀ (s : State) (g : Group) (off : BitVec 25), ScalarReady s g [62] →
    exec (.scCall off) s = .next (setG s { setScal g 62 (g.spc + 4) with
      spc := g.spc + BitVec.ofInt 64 (off.toInt * 4), offS := none, target := .none, carried := [] }) ∧
    ScalarMoves .scRet s g (scal g 62 &&& ~~~3#64))

/-- A scalar instruction takes HAZARD, with the number of the first reserved register among those that it reads and then those
that it writes: one that computes, an access of memory, a transfer, a push, SC.FETCH, SC.CSRR and SC.CSRW (R40, R389, R390). A misaligned scalar access takes ALIGN with its address, before anything else; one whose page is absent, not mapped,
or without the right is reported and parks its group, with no request made, at the same instruction; one of a device-only page
takes PROT, and one of a quarantined page consumes poison (R115, R261 to R263, R268, R271, R282, R394, R404). -/
def Obligations.ScalarOperandTraps : Prop :=
  (∀ (i : Instr) (d : SReg) (srcs : List SReg) (s : State) (g : Group) (r : SReg), computes i = some (d, srcs) →
    curG s = some g → (srcs ++ [d]).find? (fun x => reserved g x.toNat) = some r →
    exec i s = .next (takeTrap s g { code := 2, info := r.toNat })) ∧
  (∀ (i : Instr) (regs : List SReg) (s : State) (g : Group) (r : SReg), names i = some regs →
    curG s = some g → regs.find? (fun x => reserved g x.toNat) = some r →
    exec i s = .next (takeTrap s g { code := 2, info := r.toNat })) ∧
  (∀ (s : State) (g : Group),
    (∀ (d a : SReg) (off : BitVec 8) (ord : MOrd) (scope : Scope),
      let x := (scal g a.toNat + BitVec.ofInt 64 (off.toInt * 8)).toNat
      ScalarReady s g [a, d] → x % 8 ≠ 0 →
      exec (.scLd d a off ord scope) s = .next (takeTrap s g { code := 4, info := x }) ∧
      exec (.scSt d a off ord scope) s = .next (takeTrap s g { code := 4, info := x })) ∧
    (∀ (d a b : SReg) (aop : AOp) (scope : Scope), ScalarReady s g [a, b, d] → (scal g a.toNat).toNat % 8 ≠ 0 →
      exec (.scAtom d a b aop scope) s = .next (takeTrap s g { code := 4, info := (scal g a.toNat).toNat }))) ∧
  (∀ (s : State) (g : Group) (d a b : SReg) (off : BitVec 8) (ord : MOrd) (scope : Scope) (aop : AOp) (i : Instr) (va : Nat)
      (n : Need),
    let x := (scal g a.toNat + BitVec.ofInt 64 (off.toInt * 8)).toNat
    (i, va, n) ∈ [(Instr.scLd d a off ord scope, x, needLoad), (.scSt d a off ord scope, x, needStore),
      (.scAtom d a b aop scope, (scal g a.toNat).toNat, needAtomic)] →
    ScalarReady s g [a, b, d] → va % 8 = 0 → fenced s g true = false →
    (∀ h : Hit, look s g.asid va n = h → h.waits = true → ∃ t g', exec i s = .next t ∧ curG t = some g' ∧
      g'.park = .probe 1 ∧ g'.parkLane = false ∧ g'.spc = g.spc ∧ g'.sregs = g.sregs ∧ t.reqs = s.reqs ∧ Reported t g va h ∧
      SameMemory s t) ∧
    (look s g.asid va n = .devOnly → exec i s = .next (takeTrap s g { code := 11, info := va })) ∧
    (∀ pa, look s g.asid va n = .quar pa → exec i s = .next (consume s g 3 pa va n.acc)))

/-- The frame of the scalar instructions that compute: either the value lies outside the private stack, d is s63, and STACK
is taken; or SPC goes on, no scalar register but d changes, and lane registers, flags, queues, special registers, the other
groups, cr.afflags, the matrix engines and every byte of memory stay (R71, R119, R389). -/
def Obligations.ScalarFrame : Prop :=
  ∀ (i : Instr) (d : SReg) (srcs : List SReg) (s : State) (g : Group), computes i = some (d, srcs) →
    ScalarReady s g (srcs ++ [d]) →
    (∃ v, d = 63 ∧ stackBad g v = true ∧ exec i s = .next (takeTrap s g { code := 6, info := v.toNat })) ∨
    ∃ t g', exec i s = .next t ∧ curG t = some g' ∧ g'.spc = g.spc + 4 ∧ (∀ n, n ≠ d.toNat → scal g' n = scal g n) ∧
      g'.lanes = g.lanes ∧ g'.fflags = g.fflags ∧ g'.lpc = g.lpc ∧ g'.queue = g.queue ∧ g'.pend = g.pend ∧
      SameControl g g' ∧ SameOthers s t ∧ t.xl = s.xl ∧ t.engines = s.engines ∧ SameMemory s t

/-! ## Scalar memory, control and traps -/

/-- SC.LD of an aligned address whose page the probe passes: a row of the private stack is read through the stack cache, once it has
been fetched, an acquire dropping the core's unregistered copies; else, when the access may be performed, none of the core's own writes of the line
has a message under way, and its home is reached within the budget, the value that the core sees is written to d and SPC goes on;
a value that d = s63 refuses takes STACK with no other effect of the load (R9, R119, R141, R170, R261, R404). That the access is
performed in this step is the model's order (log 7). -/
def Obligations.ScalarLoad : Prop :=
  ∀ (s s2 : State) (g : Group) (d a : SReg) (off : BitVec 8) (ord : MOrd) (scope : Scope) (pa pte : Nat),
    let x := (scal g a.toNat + BitVec.ofInt 64 (off.toInt * 8)).toNat
    let s1 := learnAll s g.asid (asking needLoad [(0, x)])
    let y : Found := { thr := 0, va := x, pa := pa, ok := pteOk pte }
    let r := scalarReq s1 g y .load ord scope .add 0 0
    let g2 := (findGroup s2.groups g.gid).getD g
    let out := serveLoad s2 r
    let t := advanceStreams out.1 g.core g.asid [y]
    ScalarReady s g [a, d] → x % 8 = 0 → fenced s g true = false → look s g.asid x needLoad = .ok pa pte →
    (stackServes g x = true → stackBusy s1 g y false scope = false → stackFetch s1 g (scalarWho g) [x] = (s2, true) →
      stackPoison s2 g2 x pa 8 = false →
      exec (.scLd d a off ord scope) s = .next (scalarDoneElse s2 (if ord = .plain then s2 else acquireL1 s2 g2.gid g2.core scope)
        { g2 with slow := true } d (dw (stackNat s2 g2 x pa 8)))) ∧
    (stackServes g x = false → scalarFree s1 g y = true →
      (∀ m ∈ s1.coh.msgs, m.core = g.core → m.about (pa / 64) g.asid (x / 64) = false) →
      scalarReach s1 g r = (s2, true) → poisoned s2 pa 8 = false →
      exec (.scLd d a off ord scope) s =
        .next (scalarDoneElse s2 t { (findGroup t.groups g.gid).getD g with slow := true } d (dw ((out.2.map Prod.snd).headD 0))))

/-- SC.ST of an aligned address whose page the probe passes: a row of the private stack is written in the stack cache, once it has been
fetched and after what a release does in the core's L1 once the core's buffered stores have gone home; else a store of the scalar stream is made and SPC
goes on (R119, R123, R141, R261, R403, R404). That the store is a request which its own turns perform is the model's order (log 7). -/
def Obligations.ScalarStore : Prop :=
  ∀ (s s2 s3 : State) (g : Group) (d a : SReg) (off : BitVec 8) (ord : MOrd) (scope : Scope) (pa pte : Nat),
    let x := (scal g a.toNat + BitVec.ofInt 64 (off.toInt * 8)).toNat
    let s1 := learnAll s g.asid (asking needStore [(0, x)])
    let y : Found := { thr := 0, va := x, pa := pa, ok := pteOk pte }
    let g2 := (findGroup s2.groups g.gid).getD g
    ScalarReady s g [a, d] → x % 8 = 0 → fenced s g true = false → look s g.asid x needStore = .ok pa pte →
    (stackServes g x = true → stackBusy s1 g y (ord != .plain) scope = false → stackFetch s1 g (scalarWho g) [x] = (s2, true) →
      (if ord = .plain then (s2, true) else releasePaid s2 (scalarWho g2) (agentOf s2 g2 true 0) scope) = (s3, true) →
      exec (.scSt d a off ord scope) s =
        .next (setG s3 { stackPut g2 x (leBytes 8 (scal g d.toNat).toNat) with
          spc := g2.spc + 4, offS := none, target := .none, carried := [] })) ∧
    (stackServes g x = false → slotsOk s1 g.core [pa / 64] = true →
      exec (.scSt d a off ord scope) s = .next (advanceStreams
        (pushReq (setG s1 { g with spc := g.spc + 4, offS := none, target := .none, carried := [] })
          (scalarReq s1 g y .store ord scope .add (scal g d.toNat) 0)) g.core g.asid [y]))

/-- SC.ATOM of an aligned address whose page the probe passes, when it may be performed, the stack-cache row of its address has
been written back, what it does as a release has been done, and its home is reached within the budget: the old value goes to d, and the location holds the new one; for
cas, d is compared and b is the new value, and a value that d = s63 refuses leaves memory as it was. Beside it, the new values of the
twelve operations on 64 bits, `op` of the old value and the operand (R314, R394). That the access is performed in this step is
the model's order (log 7). -/
def Obligations.ScalarAtomic : Prop :=
  (∀ (s s2 s3 s4 : State) (g : Group) (d a b : SReg) (aop : AOp) (scope : Scope) (pa pte : Nat),
    let x := (scal g a.toNat).toNat
    let s1 := learnAll s g.asid (asking needAtomic [(0, x)])
    let y : Found := { thr := 0, va := x, pa := pa, ok := pteOk pte }
    let data := if aop = .cas then scal g d.toNat else scal g b.toNat
    let r := scalarReq s1 g y .atomic .sc scope aop data (scal g b.toNat)
    let out := serveAtom s4 r
    let t := advanceStreams out.1 g.core g.asid [y]
    ScalarReady s g [a, b, d] → x % 8 = 0 → fenced s g true = false → look s g.asid x needAtomic = .ok pa pte →
    atomWaits s1 g y scope = false → spillCharged s1 g (scalarWho g) (fun va => va / 256 == x / 256) = (s2, true) →
    atomRelease s2 g y scope = (s3, true) → scalarReach s3 g r = (s4, true) → poisoned s4 pa 8 = false →
    exec (.scAtom d a b aop scope) s =
      .next (scalarDoneElse s4 t { (findGroup t.groups g.gid).getD g with slow := true } d (dw ((out.2.1.map Prod.snd).headD 0)))) ∧
  (∀ old b c : Dword,
    let at' := fun (op : AOp) => BitVec.ofNat 64 (atomNew op .s64 old.toNat b.toNat c.toNat).1
    at' .add = old + b ∧ at' .min = (if old.toInt ≤ b.toInt then old else b) ∧
    at' .max = (if old.toInt ≤ b.toInt then b else old) ∧ at' .and = old &&& b ∧ at' .or = old ||| b ∧
    at' .xor = old ^^^ b ∧ at' .swap = b ∧ at' .cas = (if old = b then c else old) ∧
    at' .inc = (if b.toNat ≤ old.toNat then 0 else old + 1) ∧
    at' .dec = (if old = 0 ∨ b.toNat < old.toNat then b else old - 1) ∧
    at' .minu = (if old.toNat ≤ b.toNat then old else b) ∧ at' .maxu = (if old.toNat ≤ b.toNat then b else old))

/-- SC.FENCE takes its place and goes on, once the core's buffered stores have gone home; SC.LSET moves LPC to the lane entry plus its
offset, and with pf prefetches code; SC.LWAIT goes on once the lane stream is idle; SC.YIELD gives the group a new age, behind the
groups that become ready in the same tick, and its pipe back; SC.EXIT of a group whose lane stream is idle, with every access
performed, no fetch outstanding and no ray, ends the group once its stack cache has been written back (R41, R61, R73, R119, R147, R400, R401, R407,
R408, R416). -/
def Obligations.ScalarStreamControl : Prop :=
  ∀ (s : State) (g : Group), ScalarReady s g [] →
    (∀ (m : FenceMod) (s1 : State), flushPaid s (scalarWho g) g.gid g.core none = (s1, true) →
      exec (.scFence m) s = .next (setG s1 (nextSpc (addFence s1 g true 0 m)))) ∧
    (∀ (off : BitVec 19) (pf : Bool) (cnt : BitVec 5) (r : Grid), gridOf s g = some r →
      let dest := r.k.lentry + BitVec.ofInt 64 (off.toInt * 4)
      let s1 := setG s { g with lpc := dest, spc := g.spc + 4, offS := none, target := .none, carried := [] }
      exec (.scLset off pf cnt) s = .next (if pf then prefetchCode s1 g dest.toNat (cnt.toNat + 1) else s1)) ∧
    (g.queue = [] → g.infl = [] →
      exec .scLwait s = .next (setG s { g with linked := s.nextId, spc := g.spc + 4, offS := none, target := .none, carried := [] })) ∧
    exec .scYield s =
      .next (setG s { g with age := s.pkg.time, yielded := true, dim := false, offL := none, pipe := none
                             spc := g.spc + 4, offS := none, target := .none, carried := [] }) ∧
    (∀ s1 : State, g.queue = [] → g.infl = [] → g.fetch = none → (∀ r ∈ s.rays, r.gid ≠ g.gid) →
      (∀ r ∈ s.reqs, r.gid = g.gid → r.kind = .pref ∨ 2 ≤ r.stage) →
      spillCharged s g (scalarWho g) (fun _ => true) = (s1, true) → exec .scExit s =
        .next (endGroup s1 { nextSpc ((findGroup s1.groups g.gid).getD g) with exiting := true }))

/-- SC.LRUN whose whole run passes its checks, with room in the lane queue: the first instruction that does not fit waits, and
SPC passes the SC.LRUN when the last is enqueued; a failed check takes ILLEGAL or HAZARD, and nothing is enqueued (R38, R274, R406).
The checks read the registers as they stood when the SC.LRUN began. That tlpc holds the address of an ILLEGAL instruction is the
model's reading (log 20). -/
def Obligations.LaneRun : Prop :=
  ∀ (s : State) (g : Group) (cnt : BitVec 5) (r : Grid), ScalarReady s g [] → gridOf s g = some r → g.lrem = 0 →
    g.lpc.toNat % 4 = 0 →
    let out := checkRun s (startG g) r.k (cnt.toNat + 1) g.lpc.toNat (startG g).resv []
    (∀ es, out = .ok es → queueFree g = true →
      let h := enqueueAll { g with lrem := 0, begun := none } es
      exec (.scLrun cnt) s = .next (setG s (if h.run = []
        then { h with spc := h.spc + 4, offS := none, target := .none, carried := [] } else h))) ∧
    (∀ pc, out = .illegal pc → exec (.scLrun cnt) s = .next (takeTrap s g { code := 1, info := 0, tlpc := dw pc })) ∧
    (∀ x pc, out = .hazard x pc → exec (.scLrun cnt) s = .next (takeTrap s g { code := 2, info := x.toNat }))

/-- SC.PUSH makes its push, as a release once the core's buffered stores have gone home, and writes the status to d, and a status that d = s63 refuses undoes the push; SC.FETCH in a persistent crew clears its mailbox's ready word, is
outstanding, and writes 0; it writes 2 in a crew of any other grid, and 1 while one is outstanding (R56, R189, R197, R402,
R411). -/
def Obligations.PushAndFetch : Prop :=
  (∀ (s s1 : State) (g : Group) (d a : SReg) (q : BitVec 2),
    let r := pushTo s1 g q.toNat (pushRecord g a.toNat)
    ScalarReady s g (tab 8 (fun k => a + BitVec.ofNat 6 k) ++ [d]) →
    (q = 3 ∨ (fenced s g true = false ∧ releaseWaits s g true 0 .pkg = false)) →
    (if q = 3 then (s, true) else releasePaid s (scalarWho g) (agentOf s g true 0) .pkg) = (s1, true) →
    exec (.scPush d a q) s = .next (scalarDoneElse s1 r.1 ((findGroup r.1.groups g.gid).getD g) d (dw r.2))) ∧
  (∀ (s : State) (g : Group) (d a : SReg) (c : Crew) (r : Grid),
    let off := (scal g a.toNat).toInt
    let s1 := spadWrite s g.core (off.toNat + 12) (leBytes 4 0)
    ScalarReady s g [a, d] → crewOf s g = some c → gridOf s g = some r → off % 16 = 0 → inAlloc c off 16 = true →
    (r.kind ≠ .persist → exec (.scFetch d a) s = .next (scalarDone s g d 2)) ∧
    (r.kind = .persist → g.fetch.isSome = true → exec (.scFetch d a) s = .next (scalarDone s g d 1)) ∧
    (r.kind = .persist → g.fetch = none →
      exec (.scFetch d a) s =
        .next (scalarDoneElse s { s1 with nextId := s.nextId + 1 } { g with fetch := some (off.toNat, s.nextId) } d 0)))

/-- SC.CSRR writes a register's value to d; SC.CSRW writes cr.slips, cr.fflags, cr.fmtword, cr.afflags, cr.trapvec, cr.idemspc
with the restart count at 0, cr.idemlpc, and, in the engine that the crew takes or holds, a tile shape register or cr.tmask, a
change of cr.tmask.pair waiting for the pair's tasks; a number that names no register, and a value wider than the register, take
ILLEGAL; a write of a read-only register, and any access of an engine register while another crew holds the engine, take PRIV with
the number (R78 to R80, R201, R202, R217, R398, R399). The order of PRIV and ILLEGAL is the model's reading (log 25). -/
def Obligations.ControlRegisters : Prop :=
  (∀ (s : State) (g : Group) (d : SReg) (num : BitVec 13) (v : Dword), ScalarReady s g [d] →
    csrValue s g num.toNat = some v →
    (isEngineReg num.toNat = false → (num.toNat = 0x012 → fenced s g true = false) → ScalarWrites (.scCsrr d num) s g d v) ∧
    (isEngineReg num.toNat = true → engineFree s g = true →
      exec (.scCsrr d num) s = .next (scalarDoneElse s (setEngine s g.core (engineFor s g)) g d v))) ∧
  (∀ (s : State) (g : Group) (d a : SReg) (num : BitVec 13), ScalarReady s g [d, a] → isEngineReg num.toNat = true →
    engineFree s g = false →
    exec (.scCsrr d num) s = .next (takeTrap s g { code := 3, info := num.toNat }) ∧
    exec (.scCsrw a num) s = .next (takeTrap s g { code := 3, info := num.toNat })) ∧
  (∀ (s : State) (g : Group) (a : SReg), ScalarReady s g [a] → engineFree s g = true →
    let v := scal g a.toNat
    let m := engineFor s g
    let on := fun (g' : Group) => { g' with spc := g.spc + 4, offS := none, target := .none, carried := [] }
    let ill := Host.Outcome.next (takeTrap s g { code := 1, info := 0 })
    (∀ k : BitVec 13, k < 32 →
      exec (.scCsrw a (0x100 + k)) s =
        if v.toNat < 2 ^ 16 then .next (setG (setEngine s g.core { m with shapes := m.shapes.set 0 k.toNat v }) (on g)) else ill) ∧
    exec (.scCsrw a 0x140) s =
      if 4 ≤ v.toNat then ill
      else if v.getLsbD 0 ≠ m.tmask.getLsbD 0 ∧ pairBusy (setEngine s g.core m) g.core = true then
        .next (setG (setEngine s g.core m) { g with pairWait := some v })
      else .next (setG (setEngine s g.core { m with tmask := v }) (on g))) ∧
  (∀ (s : State) (g : Group) (d a : SReg) (num : BitVec 13), ScalarReady s g [d, a] → csrValue s g num.toNat = none →
    exec (.scCsrr d num) s = .next (takeTrap s g { code := 1, info := 0 }) ∧
    exec (.scCsrw a num) s = .next (takeTrap s g { code := 1, info := 0 })) ∧
  (∀ (s : State) (g : Group) (a : SReg) (num : BitVec 13), ScalarReady s g [a] → csrReadOnly num.toNat = true →
    exec (.scCsrw a num) s = .next (takeTrap s g { code := 3, info := num.toNat })) ∧
  (∀ (s : State) (g : Group) (a : SReg), ScalarReady s g [a] →
    let v := scal g a.toNat
    let on := fun (g' : Group) => { g' with spc := g.spc + 4, offS := none, target := .none, carried := [] }
    exec (.scCsrw a 0x009) s = .next (setG s (on { g with slips := v })) ∧
    (v.toNat < 32 → exec (.scCsrw a 0x010) s = .next (setG s (on { g with fflags := v.setWidth 5 }))) ∧
    (32 ≤ v.toNat → exec (.scCsrw a 0x010) s = .next (takeTrap s g { code := 1, info := 0 })) ∧
    (2 ^ 32 ≤ v.toNat → exec (.scCsrw a 0x011) s = .next (takeTrap s g { code := 1, info := 0 })) ∧
    (32 ≤ v.toNat → exec (.scCsrw a 0x012) s = .next (takeTrap s g { code := 1, info := 0 })) ∧
    (v.toNat < 2 ^ 32 → exec (.scCsrw a 0x011) s = .next (setG s (on { g with fmtword := v }))) ∧
    (v.toNat < 32 → exec (.scCsrw a 0x012) s = .next (setG (setAfflags s g.asid v) (on g))) ∧
    exec (.scCsrw a 0x040) s = .next (setG s (on { g with trapvec := v })) ∧
    exec (.scCsrw a 0x050) s = .next (setG s (on { g with idemspc := v, restarts := 0 })) ∧
    exec (.scCsrw a 0x051) s = .next (setG s (on { g with idemlpc := v })))

/-- SC.TRAP with a code takes SWTRAP with the code as info; an illegal scalar word takes ILLEGAL; a scalar fetch from a page
that is unmapped or lacks x is recorded for the driver and parks the group (R70, R262, R271, R415). -/
def Obligations.TrapsOfTheScalarStream : Prop :=
  ∀ (s : State) (g : Group), curG s = some g →
    (∀ code : BitVec 13, exec (.scTrap code) s = .next (takeTrap s g { code := 0x0D, info := code.toNat })) ∧
    (∀ w : Word, decodeScalar w = none → exec (.illegalScalarWord w) s = .next (takeTrap s g { code := 1, info := 0 })) ∧
    (∀ e : Nat, fetchUnit s g.core g.asid g.spc.toNat = .bad e →
      exec .scalarFetchFault s = .next (fetchFault s g g.spc.toNat e false))

/-- Taking a trap outside handler mode with a vector: the header and the queue image are written to the replay area, the
lane queue is emptied, the group enters handler mode at cr.trapvec, and LPC, every other register and the pending set stay
(R272). In handler mode, or with no vector in bits [63:2] (R78), the grid is aborted with the trap's code (R273, R276). -/
def Obligations.TakingATrap : Prop :=
  ∀ (s : State) (g : Group) (x : TrapInfo), curG s = some g →
    (g.handler = true ∨ vector g = 0 → takeTrap s g x = abortGrid s g.grid x.code (dieOf s g.core)) ∧
    (g.handler = false → vector g ≠ 0 →
      let pa := firmPa s g.asid g.replay.toNat
      let t := takeTrap s g x
      ∃ g', curG t = some g' ∧ g'.handler = true ∧ g'.spc = g.trapvec &&& ~~~3#64 ∧ g'.queue = [] ∧ g'.lpc = g.lpc ∧
        g'.sregs = g.sregs ∧ g'.lanes = g.lanes ∧ g'.pend = g.pend ∧ g'.infl = g.infl ∧ g'.fflags = g.fflags ∧
        t.mem = (sliceWrite (sliceWrite s pa (headerBytes s g x)) (pa + 256) (g.queue.flatMap imageBytes)).mem)

/-- A write of a device that can be sent is read back at its home, byte by byte, and no other byte of the home changes, when no
holder has one of its lines dirty and no slice of the LLC is full; one that cannot be sent waits and
changes no byte (R23, R124, R125, R307). That one which comes behind one that waits waits too, whatever its own home, is the model's
choice (log 10). -/
def Obligations.DeviceWriteReadsBack : Prop :=
  ∀ (s : State) (pa : Nat) (bs : List Byte),
    let open' := s.mem.outbox = [] ∧ wayOpen s pa bs.length = true
    (¬ open' → devWrite s pa bs = { s with mem := { s.mem with outbox := s.mem.outbox ++ [(pa, bs)] } }) ∧
    (open' → memWf s.mem = true → (∀ l ∈ s.mem.l1, l.kind ≠ .owned) → (∀ c ∈ s.crews, c.stash = []) →
    s.mem.sectors.length + bs.length < 8192 →
    (∀ k < bs.length, homeByte (devWrite s pa bs).mem (pa + k) = bs.getD k 0) ∧
    ∀ a, a < pa ∨ pa + bs.length ≤ a → homeByte (devWrite s pa bs).mem a = homeByte s.mem a)

/-- SC.TRAP −1 outside handler mode aborts the grid; in handler mode, with the lane stream idle, the replay area not in use and within reach,
the core's buffered stores gone home and lrem 0, it reloads SPC, LPC, s56 to s63, the queue and its reservations from the replay area and leaves handler mode, when the
header and the image pass their checks (R23, R273, R275). That the reload of s63 is not exempt from STACK is the model's reading (log
26). -/
def Obligations.TrapReturn : Prop :=
  ∀ (s s1 : State) (g : Group) (r : Grid), curG s = some g →
    (g.handler = false → exec .scTrapReturn s = .next (abortGrid s g.grid 1 (dieOf s g.core))) ∧
    (g.handler = true → g.queue = [] → g.infl = [] → replayBusy s g = false → gridOf s g = some r →
      flushPaid s (scalarWho g) g.gid g.core none = (s1, true) → reachable s1 (returnLines s1 g) = true →
      let s2 := noteReads s1 (returnLines s1 g)
      let x := readReturn s2 g
      x.lrem = 0 → x.qn ≤ 16 → stackBad g (dw (x.ssave.getD 7 0)) = false → checkImage r.k x.entries 0 = none →
      exec .scTrapReturn s = .next (setG s2 (returned g x)) ∧ (returned g x).handler = false ∧
      (returned g x).spc = dw x.spc ∧ (returned g x).lpc = dw x.lpc ∧ (returned g x).queue = x.entries ∧
      (returned g x).resv = imageResv x.entries ∧ ∀ k < 8, scal (returned g x) (56 + k) = dw (x.ssave.getD k 0))

/-! ## Lane instructions in the pipe -/

/-- IADD, ISUB, IMUL, IMULH, IMAD, IMIN, IMAX and IABS: each element's exact result, wrapped, or clamped under `.sat`
(R96, R347, R348, R354 to R356). -/
def Obligations.LaneIntegers : Prop :=
  ∀ (s : State) (g : Group) (q : QEntry) (f : LaneForm) (sat : Bool),
    (LaneReady s (.iadd f sat) g q → LaneWrites (.iadd f sat) f s g q (byInt g q f sat fun x y _ => x + y)) ∧
    (LaneReady s (.isub f sat) g q → LaneWrites (.isub f sat) f s g q (byInt g q f sat fun x y _ => x - y)) ∧
    (LaneReady s (.imul f sat) g q → LaneWrites (.imul f sat) f s g q (byInt g q f sat fun x y _ => x * y)) ∧
    (LaneReady s (.imulh f) g q →
      LaneWrites (.imulh f) f s g q (byInt g q f false fun x y _ => x * y / 2 ^ elemWidth f.ty)) ∧
    (LaneReady s (.imad f sat) g q → LaneWrites (.imad f sat) f s g q (byInt g q f sat fun x y z => x * y + z)) ∧
    (LaneReady s (.imin f) g q → LaneWrites (.imin f) f s g q (byInt g q f false fun x y _ => min x y)) ∧
    (LaneReady s (.imax f) g q → LaneWrites (.imax f) f s g q (byInt g q f false fun x y _ => max x y)) ∧
    (LaneReady s (.iabs f sat) g q → LaneWrites (.iabs f sat) f s g q (byInt g q f sat fun x _ _ => (x.natAbs : Int)))

/-- IADDX leaves the low part of a + b + carry in row d and its carry in bit 32, or in row d + 1 for n64; IDP4 adds four
products to each half of c (R349, R353). -/
def Obligations.LaneCarryAndDots : Prop :=
  ∀ (s : State) (g : Group) (q : QEntry) (f : LaneForm),
    (∀ k : BitVec 6, LaneReady s (.iaddx f k) g q → ∃ t g', exec (.iaddx f k) s = .next t ∧ curG t = some g' ∧
      g'.queue = g.queue.tail ∧ g'.fflags = g.fflags ∧ ∀ thr ∈ actives g q f,
        let u := sourceOf g q f thr
        let c := if (opC g q f u).getLsbD k.toNat then 1 else 0
        (f.ty = .n32 → (lane g' f.d.toNat thr).toNat = (opA g f u).toNat % 2 ^ 32 + (opB g q f u).toNat % 2 ^ 32 + c) ∧
        (f.ty = .n64 → (lane g' f.d.toNat thr).toNat + 2 ^ 64 * (lane g' (f.d.toNat + 1) thr).toNat =
          (opA g f u).toNat + (opB g q f u).toNat + c)) ∧
    (∀ sat : Bool, LaneReady s (.idp4 f sat) g q → LaneWrites (.idp4 f sat) f s g q (byRow g q f fun a b c =>
      let half := fun (h : Nat) =>
        let p := fun (k : Nat) => elemInt (if isSigned f.ty then .s8x8 else .n8x8) a (4 * h + k) *
          elemInt (if isSigned f.ty then .s8x8 else .n8x8) b (4 * h + k)
        let v := readInt (if isSigned f.ty then .s32 else .n32) (nbits c.toNat (32 * h) 32) + p 0 + p 1 + p 2 + p 3
        if sat then clampTo (isSigned f.ty) 32 v else wrapTo 32 v
      dw (half 0 + 2 ^ 32 * half 1)))

/-- LOP3, the shifts, the funnel shifts, BREV, POPC, CLZ, BFE, BFI and BPERM, bit by bit or as arithmetic on the elements
(R322 to R325, R332, R344, R363, R374, R423). -/
def Obligations.LaneBitOperations : Prop :=
  ∀ (s : State) (g : Group) (q : QEntry) (f : LaneForm),
    let w := elemWidth f.ty
    (∀ lut : BitVec 8, LaneReady s (.lop3 f lut) g q → LaneWrites (.lop3 f lut) f s g q (byBits g q f fun x y z =>
      bitsOf w fun k => lut.getLsbD ((x.testBit k).toNat + 2 * (y.testBit k).toNat + 4 * (z.testBit k).toNat))) ∧
    (LaneReady s (.shl f) g q → LaneWrites (.shl f) f s g q (byBits g q f fun x y _ => x * 2 ^ (y % w))) ∧
    (LaneReady s (.shr f) g q → LaneWrites (.shr f) f s g q (byBits g q f fun x y _ => x / 2 ^ (y % w))) ∧
    (LaneReady s (.sra f) g q →
      LaneWrites (.sra f) f s g q (byBits g q f fun x y _ => wrapTo w (toSigned w x / 2 ^ (y % w)))) ∧
    (LaneReady s (.fshl f) g q →
      LaneWrites (.fshl f) f s g q (byBits g q f fun x y z => (x * 2 ^ w + y) * 2 ^ (z % w) / 2 ^ w)) ∧
    (LaneReady s (.fshr f) g q →
      LaneWrites (.fshr f) f s g q (byBits g q f fun x y z => (x * 2 ^ w + y) / 2 ^ (z % w))) ∧
    (LaneReady s (.brev f) g q →
      LaneWrites (.brev f) f s g q (byBits g q f fun x _ _ => bitsOf w fun k => x.testBit (w - 1 - k))) ∧
    (LaneReady s (.popc f) g q → LaneWrites (.popc f) f s g q (byBits g q f fun x _ _ =>
      ((List.range w).filter fun k => x.testBit k).length)) ∧
    (LaneReady s (.clz f) g q → LaneWrites (.clz f) f s g q (byBits g q f fun x _ _ =>
      ((List.range w).takeWhile fun k => !x.testBit (w - 1 - k)).length)) ∧
    (LaneReady s (.bfe f) g q →
      LaneWrites (.bfe f) f s g q (byBits g q f fun x y z => bfeBits (isSigned f.ty) w x (y % 256) (z % 256))) ∧
    (LaneReady s (.bfi f) g q → LaneWrites (.bfi f) f s g q (byBits g q f fun x y z => bitsOf w fun k =>
      if z % 256 ≤ k ∧ k < z % 256 + z / 256 % 256 then x.testBit (k - z % 256) else y.testBit k)) ∧
    (LaneReady s (.bperm f) g q → LaneWrites (.bperm f) f s g q (byRow g q f fun a b c =>
      dw (permBytes (if f.ty = .n32 then 4 else 8) a.toNat b.toNat c.toNat)))

/-- ICMP, SEL, MOV, MOVI, PACK, UNPK and SREG write the rows of R350, R368, R369, R373, R422, R424 and R449. At what part of a
tick a clk begins is a free value (log 12). -/
def Obligations.LaneMovesAndCompares : Prop :=
  ∀ (s : State) (g : Group) (q : QEntry) (f : LaneForm),
    (∀ c : ICond, LaneReady s (.icmp f c) g q → LaneWrites (.icmp f c) f s g q (byRow g q f fun a b _ =>
      dw (bitsOf (elemCount f.ty) fun i => icond c (elemInt f.ty a i) (elemInt f.ty b i)))) ∧
    (∀ k : BitVec 6, LaneReady s (.sel f k) g q → LaneWrites (.sel f k) f s g q (byRow g q f fun a b c =>
      rowOf f.ty (if c.getLsbD k.toNat then a else b).toNat)) ∧
    (LaneReady s (.mov f) g q → LaneWrites (.mov f) f s g q (byRow g q f fun _ b _ => rowOf f.ty b.toNat)) ∧
    (∀ imm : Word, LaneReady s (.movi f imm) g q → LaneWrites (.movi f imm) f s g q fun _ =>
      (if f.ty = .s32 ∨ f.ty = .s64 then imm.signExtend 64 else imm.setWidth 64, 0)) ∧
    (∀ m : PackMode, LaneReady s (.pack f m) g q →
      LaneWrites (.pack f m) f s g q (byRow g q f fun a b _ => packRow f.ty m a b)) ∧
    (∀ hi : Bool, LaneReady s (.unpk f hi) g q →
      LaneWrites (.unpk f hi) f s g q (byRow g q f fun a b _ => unpkRow f.ty hi a b)) ∧
    (∀ sel : SregSel, LaneReady s (.sreg f sel) g q → LaneWrites (.sreg f sel) f s g q fun t =>
      (match sel with
       | .tid => dw t | .gtid => dw (32 * g.gid + t) | .gid => dw g.gid | .crew => dw g.crew | .core => dw g.core
       | .time => s.pkg.time + dw ((5 * (if f.uni then 0 else t) + Config.clkPhase s.pkg.time % 4) / 4)
       | .mask => (entryMask q).setWidth 64 | .active => (maskOf (actives g q f)).setWidth 64, 0))

/-- FADD, FSUB, FMUL, FFMA, FMIN, FMAX, FRND, FCMP and FDOT2 write each element rounded once in the mode of the prefix, and
raise its flags (R98, R335, R337, R339, R342, R343). Beside it, what rounding once comes to in an IEEE-style format: a sum, a
difference, a product and a product with an addend, exact until then, are the pattern that represents them, with no flag, where there
is one, and else the neighbour that the mode names, with nx; an exact zero has the sign that R93 gives it; and FRND gives the integer
that the mode names (R93, R95). The flags of an overflow and of a tiny result are the model's readings (log 40). -/
def Obligations.LaneFloats : Prop :=
  (∀ (s : State) (g : Group) (q : QEntry) (f : LaneForm),
    let m := fmtOf f.ty
    let rm := roundOf f
    (LaneReady s (.fadd f) g q → LaneWrites (.fadd f) f s g q (byElem g q f fun x y _ => fadd m rm x y)) ∧
    (LaneReady s (.fsub f) g q → LaneWrites (.fsub f) f s g q (byElem g q f fun x y _ => fsub m rm x y)) ∧
    (LaneReady s (.fmul f) g q → LaneWrites (.fmul f) f s g q (byElem g q f fun x y _ => fmul m rm x y)) ∧
    (LaneReady s (.ffma f) g q → LaneWrites (.ffma f) f s g q (byElem g q f fun x y z => ffma m rm x y z)) ∧
    (LaneReady s (.fmin f) g q → LaneWrites (.fmin f) f s g q (byElem g q f fun x y _ => fminmax false m x y)) ∧
    (LaneReady s (.fmax f) g q → LaneWrites (.fmax f) f s g q (byElem g q f fun x y _ => fminmax true m x y)) ∧
    (LaneReady s (.frnd f) g q → LaneWrites (.frnd f) f s g q (byElem g q f fun x _ _ => frnd m rm x)) ∧
    (∀ c : FCond, LaneReady s (.fcmp f c) g q → LaneWrites (.fcmp f c) f s g q fun t =>
      let r := fun i => fcmp c m (elem f.ty (opA g f t) i) (elem f.ty (opB g q f t) i)
      (dw (bitsOf (elemCount f.ty) fun i => (r i).1), unionFlags (tab (elemCount f.ty) fun i => (r i).2))) ∧
    (LaneReady s (.fdot2 f) g q → LaneWrites (.fdot2 f) f s g q fun t =>
      fdot2Row f.ty rm (opA g f t) (opB g q f t) (operand g q .f32x2 1 f.c t))) ∧
  (∀ (m : Fmt) (rm : Rm) (x y z : Nat) (i j k : Bool) (p u w : Q), m.tapered = false → x < 2 ^ m.width →
    dec m x = .fin i p → dec m y = .fin j u → dec m z = .fin k w →
    RoundsOnce m rm (p.add u) (fadd m rm x y) ∧ RoundsOnce m rm (p.sub u) (fsub m rm x y) ∧
    RoundsOnce m rm (p.mul u) (fmul m rm x y) ∧ RoundsOnce m rm ((p.mul u).add w) (ffma m rm x y z) ∧
    ((p.add u).n = 0 → fadd m rm x y = (signBit m (if p.n = 0 ∧ i = j then i else rm == .rdn), 0)) ∧
    ((p.sub u).n = 0 → fsub m rm x y = (signBit m (if p.n = 0 ∧ i = !j then i else rm == .rdn), 0)) ∧
    (let r := frnd m rm x
     let out := (dec m r.1).q
     r.2 = 0 ∧ (p.n % p.d = 0 → r.1 = x) ∧ ∃ v : Int, out.n = v * out.d ∧ NearInt rm p v)) ∧
  (∀ (m : Fmt) (rm : Rm) (x0 y0 x1 y1 c : Nat) (i0 j0 i1 j1 k : Bool) (p0 u0 p1 u1 w : Q),
    dec m x0 = .fin i0 p0 → dec m y0 = .fin j0 u0 → dec m x1 = .fin i1 p1 → dec m y1 = .fin j1 u1 → dec .f32 c = .fin k w →
    RoundsOnce .f32 rm (((p0.mul u0).add (p1.mul u1)).add w) (fdot2 m rm x0 y0 x1 y1 c))

/-- The special operands of the floating operations: a NaN gives the canonical NaN, with nv for a signalling one; infinities
of both signs and 0 × ∞ give it with nv, in FFMA too, whose product may be the infinity; FMIN and FMAX pass over one NaN, and order −0 below +0 (R88, R336, R342). -/
def Obligations.FloatSpecials : Prop :=
  ∀ (f : Fmt) (rm : Rm) (x y z : Nat),
    let a := dec f x
    let b := dec f y
    let c := dec f z
    (a.isNan = true ∨ b.isNan = true →
      fadd f rm x y = (f.nan, if a.isSig || b.isSig then nvF else 0) ∧
      fsub f rm x y = (f.nan, if a.isSig || b.isSig then nvF else 0) ∧
      fmul f rm x y = (f.nan, if a.isSig || b.isSig then nvF else 0)) ∧
    (a.isNan = true ∨ b.isNan = true ∨ c.isNan = true →
      ffma f rm x y z = (f.nan, if a.isSig || b.isSig || c.isSig || badProd a b then nvF else 0)) ∧
    (∀ n : Bool, a = .inf n → b = .inf (!n) → fadd f rm x y = (f.nan, nvF)) ∧
    (∀ n : Bool, a = .inf n → b = .inf n → fsub f rm x y = (f.nan, nvF)) ∧
    (badProd a b = true → fmul f rm x y = (f.nan, nvF)) ∧
    (badProd a b = true → c.isNan = false → ffma f rm x y z = (f.nan, nvF)) ∧
    (∀ n : Bool, a.isNan = false → b.isNan = false → badProd a b = false → (a.isFin = false ∨ b.isFin = false) →
      (a.isNeg != b.isNeg) = n → c = .inf (!n) → ffma f rm x y z = (f.nan, nvF)) ∧
    (∀ mx : Bool, (fminmax mx f x y).2 = (if a.isSig || b.isSig then nvF else 0) ∧
      (a.isNan = true → b.isNan = true → (fminmax mx f x y).1 = f.nan) ∧
      (a.isNan = true → b.isNan = false → (fminmax mx f x y).1 = y) ∧
      (a.isNan = false → b.isNan = true → (fminmax mx f x y).1 = x) ∧
      (a.isZero = true → b.isZero = true → a.isNeg = true → b.isNeg = false →
        (fminmax mx f x y).1 = if mx then y else x) ∧
      (a.isZero = true → b.isZero = true → a.isNeg = false → b.isNeg = true →
        (fminmax mx f x y).1 = if mx then x else y))

/-- The six estimates and CVT write the rows of R334 and R338; CKACC folds row a into row d, or into the pair of rows d and d +
1 (R105, R108, R109, R330). How the estimates are computed, CVT.sat between equal widths, and CVT
from a floating type to s16, s8 and n8 are the model's readings (log 15, log 40, log 49). -/
def Obligations.LaneEstimatesAndConversions : Prop :=
  ∀ (s : State) (g : Group) (q : QEntry) (f : LaneForm),
    (∀ (i : Instr) (k : Est), (i, k) ∈ [(Instr.frcpe f, Est.rcp), (.frsqe f, .rsq), (.fex2 f, .ex2), (.flg2 f, .lg2),
        (.fsin f, .sin), (.fcos f, .cos)] → LaneReady s i g q →
      LaneWrites i f s g q (byElem g q f fun x _ _ => estElem k (fmtOf f.ty) x)) ∧
    (∀ m : CvtMod, LaneReady s (.cvt f m) g q → LaneWrites (.cvt f m) f s g q fun t =>
      cvtRow f.ty m (roundOf f) (opA g f t) (lane g f.d.toNat t)) ∧
    (LaneReady s (.ckacc f false) g q → LaneWrites (.ckacc f false) f s g q fun t =>
      (dw (((lane g f.d.toNat t).toNat + ckImg f.ty (opA g f t)) % (2 ^ 61 - 1)), 0)) ∧
    (LaneReady s (.ckacc f true) g q → ∃ t g', exec (.ckacc f true) s = .next t ∧ curG t = some g' ∧
      g'.queue = g.queue.tail ∧ g'.fflags = g.fflags ∧ ∀ thr ∈ actives g q f,
        let u := sourceOf g q f thr
        let p := (tab (elemCount f.ty) fun e => dec (fmtOf f.ty) (elem f.ty (opA g f u) e)).foldl ckFold
          ((lane g f.d.toNat u).toNat, (lane g (f.d.toNat + 1) u).toNat)
        lane g' f.d.toNat thr = dw p.1 ∧ lane g' (f.d.toNat + 1) thr = dw p.2)

/-- XGET reads the thread that b names, XBCAST one thread for all, XSCAN the operation over the active threads up to each, XVOTE
the vote over the active threads; XPUT writes the thread that b names, the highest of several writers last (R452, R455, R456).
The sign of a zero sum in XSCAN is the model's reading (log 18). -/
def Obligations.LaneCrossings : Prop :=
  ∀ (s : State) (g : Group) (q : QEntry) (f : LaneForm),
    (LaneReady s (.xget f) g q → LaneWrites (.xget f) f s g q fun t =>
      (rowOf f.ty (opA g f ((opB g q f t).toNat % 32)).toNat, 0)) ∧
    (LaneReady s (.xbcast f) g q → LaneWrites (.xbcast f) f s g q fun _ =>
      (rowOf f.ty (opA g f ((opB g q f 0).toNat % 32)).toNat, 0)) ∧
    (∀ (op : ROp) (excl : Bool), LaneReady s (.xscan f op excl) g q → LaneWrites (.xscan f op excl) f s g q fun t =>
      match (actives g q f).filter fun u => decide (u < t) || (!excl && decide (u = t)) with
      | [] => (redIdentity f.ty op, 0)
      | us => redRow f.ty op (roundOf f) (us.map (opA g f))) ∧
    (∀ (m : VoteMode) (k : BitVec 6), LaneReady s (.xvote f m k) g q → LaneWrites (.xvote f m k) f s g q fun _ =>
      let act := actives g q f
      let bit := fun t => (opA g f t).getLsbD k.toNat
      ((match m with
        | .all => if ∀ t ∈ act, bit t = true then 1 else 0
        | .any => if ∃ t ∈ act, bit t = true then 1 else 0
        | .ballot => (maskOf (act.filter bit)).setWidth 64
        | .eq => if ∀ t ∈ act, opA g f t = opA g f (act.headD 0) then 1 else 0 : Dword), 0)) ∧
    (LaneReady s (.xput f) g q → ∃ t g', exec (.xput f) s = .next t ∧ curG t = some g' ∧ g'.queue = g.queue.tail ∧
      g'.fflags = g.fflags ∧ ∀ thr < 32, lane g' f.d.toNat thr =
        match ((actives g q f).filter fun u => (opB g q f u).toNat % 32 = thr).getLast? with
        | some u => rowOf f.ty (opA g f u).toNat
        | none => if zeroing f = true ∧ thr ∉ actives g q f then 0 else lane g f.d.toNat thr)

/-- XRED and MMAC enter with their rows pending; MMAC first takes FMTDIV when the active threads' format words differ or name no
valid format. The record holds what RESULT_RETURN writes when it clears the rows (R43, R102, R366, R454). The sign of a zero sum
in XRED and the flags of a chunk of MMAC are the model's readings (log 18, log 24, log 49). -/
def Obligations.LanePendingResults : Prop :=
  ∀ (s : State) (g : Group) (q : QEntry) (f : LaneForm) (u : Nat) (us : List Nat), actives g q f = u :: us →
    (∀ op : ROp, LaneReady s (.xred f op) g q →
      let r := redRow f.ty op (roundOf f) ((u :: us).map (opA g f))
      exec (.xred f op) s = .next (enterPending s g f (u :: us) { newInfl s g q f .reduce [f.d.toNat] with
        writes := writesOf [f.d.toNat] (u :: us) (fun _ => [r.1]), flags := r.2 })) ∧
    (∀ fr b c : LReg, LaneReady s (.mmac f fr) g q → f.b = .lane b → f.c = .lane c →
      let w : Word := (lane g fr.toNat u).setWidth 32
      let d := fun i j => fragD w g (u :: us) f.a.toNat b.toNat c.toNat i j
      let pair := fun t p => (d (t % 16) (8 * (t / 16) + 2 * p)).1 + 2 ^ 32 * (d (t % 16) (8 * (t / 16) + 2 * p + 1)).1
      let same := (∀ t ∈ us, (lane g fr.toNat t).setWidth 32 = w) ∧ fmtWordOk w = true ∧ fmtO w = 4
      (same → exec (.mmac f fr) s = .next (enterPending s g f (u :: us) { newInfl s g q f .mmac (rowsFrom f.d.toNat 4) with
        writes := writesOf (rowsFrom f.d.toNat 4) (u :: us) fun t => tab 4 fun p => dw (pair t p)
        flags := unionFlags (tab 16 fun i => unionFlags (tab 16 fun j => (d i j).2)) })) ∧
      (¬ same → exec (.mmac f fr) s = .next (takeTrap s g { code := 8, info := 0, lane := true, thr := u
                                                            tlpc := q.addr })))

/-- A result that waits for nothing more is delivered by RESULT_RETURN: its rows get its values and are pending no more, its
flags reach cr.fflags, its scalar result is written as its reservation clears, and a group parked at a marker goes on when
nothing is pending. A RAST's result waits for an earlier RAST of its core; a BARTW under a hint is delivered, with 1, once its
barrier's phase has been over, consumes a poisoned object as it is tested, and till then goes on; a POISON record of a TRACE is
delivered and consumed. Rows that a result rewrites in every thread hold no poison any more (R40, R43, R44, R80,
R184, R241, R249, R282, R320). -/
def Obligations.ResultsReturn : Prop :=
  ∀ (s : State) (g : Group) (i : Inflight), findGroup s.groups g.gid = some g →
    (g.infl.find? fun x => x.id == i.id && x.needs == 0) = some i →
    let delivers := fun (v : Dword) => ∃ t g', exec (.resultReturn g.gid i.id) s = .next t ∧ findGroup t.groups g.gid = some g' ∧
      g'.lanes = applyWrites g.lanes i.writes ∧ g'.pend = g.pend.filter (fun r => !i.rows.contains r) ∧
      g'.fflags = g.fflags ||| i.flags ∧ g'.infl = g.infl.filter (fun x => x.id ≠ i.id) ∧
      (∀ r, i.sreg = some r → r ≠ 0 → scal g' r.toNat = v ∧ reserved g' r.toNat = false) ∧
      (g.park = .marker → g'.park = if g'.pend = [] then .none else .marker) ∧
      ∀ p : Nat × Nat, p ∈ t.poisonRows ↔ p ∈ s.poisonRows ∧ ¬ (i.whole = true ∧ p.1 = g.gid ∧ p.2 ∈ i.rows)
    (i.kind ≠ .tryBar → ¬ (i.kind = .trace ∧ i.aux = 1) → ¬ (i.kind = .rast ∧ rastAhead s g i.id = true) → delivers i.sval) ∧
    (i.kind = .rast → rastAhead s g i.id = true → exec (.resultReturn g.gid i.id) s = .next s) ∧
    (i.kind = .tryBar → ((tryHolds s g i).isSome = true → delivers 1) ∧
      (tryHolds s g i = none → exec (.resultReturn g.gid i.id) s = .next (if tryBad s g i then consume s g 0 0 0 else s))) ∧
    (i.kind = .trace → i.aux = 1 →
      let g1 := returnResult s g i
      let x := fun k => (i.caps.getD k 0).toNat
      exec (.resultReturn g.gid i.id) s = .next (consumeAt (setG s g1) g1 (x 0) (x 1) (x 2) (x 3) needLoad.acc))

/-- Every lane instruction takes HAZARD with its row at issue when it names a pending or held row; else a poisoned row that it
reads makes the group consume poison (R44, R271, R282). What is recorded for the driver beside it is the model's reading (log
23, log 31). -/
def Obligations.LaneHazardAndPoison : Prop :=
  ∀ (s : State) (g : Group) (q : QEntry) (i : Instr) (r : Nat), (laneForm i).isSome = true → curG s = some g →
    g.queue.head? = some q →
    let named := (laneRows i).1 ++ (laneRows i).2
    let hit := named.find? fun r => g.pend.contains r || g.held.contains r
    (hit = some r → exec i s = .next (takeTrap s g { code := 2, info := 0x800 + r, lane := true, tlpc := q.addr })) ∧
    (hit = none → ((laneRows i).1.find? fun r => s.poisonRows.contains (g.gid, r)) = some r →
      exec i s = .next (consume s g 1 0 0))

/-- The frame of the lane instructions that write one row in the pipe: the row of an inactive thread is zeroed under mz and
else kept, no other row changes, and scalar registers, program counters, the pending set, special registers, the other
groups, cr.afflags, the matrix engines and every byte of memory stay (R34, R67, R68, R312, R345). -/
def Obligations.LaneFrame : Prop :=
  ∀ (s : State) (g : Group) (q : QEntry) (i : Instr) (f : LaneForm), inPipe i = some f → LaneReady s i g q →
    ∃ t g', exec i s = .next t ∧ curG t = some g' ∧ g'.queue = g.queue.tail ∧
      (∀ r thr, thr < 32 → r ≠ f.d.toNat → lane g' r thr = lane g r thr) ∧
      (∀ thr, thr < 32 → thr ∉ actives g q f → lane g' f.d.toNat thr = if zeroing f then 0 else lane g f.d.toNat thr) ∧
      g'.sregs = g.sregs ∧ g'.spc = g.spc ∧ g'.lpc = g.lpc ∧ g'.pend = g.pend ∧ SameControl g g' ∧ SameOthers s t ∧
      t.xl = s.xl ∧ t.engines = s.engines ∧ SameMemory s t

/-! ## Lane memory -/

/-- LD, ST, ATOM and RED on global memory, with every element aligned and past its probe, none in the stack cache, and free
slots: the entry leaves, a row to be loaded becomes pending, and each line touched gets its requests, in the order of first touch,
one for each run of consecutive threads whose pages there are of one kind; no byte of memory changes before a request is served.
An active thread's misaligned element takes ALIGN; else, once every page's tables can be reached, the pages that are absent, not
mapped or without the right are reported and the group parks, with no request made; a quarantined one then consumes poison, and a
device-only one takes PROT, at once where no other was reported and else once those are settled (R23, R43, R116, R131, R136, R143,
R261 to R263, R268, R315, R358, R384). That a page is reported once for all threads, and which of several settlements comes first, are
the model's readings (log 43). -/
def Obligations.GlobalAccesses : Prop :=
  (∀ (s : State) (g : Group) (q : QEntry) (f : LaneForm) (i : Instr) (o : GlobalOp) (addr : Nat → Dword),
    GlobalForm g q f i o addr → LaneReady s i g q → actives g q f ≠ [] →
    (∀ u ∈ actives g q f, (addr u).toNat % o.size = 0) → fenced s g false = false →
    let els := asking o.need ((actives g q f).map fun u => (u, (addr u).toNat))
    let s0 := oneXlate s g.asid (els.map (·.va))
    let fs := founds s0 g.asid els
    misses s0 g.asid els = [] → (∀ x ∈ fs, stackServes g x.va = false) → g.stack = [] →
    slotsOk (learnAll s0 g.asid els) g.core ((foundRuns fs).map (·.line)) = true → (∀ t ∈ s.streams, t.core ≠ g.core) →
    ∃ t g', exec i s = .next t ∧ curG t = some g' ∧ g'.queue = g.queue.tail ∧
      g'.pend = (if o.res.isSome then addRows g.pend [f.d.toNat] else g.pend) ∧
      (t.reqs.map fun r => (r.gid, r.kind, r.line, r.parts)) = (s.reqs.map fun r => (r.gid, r.kind, r.line, r.parts)) ++
        (foundRuns fs).map (fun r => (g.gid, o.kind, r.line, r.els.map (partOf o))) ∧
      ∀ a, cohByte t a = cohByte s a) ∧
  (∀ (s : State) (g : Group) (q : QEntry) (f : LaneForm) (i : Instr) (o : GlobalOp) (addr : Nat → Dword),
    GlobalForm g q f i o addr → LaneReady s i g q →
    (∀ u, (actives g q f).find? (fun u => decide ((addr u).toNat % o.size ≠ 0)) = some u →
      exec i s = .next (takeTrap s g { code := 4, info := (addr u).toNat, lane := true, thr := u, tlpc := q.addr })) ∧
    (actives g q f ≠ [] → (∀ u ∈ actives g q f, (addr u).toNat % o.size = 0) → fenced s g false = false →
      let els := asking o.need ((actives g q f).map fun u => (u, (addr u).toNat))
      let s0 := oneXlate s g.asid (els.map (·.va))
      let ms := misses s0 g.asid els
      (ms ≠ [] → (∀ x ∈ ms, x.2.waits = true) → ∃ t g', exec i s = .next t ∧ curG t = some g' ∧
        g'.park = .probe (awaited ms).length ∧ g'.parkLane = true ∧ g'.queue = g.queue ∧ g'.lanes = g.lanes ∧ t.reqs = s.reqs ∧
        (∀ x ∈ ms, ∃ y ∈ awaited ms, y.1.va / 4096 = x.1.va / 4096) ∧ ((awaited ms).map fun x => x.1.va / 4096).Nodup ∧
        (∀ x ∈ awaited ms, Reported t g x.1.va x.2) ∧ SameMemory s t) ∧
      let told := reportEach s0 g.asid (srcCore g.core) g.gid (.group g.gid) (some g.grid) (dieOf s0 g.core) (awaited ms)
      ((∃ x ∈ ms, x.2 = .far) → exec i s = .next s0) ∧
      ((∀ x ∈ ms, x.2 ≠ .far) →
        (∀ pa y, quarOf ms = some (pa, y) → exec i s = .next (consume told g 3 pa y.va o.need.acc)) ∧
        (∀ x, quarOf ms = none → ms.find? (fun x => x.2 == .devOnly) = some x →
          (awaited ms = [] →
            exec i s = .next (takeTrap s0 g { code := 11, info := x.1.va, lane := true, thr := x.1.thr, tlpc := q.addr })) ∧
          (awaited ms ≠ [] → exec i s = .next (parkG told { g with answer := some (11, dw x.1.va, x.1.thr) }
            (.probe (awaited ms).length) .none true))))))

/-- A line request: one that its L1 answers needs no budget; any other is accepted by GOVERNED_REQUEST_ADMIT when its home can be
reached, none of its class is ahead and its budgets have room for it, at the port as well for an atomic that executes there, and is
then charged; at its home it is served by MEMORY_REQUEST_AT_HOME, or by LINE_RECALL when another holder has its line dirty, when no
request that must come first is unserved and once what goes home with it has been charged; REQUEST_RETURN frees its slot (R28, R29,
R124, R125, R131, R132, R136, R150, R157). That a request is served whole, in one turn, is the model's order (log 7). -/
def Obligations.LineRequests : Prop :=
  (∀ (s : State) (r : Req), findReq s r.id = some r → r.stage = 0 →
    (l1Hit s r = true → exec (.governedRequestAdmit r.id) s = .next (setStage s r.id 1)) ∧
    (∀ s' : State, l1Hit s r = false → deliveredLater s r = false → sendable s [r.line] = true →
      let rs := reqResources s r.line ++ portResources s r
      aheadOf s (.req r.id) r.cls rs = false → chargeAll s r.cls 64 rs = some s' →
      exec (.governedRequestAdmit r.id) s =
        .next (setPaid (setStage (useHome (leaveWait s' (.req r.id)) r.line) r.id 1) r.id))) ∧
  (∀ (s s1 : State) (r : Req), findReq s r.id = some r → r.stage = 1 → mayServe s r = true →
    (l1Hit s r = true ∨ r.paid = true) → readyReq s r = (s1, true) →
    (recalls s r = false → exec (.memoryRequestAtHome r.id) s = .next (serveNow s1 r)) ∧
    (recalls s r = true → exec (.lineRecall r.id) s = .next (serveNow s1 r))) ∧
  (∀ (s : State) (r : Req), findReq s r.id = some r → r.stage = 2 →
    ∃ t, exec (.requestReturn r.id) s = .next t ∧ t.reqs = s.reqs.filter (fun x => x.id ≠ r.id))

/-- A store of one element that is performed is the coherent value of its bytes, whether it takes the line or writes through,
when no tile object is live, memory has its canonical form and each cached line holds only its own bytes; and no other byte of memory changes, when no holder
has a line dirty and no slice of the LLC is full (R4, R123, R124). -/
def Obligations.ServedStoreIsRead : Prop :=
  ∀ (s : State) (r : Req) (p : Part), r.kind = .store → r.parts = [p] → r.rq ≠ .si → p.pa / 64 = r.line →
    p.pa % 64 + p.size ≤ 64 → s.coh.objs = [] → memWf s.mem = true →
    (∀ l ∈ s.mem.l1, ∀ e ∈ l.bytes, e.1 / 64 = l.line) →
    (∀ k < p.size, cohByte (perform s r) (p.pa + k) = BitVec.ofNat 8 (p.data.toNat / 256 ^ k)) ∧
    ((∀ l ∈ s.mem.l1, l.kind ≠ .owned ∧ l.buffered = false) → (∀ c ∈ s.crews, c.stash = []) →
      s.mem.sectors.length + 1 < 8192 → ∀ a, a < p.pa ∨ p.pa + p.size ≤ a → cohByte (perform s r) a = cohByte s a)

/-- LDS, STS, ATOM and RED on a scratchpad. A misaligned offset of an active thread takes ALIGN; else one outside the allocation, one
in a subscribing stash entry whose subscription has ended, and a write to any subscribing entry take SCRATCH; else, once the pages of the stash
ranges that are touched pass their probe, the accesses are made. With no stash range and nothing to wait for, LDS reads each
element and its row is pending, and STS writes each thread's element, ascending, after what a release does in the core's L1, at core scope where the form names none. The
first touch of a line of a stash range fetches it, with the marks of its poison: afterwards it holds the coherent value of its
global line, or, in a subscribing entry, each element's encoding at the entry's format; an element written there is dirty and is then the
coherent value of its global bytes (R117, R121, R138, R174, R175, R282, R361, R362, R384). -/
def Obligations.ScratchpadAccesses : Prop :=
  (∀ (s : State) (g : Group) (q : QEntry) (f : LaneForm) (c : Crew) (i : Instr) (o : SpadOp) (off : Nat → Int),
    SpadForm g q f i o off → LaneReady s i g q → crewOf s g = some c →
    let bad := fun t => !inAlloc c (off t) o.size || (match stashAt c (off t).toNat with
      | some e => e.dead || (e.sfmt != 0 && o.upd.isSome)
      | none => false)
    let trap := fun code t => Host.Outcome.next (takeTrap s g
      { code := code, info := (BitVec.ofInt 64 (off t)).toNat, lane := true, thr := t, tlpc := q.addr })
    (∀ t, (actives g q f).find? (fun t => decide (off t % (o.size : Int) ≠ 0)) = some t → exec i s = trap 4 t) ∧
    ((∀ t ∈ actives g q f, off t % (o.size : Int) = 0) →
      (∀ t, (actives g q f).find? bad = some t → exec i s = trap 5 t) ∧
      ((∀ t ∈ actives g q f, bad t = false) → actives g q f ≠ [] →
        let els := (actives g q f).map fun t => ({ thr := t, off := (off t).toNat } : SpadEl)
        let ps := spadProbes s g c o.need els
        let s0 := oneXlate s g.asid (ps.map (·.va))
        misses s0 g.asid ps = [] →
        exec i s = .next (spadAccess f o g q (actives g q f) els (learnAll s0 g.asid ps) (founds s0 g.asid ps))))) ∧
  (∀ (s s1 : State) (g : Group) (q : QEntry) (f : LaneForm) (c : Crew) (u : Nat) (us : List Nat) (m : MemMod),
    let n := accSize f.ty m.sz
    let off := fun t => (addrAB g q f t).toInt
    crewOf s g = some c → c.stash = [] → s.poisonSpad = [] → actives g q f = u :: us →
    (∀ t ∈ u :: us, off t % n = 0 ∧ inAlloc c (off t) n = true) → fenced s g false = false →
    acquireWaits s g false (maskOf (u :: us)) kindRc = false →
    (LaneReady s (.lds f m) g q →
      exec (.lds f m) s = .next (enterPending s g f (u :: us) { newInfl s g q f .scratch [f.d.toNat] with
        writes := (u :: us).foldl (fun w t =>
          Cells.put w (32 * f.d.toNat + t) (spadRow f m.sz (spadNat s g.core (off t).toNat n))) [] })) ∧
    (LaneReady s (.sts f m) g q → writeFenced s (agentOf s g false (maskOf (u :: us))) kindRc = false →
      let a := fun (s : State) => agentOf s g false (maskOf (u :: us))
      let sc := if m.scope = .pkg then .core else m.scope
      (if m.ord = .plain then s1 = s else releaseWaits s g false (maskOf (u :: us)) sc = false ∧
        flushPaid s (laneWho g) g.gid g.core none = (s1, true) ∧ releaseStands s1 (a s1) sc = false) →
      let s2 := if m.ord = .plain then s1 else releaseL1 s1 (a s1) sc
      exec (.sts f m) s = .next (setG ((u :: us).foldl (fun s t =>
        spadWrite s g.core (off t).toNat (leBytes n ((opC g q f t).toNat % 2 ^ (8 * n)))) s2) (entered g f)))) ∧
  (∀ (s : State) (g : Group) (c : Crew) (e : Stash) (off : Nat), crewOf s g = some c → stashAt c off = some e →
    stashHolds e off (stashPas s g.asid e off) = false →
    (∀ pa pte, e.sfmt = 0 → look s g.asid (e.gbase + (off - e.sbase)) {} = .ok pa pte →
      (∀ l ∈ s.mem.l1, ∀ x ∈ l.bytes, x.1 / 64 = l.line) →
      let t := fillStash s g off
      (∀ k < 64, spadByte t g.core (off / 64 * 64 + k) = cohByte t (pa / 64 * 64 + k)) ∧
      (s.pkg.podPos = none → ∀ k < 16, t.poisonSpad.contains (g.core, 16 * (off / 64) + k) = t.mem.poison.contains (pa / 64))) ∧
    (∀ o, e.sfmt ≠ 0 → findObj s g.asid e.obj = some o →
      let t := fillStash s g off
      ∀ x ∈ stashElems o e (off / 64), ∀ pa pte, look s g.asid (x.2 / 64 * 64) {} = .ok pa pte →
        spadNat t g.core (64 * (off / 64) + x.1) (sfmtSize e.sfmt) =
          image e.sfmt o.hfmt (elemBits s o (pa + x.2 % 64)) % 2 ^ (8 * sfmtSize e.sfmt))) ∧
  (∀ (s : State) (g : Group) (c : Crew) (e : Stash) (o : SpadOp) (thr off v pa pte : Nat), crewOf s g = some c →
    c.core = g.core → stashAt c off = some e → e.sfmt = 0 → s.coh.objs = [] → off % 64 + o.size ≤ 64 → pa % 64 = off % 64 →
    look s g.asid (e.gbase + (off - e.sbase)) {} = .ok pa pte → e.filled.contains (off / 64, pa / 64) = true →
    (∀ l ∈ s.mem.l1, l.kind = .owned → l.line ≠ pa / 64) → (∀ l ∈ s.mem.l1, ∀ x ∈ l.bytes, x.1 / 64 = l.line) →
    (∀ d ∈ stashDirty s (pa / 64), d = (g.core, off / 64)) →
    ∀ k < o.size, cohByte (spadPutEl s g o thr off v) (pa + k) = BitVec.ofNat 8 (v / 256 ^ k))

/-- PREF makes one prefetch for each line that active threads name, once no fence stands and their tables can be reached; FENCE stands for every active thread, once
the core's buffered stores have gone home; the cache instructions, once what they write back has been charged, act for every active
thread, CDISC with the count of its discarded lines for its scalar register (R23, R27, R123, R326 to R329, R341, R376). What a discarded byte
holds is a free choice (log 6, log 23). -/
def Obligations.PrefetchFenceAndCache : Prop :=
  ∀ (s : State) (g : Group) (q : QEntry) (f : LaneForm),
    (∀ (lvl : PrefLvl) (rq : ReqTy), LaneReady s (.pref f lvl rq) g q → (fenced s g false = false ∨ actives g q f = []) →
      (∀ t ∈ actives g q f, walkOpen s g.asid (addrAB g q f t).toNat = true) → exec (.pref f lvl rq) s = .next (setG ((((actives g q f).map fun t => (addrAB g q f t).toNat / 64).eraseDups).foldl
        (fun s l => prefOne s g lvl rq (64 * l)) s) (entered g f))) ∧
    (∀ m : FenceMod, LaneReady s (.fence f m) g q →
      (actives g q f = [] → exec (.fence f m) s = .next (setG s (entered g f))) ∧
      ∀ s1 : State, actives g q f ≠ [] → flushPaid s (laneWho g) g.gid g.core none = (s1, true) →
        exec (.fence f m) s = .next (setG s1 (entered (addFence s1 g false (maskOf (actives g q f)) m) f))) ∧
    (∀ (a : CacheAct) (scope : Scope) (i : Instr) (s2 : State),
      (i, a) ∈ [(Instr.cinv f scope, CacheAct.invalidate), (.cwb f scope, .clean), (.cdisc f scope, .discard)] →
      LaneReady s i g q → actives g q f ≠ [] → fenced s g false = false →
      let n := if a = .discard then needStore else needLoad
      let rs := (actives g q f).map fun u => (u, cacheRange g q f u)
      let els := asking n ((rs.flatMap fun x => (rangePages x.2.1 x.2.2).map fun va => (x.1, va)).filter
        fun e => match look s g.asid e.2 n with | .absent _ => false | _ => true)
      let s0 := oneXlate s g.asid (els.map (·.va))
      let s1 := learnAll s0 g.asid els
      let out := cacheAll s2 g a scope n (rs.map Prod.snd)
      misses s0 g.asid els = [] → cacheWaits s1 g n (rs.map Prod.snd) (founds s0 g.asid els) = false →
      cleanLines s1 g scope (cleanedLines s1 g a n (rs.map Prod.snd)) = (s2, true) →
      exec i s = .next (enterPending out.1 ((findGroup out.1.groups g.gid).getD g) f (actives g q f)
        { newInfl out.1 g q f .cache [] with
          sreg := scalarDest i, sval := dw out.2, aux := out.2, vpages := pagesOf (founds s0 g.asid els) }))

/-! ## Synchronisation -/

/-- An arrival at a barrier: pend falls by one, and a phase with nothing awaited ends, with the next generation and pend as
expected. BARA makes it, as a release once the core's buffered stores have gone home, and returns the generation; BARW returns when
its phase is over and parks before; BARTW returns 1, or 0 with no hint, or goes on being tested (R123, R144, R182, R183, R184, R318
to R321). -/
def Obligations.Barriers : Prop :=
  (∀ v : BarVal, v.pend ≠ 0 →
    (v.pend = 1 → v.inc = 0 → v.outc = 0 → barArrive v 0 0 = { v with gen := (v.gen + 1) % 16, pend := v.expct }) ∧
    (v.pend ≠ 1 → v.inc < 2 ^ 32 → v.outc < 2 ^ 32 → barArrive v 0 0 = { v with pend := v.pend - 1 })) ∧
  (∀ (s : State) (g : Group) (q : QEntry) (f : LaneForm) (net : Bool) (c : Crew) (v : BarVal) (u : Nat) (us : List Nat),
    let b := barAt g q f net
    crewOf s g = some c → (net = false → opdInt g q 0 f.b 0 % 16 = 0 ∧ inAlloc c (opdInt g q 0 f.b 0) 16 = true) →
    (net = false → spadPoison s g.core (opdInt g q 0 f.b 0).toNat 16 = false) →
    barVal s g b = some v → v.sound = true → fenced s g false = false → actives g q f = u :: us →
    (∀ (m : BarMod) (s1 : State), m.net = net → LaneReady s (.bara f m) g q →
      releaseWaits s g false (maskOf (u :: us)) (barScope b) = false → podBarrier s b = false →
      let nIn := if m.inn then nbits (opA g f u).toNat 0 32 else 0
      let nOut := if m.out then nbits (opA g f u).toNat 32 32 else 0
      v.pend ≠ 0 → (net = true → nIn = 0 ∧ nOut = 0) →
      releasePaid s (laneWho g) (agentOf s g false (maskOf (u :: us))) (barScope b) = (s1, true) →
      let s2 := barPut s1 g b (barArrive v nIn nOut)
      exec (.bara f m) s = .next (enterPending s2 { g with arrived := g.arrived.put (barKey b) v.gen } f (u :: us)
        { newInfl s2 g q f .barrier [] with sreg := scalarDest (.bara f m), sval := dw v.gen })) ∧
    (LaneReady s (.barw f net) g q → acquireWaits s g false (maskOf (u :: us)) kindRc = false →
      exec (.barw f net) s = .next (if phaseOver v.gen (opdDword g q 1 f.c 0).toNat
        then setG (acquireL1 s g.gid g.core (barScope b)) (entered g f)
        else parkG s g (barPark b) (barTarget g b) true)) ∧
    (LaneReady s (.bartw f net) g q → acquireWaits s g false (maskOf (u :: us)) kindRc = false →
      let gen := (opdDword g q 1 f.c 0).toNat % 16
      let hint := (opA g f u).toNat
      let i := { newInfl s g q f .barrier [] with sreg := scalarDest (.bartw f net) }
      exec (.bartw f net) s = .next
        (if phaseOver v.gen gen then enterPending (acquireL1 s g.gid g.core (barScope b)) g f (u :: us) { i with sval := 1 }
        else if hint = 0 then enterPending s g f (u :: us) { i with sval := 0 }
        else enterPending s g f (u :: us) { i with kind := .tryBar, aux := s.pkg.time.toNat + hint
                                                   caps := [dw (barInfo b), dw gen, if net then 1 else 0, dw hint] })))

/-- QPUSH, as a release once the core's buffered stores have gone home, puts one handle for each active thread behind the tail,
ascending, and lowers the allowance; QPOP takes as many from
the head, and raises it; each moves all or parks (R123, R187, R188, R377). -/
def Obligations.NamedQueues : Prop :=
  ∀ (s : State) (g : Group) (q : QEntry) (f : LaneForm) (c : Crew) (u : Nat) (us : List Nat),
    let act := u :: us
    let num := (opdDword g q 0 f.b 0).toNat
    let off := qOff c num
    let x := spadNat s g.core off 32
    crewOf s g = some c → 32 * (num + 1) ≤ c.size → qFieldsOk x = true → qRing x % 64 = 0 →
    inAlloc c (qRing x) (4 * qDepth x) = true → act.length ≤ qDepth x → actives g q f = act → fenced s g false = false →
    spadPoison s g.core off 32 = false →
    (LaneReady s (.qpush f) g q → releaseWaits s g false (maskOf act) .core = false →
      let room := act.length ≤ qAllow x ∧ qUsed x + act.length ≤ qDepth x
      (¬ room → exec (.qpush f) s = .next (parkG s g (.queue num) (.queue num) true)) ∧
      ∀ s1 : State, room → releasePaid s (laneWho g) (agentOf s g false (maskOf act)) .core = (s1, true) →
        let s2 := ringPut s1 g.core x (act.map fun t => (opA g f t).toNat % 2 ^ 32)
        exec (.qpush f) s = .next (setG (spadWrite s2 g.core off
          (leBytes 32 (qSet x (qHead x) (qTail x + act.length) (qAllow x - act.length)))) (entered g f))) ∧
    (LaneReady s (.qpop f) g q → acquireWaits s g false (maskOf act) kindRc = false →
      (∀ k < act.length, spadPoison s g.core (ringAt x k) 4 = false) →
      exec (.qpop f) s = .next (if act.length ≤ qUsed x
        then
          let s1 := spadWrite s g.core off
            (leBytes 32 (qSet x (qHead x + act.length) (qTail x) (qAllow x + act.length)))
          enterPending s1 g f act { newInfl s1 g q f .pop [f.d.toNat] with
            writes := (act.zipIdx).foldl (fun w t => Cells.put w (32 * f.d.toNat + t.1) (dw (ringGet s g.core x t.2))) [] }
        else parkG s g (.queue num) (.queue num) true))

/-- TWAIT reads its word at its home, within the budget, after what its group's stack cache holds of the word has been written back;
when the condition holds it acquires and returns 1, with no hint it returns 0, and else it parks. WAITT reads the words of its active
threads so, and returns once each has reached its number. A hint that has elapsed returns 0, or 1 where the condition holds then, and a BARTW whose object is poisoned consumes it
(R119, R184, R282, R447, R448, R450, R457). -/
def Obligations.WaitsOnWords : Prop :=
  (∀ (s0 s : State) (g0 g : Group) (q : QEntry) (f : LaneForm) (u : Nat) (us : List Nat) (pa pte : Nat) (cond : WCond)
      (w32 : Bool) (scope : Scope),
    let va := (capOf q 0).toNat
    let n := if w32 then 4 else 8
    let d := scalarDest (.twait f cond w32 scope)
    let s1 := learnAll s g.asid (asking needLoad [(u, va)])
    actives g0 q f = u :: us → LaneReady s0 (.twait f cond w32 scope) g0 q → va % n = 0 → fenced s0 g0 false = false →
    Spilled s0 g0 (fun x => x / 8 == va / 8) s g → look s g.asid va needLoad = .ok pa pte → acquireWaits s1 g false (maskOf (u :: us)) (pteOk pte) = false →
    lineBusy s1 g.core (pa / 64) = false → poisoned s1 pa n = false → ∀ s2, readWords s1 g (maskOf (u :: us)) [(pa / 64, pteOk pte)] scope = (s2, true) →
    exec (.twait f cond w32 scope) s0 = .next
      (if waitCond cond (8 * n) (cohNat s2 pa n) (opdDword g q 1 f.c 0).toNat
        then setG (acquireL1 s2 g.gid g.core scope) (endTwait g f d 1)
        else if (opA g f u).toNat = 0 then setG s2 (endTwait g f d 0)
        else parkG s2 g .word .memory true)) ∧
  (∀ (sA s : State) (gA g : Group) (q : QEntry) (f : LaneForm) (u : Nat) (us : List Nat) (scope : Scope),
    let addr := fun t => (opdDword gA q 0 f.b t).toNat
    let els := asking needLoad ((u :: us).map fun t => (t, addr t))
    let s0 := oneXlate s g.asid (els.map (·.va))
    let fs := founds s0 g.asid els
    let s1 := learnAll s0 g.asid els
    actives gA q f = u :: us → LaneReady sA (.waitt f scope) gA q → (∀ t ∈ u :: us, addr t % 8 = 0) →
    fenced sA gA false = false → Spilled sA gA (fun x => (u :: us).any fun t => x / 8 == addr t / 8) s g →
    misses s0 g.asid els = [] →
    (∀ x ∈ fs, acquireWaits s1 g false (maskOf (u :: us)) x.ok = false ∧ lineBusy s1 g.core (x.pa / 64) = false ∧
      poisoned s1 x.pa 8 = false) →
    ∀ s2, readWords s1 g (maskOf (u :: us)) (fs.map fun x => (x.pa / 64, x.ok)).eraseDups scope = (s2, true) →
    exec (.waitt f scope) sA = .next
      (if ∀ x ∈ fs, (opdDword g q 1 f.c x.thr).toNat ≤ cohNat s2 x.pa 8
        then setG (acquireL1 s2 g.gid g.core scope) (entered g f)
        else parkG s2 g .timeline .memory true)) ∧
  (∀ (s : State) (g : Group) (q : QEntry) (qs : List QEntry) (f : LaneForm) (cond : WCond) (w32 : Bool) (scope : Scope),
    findGroup s.groups g.gid = some g → g.park = .word → g.queue = q :: qs →
    entryInstr q = some (.twait f cond w32 scope) → ∀ pa, waitPa s g.asid (capOf q 0).toNat = some pa →
    poisoned s pa (if w32 then 4 else 8) = false →
    let ends := fun v => readyG s.pkg.time (endTwait g f (scalarDest (.twait f cond w32 scope)) v)
    (wordHolds s g q f cond w32 pa = true →
      ∃ t, exec (.tryWaitHintExpiry g.gid 0) s = .next t ∧ findGroup t.groups g.gid = some (ends 1)) ∧
    (wordHolds s g q f cond w32 pa = false → g.waitFrom.toNat + waitHint g q f ≤ s.pkg.time.toNat →
      exec (.tryWaitHintExpiry g.gid 0) s = .next (setG s (ends 0)))) ∧
  (∀ (s : State) (g : Group) (i : Inflight), findGroup s.groups g.gid = some g → i.id ≠ 0 →
    (g.infl.find? fun x => x.id == i.id && x.kind == .tryBar) = some i → i.aux ≤ s.pkg.time.toNat →
    exec (.tryWaitHintExpiry g.gid i.id) s = .next (match tryHolds s g i with
      | some sc => deliver (acquireL1 s g.gid g.core sc) g { i with sval := 1 }
      | none => if tryBad s g i then consume s g 0 0 0 else deliver s g { i with sval := 0 }))

/-- NOP enters with no other effect; IDEM writes the region's pair, and its restart count when the pair changes; CKTEST with no
failing thread goes on; its failing threads, and every active thread of TRAPL, meet their condition, which aborts the grid when
it has no lane-trap kernel and else parks the group (R110, R277, R331, R351, R352, R370, R446). CKTEST of two zero sums under an
infinite tolerance is a free value (log 6). -/
def Obligations.RegionsAndConditions : Prop :=
  ∀ (s : State) (g : Group) (q : QEntry) (f : LaneForm),
    (LaneReady s (.nop f) g q → exec (.nop f) s = .next (setG s (entered g f))) ∧
    (∀ fin : Bool, LaneReady s (.idem f fin) g q → actives g q f ≠ [] → ∃ t g', exec (.idem f fin) s = .next t ∧
      curG t = some g' ∧ g'.queue = g.queue.tail ∧ g'.idemspc = (if fin then 0 else capOf q 0) ∧
      g'.idemlpc = (if fin then 0 else capOf q 1) ∧
      g'.restarts = (if g.idemspc = g'.idemspc ∧ g.idemlpc = g'.idemlpc then g.restarts else 0)) ∧
    (∀ flt : Bool, LaneReady s (.cktest f flt) g q →
      let bad := (actives g q f).filterMap fun t => (ckTest flt g q f t).map fun v => (t, v)
      exec (.cktest f flt) s = .next (if bad = [] then setG s (entered g f) else laneCondition s g q f 0x10 bad)) ∧
    (LaneReady s (.trapl f) g q → actives g q f ≠ [] → exec (.trapl f) s = .next
      (laneCondition s g q f 0x11 ((actives g q f).map fun t => (t, opA g f t)))) ∧
    (∀ (r : Grid) (code : Nat) (ts : List (Nat × Dword)), gridOf s g = some r → r.k.trapk = 0 →
      laneCondition s g q f code ts = abortGrid s g.grid code (dieOf s g.core)) ∧
    (∀ (r : Grid) (code : Nat) (ts : List (Nat × Dword)), gridOf s g = some r → r.k.trapk ≠ 0 → curG s = some g →
      ∃ g', curG (laneCondition s g q f code ts) = some g' ∧ g'.park = .lanes ts.length f.mark ∧
        g'.queue = g.queue.tail)

/-! ## Descriptors and subscriptions -/

/-- SDESC removes or installs what its slot names, once what a stash slot holds dirty has been written back and the descriptor
has been read, its bytes in the group's stack cache having gone home, and returns its status; a stash descriptor that fails its checks
writes nothing back; SUBP, UPGP and UNSP return the statuses of R171 and
change the core's subscription of an object (R129, R163, R166, R171 to R174, R419, R420, R425, R426). The end of a stream on a
page that is absent is the model's reading (log 21). -/
def Obligations.DescriptorsAndSubscriptions : Prop :=
  ∀ (s : State) (g : Group) (q : QEntry) (f : LaneForm) (u : Nat) (us : List Nat), actives g q f = u :: us →
    fenced s g false = false →
    (∀ (kind : DescKind) (s1 : State), LaneReady s (.sdesc f kind true) g q →
      let slot := (opdDword g q 0 f.b 0).toNat
      slotDrained s g kind slot = (s1, true) →
      exec (.sdesc f kind true) s = .next (statusResult (match kind with
        | .stream => dropStream s1 g.core slot
        | .stash => dropStash s1 g.asid g.grid g.crew slot
        | .obj => retireObj s1 g.asid slot) q g f (u :: us) 0)) ∧
    (∀ (kind : DescKind) (pa pte d : Nat) (sA s2 s3 : State) (gA : Group), LaneReady s (.sdesc f kind false) g q →
      let slot := (opdDword g q 0 f.b 0).toNat
      let x := (opA g f u).toNat
      let size := if kind = .obj then 64 else 32
      x % size = 0 → Spilled s g (fun va => decide (x ≤ va ∧ va < x + size)) sA gA →
      let s1 := learnAll sA gA.asid (asking needLoad [(u, x)])
      look sA gA.asid x needLoad = .ok pa pte → acquireWaits s1 gA false (maskOf (u :: us)) (pteOk pte) = false →
      poisoned s1 pa size = false → readDesc s1 gA (maskOf [u]) (pteOk pte) pa size = (s2, some d) →
      (if kind = .stash ∧ stashStatus s2 gA slot (BitVec.ofNat 256 d) ≠ 0 then (s2, true) else slotDrained s2 gA kind slot) =
        (s3, true) →
      let out := match kind with
        | .stream => installStream s3 gA slot (BitVec.ofNat 256 d)
        | .stash => installStash s3 gA slot (BitVec.ofNat 256 d)
        | .obj => installObj s3 gA.asid slot (BitVec.ofNat 512 d)
      exec (.sdesc f kind false) s = .next (statusResult out.1 q gA f (u :: us) out.2)) ∧
    (LaneReady s (.subp f) g q →
      let x := opA g f u
      (findObj s g.asid (subObj x) = none → exec (.subp f) s = .next (statusResult s q g f (u :: us) 1)) ∧
      (∀ o, findObj s g.asid (subObj x) = some o → admits o.hfmt (subFmt x) = false →
        exec (.subp f) s = .next (statusResult s q g f (u :: us) 2)) ∧
      (∀ o, findObj s g.asid (subObj x) = some o → admits o.hfmt (subFmt x) = true →
        let els := asking needSub ((objPages o).map fun va => (u, va))
        let s0 := oneXlate s g.asid (els.map (·.va))
        let s1 := learnAll s0 g.asid els
        misses s0 g.asid els = [] →
        (∀ b, l1Sub s1 g.core g.asid o.num = some b →
          (b.fmt ≠ subFmt x ∨ b.update ≠ subMode x → exec (.subp f) s = .next (statusResult s1 q g f (u :: us) 4)) ∧
          (b.fmt = subFmt x → b.update = subMode x → exec (.subp f) s = .next (statusResult { s1 with coh := { s1.coh with
            subs := s1.coh.subs.map fun y => if y = b ∧ !b.crews.contains (g.grid, g.crew)
              then { y with crews := (g.grid, g.crew) :: y.crews } else y } } q g f (u :: us) 0))) ∧
        (l1Sub s1 g.core g.asid o.num = none → 64 ≤ slotsTaken s1 g.core →
          exec (.subp f) s = .next (statusResult s1 q g f (u :: us) 3)) ∧
        (l1Sub s1 g.core g.asid o.num = none → slotsTaken s1 g.core < 64 →
          let held := heldLines s1 g.core g.asid o.num ((founds s0 g.asid els).map fun y => (y.va / 4096, pageOf y.pa))
          ∀ s2 : State, heldHome s1 g held = (s2, true) →
          let s3 := discardHeld s2 g.core held
          let b : Sub := { core := g.core, crews := [(g.grid, g.crew)], asid := g.asid, obj := o.num, fmt := subFmt x
                           update := subMode x, stash := none }
          exec (.subp f) s = .next (statusResult { s3 with coh := { s3.coh with subs := b :: s3.coh.subs } } q g f
            (u :: us) 0)))) ∧
    (LaneReady s (.upgp f) g q → crewSub s g (subObj (opA g f u)) = none →
      exec (.upgp f) s = .next (statusResult s q g f (u :: us) 1)) ∧
    (LaneReady s (.upgp f) g q → ∀ b o, crewSub s g (subObj (opA g f u)) = some b →
      findObj s g.asid (subObj (opA g f u)) = some o →
      (subFmt (opA g f u) = b.fmt → exec (.upgp f) s = .next (statusResult s q g f (u :: us) 0)) ∧
      (subFmt (opA g f u) ≠ b.fmt →
        (admits o.hfmt (subFmt (opA g f u)) = false ∨ fmtRank (subFmt (opA g f u)) < fmtRank b.fmt) →
        exec (.upgp f) s = .next (statusResult s q g f (u :: us) 2)) ∧
      (subFmt (opA g f u) ≠ b.fmt → admits o.hfmt (subFmt (opA g f u)) = true →
        fmtRank b.fmt ≤ fmtRank (subFmt (opA g f u)) →
        let els := asking needSub ((imagesHeld s g.core g.asid o.num).map fun va => (u, va))
        let s0 := oneXlate s g.asid (els.map (·.va))
        let sL := learnAll s0 g.asid els
        let fs := founds s0 g.asid els
        let lines := (fs.map fun y => y.pa / 64).eraseDups
        ((∃ c ∈ b.crews, c ≠ (g.grid, g.crew)) → exec (.upgp f) s = .next (statusResult s q g f (u :: us) 4)) ∧
        (∀ s1 : State, (∀ c ∈ b.crews, c = (g.grid, g.crew)) →
          misses s0 g.asid els = [] →
          ((lines = [] ∧ s1 = sL) ∨ (lines ≠ [] ∧ reachCore sL g.core (laneWho g) clsDemand lines = (s1, true))) →
          exec (.upgp f) s = .next (statusResult
            (upgrade s1 g.core g.asid b o (subFmt (opA g f u)) (fs.map fun y => (y.va, y.pa))) q g f (u :: us) 0)))) ∧
    (LaneReady s (.unsp f) g q →
      (crewSub s g (subObj (opA g f u)) = none → exec (.unsp f) s = .next (statusResult s q g f (u :: us) 1)) ∧
      (∀ b, crewSub s g (subObj (opA g f u)) = some b → (∀ c ∈ b.crews, c = (g.grid, g.crew)) →
        exec (.unsp f) s = .next (statusResult (endSub s b) q g f (u :: us) 0)) ∧
      (∀ b, crewSub s g (subObj (opA g f u)) = some b → (∃ c ∈ b.crews, c ≠ (g.grid, g.crew)) →
        exec (.unsp f) s = .next (statusResult { s with coh := { s.coh with
          subs := s.coh.subs.map fun y => if y = b then { y with crews := y.crews.filter (· ≠ (g.grid, g.crew)) } else y } }
          q g f (u :: us) 0)))

/-! ## The graphics units -/

/-- RAST scans its triangle and leaves the three rows and the token pending; SAMP and SAMPG, once their threads' earlier accesses have
been performed, read their descriptor, hold row a,
and run their footprints, with mz's zeroes written as the result returns; SAMPLER_RESUME goes on from the record; OMRG sends its
fragments and closes when every die has room, counting those that an invalid record discards,
and each is taken up as it arrives (R30, R156, R249, R252 to R258, R371, R372, R382, R388). When an entry leaves, and the thread that a
close without one probes for, are the model's readings (log 28). -/
def Obligations.GraphicsUnits : Prop :=
  (∀ (s : State) (g : Group) (q : QEntry) (f : LaneForm), LaneReady s (.rast f) g q → actives g q f ≠ [] →
    let out := rastOut q.caps (actives g q f) f.d.toNat (candCount (triOf q.caps))
    exec (.rast f) s = .next (enterPending s g f (actives g q f) { newInfl s g q f .rast (rowsFrom f.d.toNat 3) with
      writes := out.1, sreg := scalarDest (.rast f), sval := out.2 })) ∧
  (∀ (s : State) (g : Group) (q : QEntry) (f : LaneForm) (u : Nat) (us : List Nat) (i : Instr) (gather : Bool)
      (pa pte : Nat) (sA s1 s2 : State) (gA : Group),
    (i, gather) ∈ [(Instr.samp f, false), (.sampg f, true)] → LaneReady s i g q → actives g q f = u :: us →
    let x := opdDword g q 1 f.c u
    x.toNat % 32 = 0 → fenced s g false = false → (∀ r ∈ g.infl, r.kind ≠ .samp) →
    outstanding s g false (maskOf (u :: us)) (fun _ => true) = false →
    engineReads s g.gid (maskOf (u :: us)) s.nextId = false → writesOnWay s g (maskOf (u :: us)) = false →
    Spilled s g (fun _ => true) sA gA → look sA gA.asid x.toNat needLoad = .ok pa pte →
    readWords (learnAll sA gA.asid (asking needLoad [(u, x.toNat)])) gA (maskOf (u :: us))
      ((linesOf pa 32).map fun l => (l, pteOk pte)) .sys = (s1, true) →
    poisoned s1 pa 32 = false → flushPaid s1 (laneWho gA) gA.gid gA.core none = (s2, true) →
    writesOnWay s2 gA (maskOf (u :: us)) = false →
    let s3 := enterPending s2 gA f (List.range 32) { newInfl s2 gA q f .samp (rowsFrom f.d.toNat 2) with
      needs := 1, writes := lateZeroes f (rowsFrom f.d.toNat 2) (u :: us) }
    let m : Samp :=
      { infl := s2.nextId, gather := gather, desc := x, arow := f.a.toNat, dst := f.d.toNat, act := maskOf (u :: us)
        done := 0, thr := u, tmask := 0, stage := [], fva := none, left := 0, trap := none, entry := q
        tex := BitVec.ofNat 256 (cohNat s3 pa 32), bad := false }
    exec i s = .next (sampLoop (setG s3 { (findGroup s3.groups gA.gid).getD gA with samp := some m, held := [f.a.toNat] })
      gA.gid sampFuel)) ∧
  (∀ (s : State) (g : Group) (m : Samp), findGroup s.groups g.gid = some g → g.samp = some m → m.left = 0 →
    onCore s g = true →
    (∀ t, m.trap = some t → exec (.samplerResume g.gid) s = .next (sampTrap s g m t.1 t.2)) ∧
    (m.trap = none → m.fva = none → exec (.samplerResume g.gid) s = .next (sampLoop s g.gid sampFuel)) ∧
    (m.trap = none → m.fva ≠ none → m.bad = false →
      exec (.samplerResume g.gid) s = .next (sampAgain s g m))) ∧
  (∀ (s : State) (g : Group) (q : QEntry) (f : LaneForm) (seq : SReg) (close : Bool) (pa pte d : Nat) (sA s2 : State) (gA : Group),
    LaneReady s (.omrg f seq close) g q → (actives g q f ≠ [] ∨ close = true) → fenced s g false = false →
    let u := (actives g q f).headD 0
    let x := (opdDword g q 1 f.c u).toNat
    x % 64 = 0 → Spilled s g (fun va => decide (x ≤ va ∧ va < x + 64)) sA gA →
    let s1 := learnAll sA gA.asid (asking needLoad [(u, x)])
    let out := fragsOf s2 gA q f close (actives g q f) x (BitVec.ofNat 512 d)
    look sA gA.asid x needLoad = .ok pa pte → poisoned s1 pa 64 = false →
    readDesc s1 gA (maskOf [u]) (pteOk pte) pa 64 = (s2, some d) →
    (∀ k ∈ out.map Prod.fst, mergeRoom s2 gA.asid x out k = true) →
    exec (.omrg f seq close) s = .next (out.foldl sendFrag
      (countDrops (setG s2 (entered gA f)) gA.asid x (badFrags gA f (actives g q f) (BitVec.ofNat 512 d))))) ∧
  (∀ (s : State) (die : Nat) (f : Frag),
    ((mergeUnit s die).transit.find? fun x => x.id == f.id && x.close == f.close) = some f →
    fragFirst (mergeUnit s die) f = true →
    (f.close = false → exec (.fragmentArrival die f.id) s = .next (arriveFrag s die f)) ∧
    (f.close = true → exec (.streamClose die f.id) s = .next (arriveClose s die f)))

/-! ## Rays -/

/-- TRACE, once its threads' earlier accesses have been performed, starts one ray for each active thread, with the context's budget, program and layouts, and its rows pending, once the
engine has slots beside those of the ready rays that it alone takes, and has read what the context names; a context
that is not in order ends them with BADCTX; a ready ray is taken up by an engine that can take it, when that has read its
context again; a ray whose budget is spent
ends with STEPS; a word that is no micro-instruction ends its ray with BADOP (R74, R156, R222, R225, R226, R233, R236, R240, R244,
R444). Which field of a rewritten context, and which program, a resumed ray takes is a free choice (log 6). -/
def Obligations.TraceAndRays : Prop :=
  (∀ (s sA s1 : State) (g gA : Group) (q : QEntry) (f : LaneForm) (u : Nat) (us : List Nat) (pa pte : Nat),
    LaneReady s (.trace f) g q → actives g q f = u :: us →
    let x := opdDword g q 1 f.c u
    let els := asking needLoad [(u, x.toNat)]
    x.toNat % 64 = 0 → fenced s g false = false → (∀ r ∈ s.rays, r.gid ≠ g.gid) →
    us.length + 1 + resumeFirst s g.core ≤ freeSlots s g.core →
    outstanding s g false (maskOf (u :: us)) (fun _ => true) = false → engineReads s g.gid (maskOf (u :: us)) s.nextId = false →
    writesOnWay s g (maskOf (u :: us)) = false → Spilled s g (fun _ => true) sA gA → look sA gA.asid x.toNat needLoad = .ok pa pte →
    readWords (learnAll sA gA.asid els) gA (maskOf (u :: us)) ((linesOf pa 64).map fun l => (l, pteOk pte)) .sys = (s1, true) →
    vaPoison s1 gA.asid x.toNat 64 = false →
    (∀ s2 : State, ctxOf (vaNat s1 gA.asid x.toNat 64) = none →
      flushPaid s1 (laneWho gA) gA.gid gA.core none = (s2, true) → writesOnWay s2 gA (maskOf (u :: us)) = false →
      exec (.trace f) s = .next (startRays s2 gA q f (u :: us) x none)) ∧
    (∀ (c : TraceCtx) (s2 s3 : State), ctxOf (vaNat s1 gA.asid x.toNat 64) = some c →
      let els1 := els ++ ctxAsked u c
      let s0 := oneXlate s1 gA.asid (els1.map (·.va))
      let sL := learnAll s0 gA.asid els1
      let reads := ctxReads sL gA.core gA.asid c
      misses s0 gA.asid els1 = [] →
      readWords sL gA (maskOf (u :: us)) (rangeKinds sL gA.asid reads) .sys = (s2, true) →
      flushPaid s2 (laneWho gA) gA.gid gA.core none = (s3, true) → writesOnWay s3 gA (maskOf (u :: us)) = false → firstPoison s3 gA.asid reads = none →
      (readLayouts s3 gA.asid c = none → exec (.trace f) s = .next (startRays s3 gA q f (u :: us) x none)) ∧
      (∀ l, readLayouts s3 gA.asid c = some l → progRoom s3 gA.core gA.asid (dw c.prog) = true →
        exec (.trace f) s =
          .next (startRays (holdProg s3 gA.core gA.asid (dw c.prog)) gA q f (u :: us) x (some (c, l)))))) ∧
  (∀ (s s1 : State) (r : Ray) (g : Group) (core : Nat), findRay s r.id = some r → findGroup s.groups r.gid = some g →
    r.stage = .ready → s.pkg.up = true →
    (r.kill = true → exec (.rayResume r.id core) s = .next (endRay s r 6)) ∧
    (r.kill = false →
      let n := { r with prog := resumeProg s r }
      (allCores s).contains core = true → canTake s n core = true →
      (∀ k ∈ allCores s, nearness s g.core core ≤ nearness s g.core k ∨ canTake s n k = false) →
      resumeMisses s n = [] → rangeReach s core r.asid (.ray r.id) (resumeReads s n core) = (s1, true) →
      firstPoison s1 r.asid (resumeReads s n core) = none → exec (.rayResume r.id core) s = .next (resumeIn s1 n core))) ∧
  (∀ (s : State) (r : Ray) (core : Nat), findRay s r.id = some r → r.stage = .slot core → r.budget ≤ r.steps →
    exec (.rayStepBudgetExhausted r.id) s = .next (endRay s r 2)) ∧
  (∀ (s : State) (r : Ray) (core : Nat) (w : Word), RayReady s r core → decodeMicro w = none →
    RayEnds (.undefinedMicroOpcode w) s r 4)

/-- The micro-instructions that work on micro registers, conditions, the stack and the candidate hit; a resumed ray works its
stack in the ray area (R232, R240, R429 to R431, R433 to R437, R439, R440). -/
def Obligations.MicroMoves : Prop :=
  ∀ (s : State) (r : Ray) (core : Nat), RayReady s r core →
    (∀ (md ma mb : MReg) (fn : MFn),
      (∀ v, aluResult fn (micro r ma) (micro r mb) = .inl v → RayGoes (.trAlu md ma mb fn) s (setMicro r md.toNat v)) ∧
      (∀ b, aluResult fn (micro r ma) (micro r mb) = .inr b →
        if md.getLsbD 3 then RayEnds (.trAlu md ma mb fn) s r 4
        else RayGoes (.trAlu md ma mb fn) s (setCond r (md.setWidth 3) b))) ∧
    (∀ (md : MReg) (imm : BitVec 16),
      RayGoes (.trLdi md false imm) s (setMicro r md.toNat (imm.setWidth 32)) ∧
      RayGoes (.trLdi md true imm) s (setMicro r md.toNat (imm ++ (micro r md).setWidth 16))) ∧
    (∀ (cb : BitVec 3) (mi : MReg),
      RayGoes (.trBnd cb mi false) s
        (setCond r cb (decide (((micro r mi).toNat % 2 ^ 31 + 1) * r.lay0.nsz ≤ r.lay0.bsize))) ∧
      RayGoes (.trBnd cb mi true) s (setCond r cb (match r.lay1 with
        | none => false
        | some l => decide (((micro r mi).toNat % 2 ^ 31 + 1) * l.nsz ≤ l.bsize)))) ∧
    (∀ (cb : BitVec 3) (sense : Bool) (target : Byte),
      exec (.trBr cb sense target) s = .next (setRay s { r with
        steps := r.steps + 1, pc := if r.cond.getLsbD cb.toNat = sense then target else r.pc + 1 }) ∧
      exec (.trJmp target) s = .next (setRay s { r with steps := r.steps + 1, pc := target })) ∧
    (∀ (md : MReg) (boff : BitVec 6) (sz : DecSz), let n := 2 ^ sz.code.toNat
      (boff.toNat % n ≠ 0 → RayEnds (.trDec md boff sz) s r 4) ∧
      (∀ v, boff.toNat % n = 0 → bufField r boff.toNat n = some v →
        RayGoes (.trDec md boff sz) s (setMicro r md.toNat (BitVec.ofNat 32 v)))) ∧
    (∀ (ma mb : MReg) (t : State), StackGoes s core r (if r.stack.length < r.depth
      then { r with stack := r.stack ++ [micro r mb ++ micro r ma] }
      else { r with stack := (r.stack ++ [micro r mb ++ micro r ma]).tail, flags := r.flags ||| 1 }) 0 t →
      exec (.trPush ma mb) s = .next t) ∧
    (∀ (mi mt : MReg) (cb : BitVec 3) (cull : Bool) (out : List Dword) (t : State),
      (∀ e ∈ out, cull = true ∧ beyond r.tmax e = true) →
      (r.stack = out → StackGoes s core r (setCond { r with stack := [] } cb true) out.length t →
        exec (.trPop mi mt cb cull) s = .next t) ∧
      (∀ st e, r.stack = st ++ e :: out → (cull = true → beyond r.tmax e = false) →
        StackGoes s core r (setCond
          (setMicro (setMicro { r with stack := st } mi.toNat (e.setWidth 32)) mt.toNat (e.extractLsb' 32 32)) cb false)
          (out.length + 1) t →
        exec (.trPop mi mt cb cull) s = .next t)) ∧
    (∀ mt mp mi mu : MReg,
      let hit := { r with hit := [micro r mt, micro r mp, micro r (mt + 1), micro r (mt + 2), micro r mi, micro r mu]
                          tmax := micro r mt, committed := true }
      (13 < mt.toNat → RayEnds (.trHit mt mp mi mu) s r 4 ∧ RayEnds (.trAny mt mp mi mu) s r 4) ∧
      (mt.toNat ≤ 13 → RayGoes (.trHit mt mp mi mu) s hit ∧ RayEnds (.trAny mt mp mi mu) s hit 1)) ∧
    RayEnds .trEnd s r (if r.committed then 1 else 0)

/-- The micro-instructions that read the node buffer: TR.LDN loads a window through the L1 of the core that issued its ray, and ends
the ray with BOUNDS at an absent layout 1; TR.BOX tests its boxes, TR.TRI a triangle, TR.XFM
enters and leaves instance space, TR.SORT pushes the hit children, the nearest last (R227, R229, R230, R432, R438, R441 to R443). That
the counter of free values goes on by 8 with each TR.BOX and TR.SORT is the model's own device (log 6), and so are the reading of
a short window (log 27), of a count byte outside the window (log 60) and of a zero distance's sign (log 61). -/
def Obligations.MicroNodes : Prop :=
  ∀ (s : State) (r : Ray) (core : Nat), RayReady s r core →
    (∀ (mi : MReg) (win : BitVec 2) (lay : Bool), layoutAt r lay = none → RayEnds (.trLdn mi win lay) s r 3) ∧
    (∀ (mi : MReg) (win : BitVec 2) (lay : Bool) (l : Layout) (s1 : State), layoutAt r lay = some l →
      let idx := (micro r mi).toNat % 2 ^ 31
      (l.bsize < (idx + 1) * l.nsz → RayEnds (.trLdn mi win lay) s r 3) ∧
      ((idx + 1) * l.nsz ≤ l.bsize → l.nsz ≤ 64 * win.toNat → RayEnds (.trLdn mi win lay) s r 4) ∧
      ((idx + 1) * l.nsz ≤ l.bsize → 64 * win.toNat < l.nsz →
        let n := min 64 (l.nsz - 64 * win.toNat)
        let parts := rowParts (l.base + idx * l.nsz + 64 * win.toNat) n
        let els := asking needLoad (parts.map fun p => (r.thr, p.1))
        let fs := ((founds s r.asid els).zip parts).map fun x => (x.1.va, x.1.pa, x.2.2, x.1.ok)
        let lines := (fs.flatMap fun p => linesOf p.2.1 p.2.2.1).eraseDups
        misses s r.asid els = [] →
        let s0 := learnAll s r.asid els
        let far := lines.filter fun k => !inL1 s0 r.issuer k
        ((far = [] ∧ s1 = s0) ∨ (far ≠ [] ∧ reachCore s0 r.issuer (.ray r.id) clsDemand far = (s1, true))) →
        let s2 := lines.foldl (fun s k => throughL1 s r.issuer k (engineAccess s r.gid r.thr r.infl (partKind fs k))) s1
        (∀ p ∈ fs, poisoned s2 p.2.1 p.2.2.1 = false) →
        exec (.trLdn mi win lay) s = .next (setRay s2 { r with
          buf := (fs.flatMap fun p => tab p.2.2.1 fun k => cohByte s2 (p.2.1 + k)).take n, nidx := BitVec.ofNat 32 idx
          win := win.toNat, lsel := lay, vpages := addRows r.vpages (fs.map fun p => p.1 / 4096), steps := r.steps + 1
          pc := r.pc + 1 }))) ∧
    (∀ (md : MReg) (n : Nat) (r' : Ray), md.toNat + (bufLayout r).width ≤ 16 → childCount r (bufLayout r) = some n →
      boxKids { r with cond := 0 } (bufLayout r) md.toNat n s.draws 0 (bufLayout r).width = some r' →
      exec (.trBox md) s = .next (setRay { s with draws := s.draws + 8 } { r' with steps := r'.steps + 1, pc := r'.pc + 1 })) ∧
    (∀ (cb : BitVec 3) (mt : MReg) (off4 : BitVec 3) (cull : Bool) (ws : List Nat), mt.toNat ≤ 13 →
      allSome (tab 9 fun k => bufField r (4 * off4.toNat + 4 * k) 4) = some ws →
      (triTest r (ws.map fun w => dec .f32 w) cull = none → RayGoes (.trTri cb mt off4 cull) s (setCond r cb false)) ∧
      (∀ t u v, triTest r (ws.map fun w => dec .f32 w) cull = some (t, u, v) →
        let w := fun (x : Q) => rndF .rne (.fin x.isNeg x)
        RayGoes (.trTri cb mt off4 cull) s (setCond (setMicro (setMicro (setMicro r mt.toNat (w t)) (mt.toNat + 1) (w u))
          (mt.toNat + 2) (w v)) cb true))) ∧
    (r.ispace = true → RayEnds (.trXfm false false) s r 4 ∧ RayGoes (.trXfm false true) s { r with
      org := r.wray.take 3, dir := r.wray.drop 3, inv := (r.wray.drop 3).map invF, ispace := false }) ∧
    (∀ (off16 : Bool) (ws : List Nat), r.ispace = false →
      allSome (tab 12 fun k => bufField r ((if off16 then 16 else 0) + 4 * k) 4) = some ws →
      let row := fun (k : Nat) => ((ws.map fun w => dec .f32 w).drop (4 * k)).take 4
      let org := tab 3 fun k => xfmRow (row k) r.org true
      let dir := tab 3 fun k => xfmRow (row k) r.dir false
      (∀ x ∈ org ++ dir, isNanF x = false) → RayGoes (.trXfm off16 false) s { r with
        wray := r.org ++ r.dir, org := org, dir := dir, inv := dir.map invF, ispace := true }) ∧
    (∀ (md mn : MReg) (n : Nat) (ks : List Kid) (t : State), md.toNat + (bufLayout r).width ≤ 16 →
      childCount r (bufLayout r) = some n → hitKids r (bufLayout r) md.toNat n s.draws = some ks →
      let r1 := ((ks.mergeSort kidBefore).reverse).foldl (fun r k => pushEntry r k.ptr k.dist) r
      StackGoes { s with draws := s.draws + 8 } core r (setMicro r1 mn.toNat (BitVec.ofNat 32 ks.length)) 0 t →
      exec (.trSort md mn) s = .next t)

/-! ## Events: the package, issue and launches -/

/-- PACKAGE_RESET leaves the package in bring-up, with the cause in the firmware's log, when the part descriptor's signature
or its unit map fails its check, and enables the units of the map else, the counter at 0 (R20 to R22); the bound on the frames is the model's (log 44). The pod's
time base, and the route for a destination whose link has been down for more than 1 ms (R23, R307), or that has none yet, as the
model reads it (log 10); the activity governor's periods, a die whose energy is used up, and the power limit (R26,
R29, R30, R309); root pointers, and the device bias of a region that has posted a migration request (R48, R111, R305); a port
that fails, whose number stays and whose pages go to the ports that remain (R21, R304), which of them is the model's choice (log 54). The numbers of the log's causes are the model's choice
(log 16). -/
def Obligations.PackageAndPower : Prop :=
  (∀ (s : State) (umap : BitVec 1024) (frames : Nat) (body sig : List Byte),
    let d := Config.shake (leBytes 128 umap.toNat ++ body)
    let s0 := resetPackage s
    s0.pkg.up = false ∧ s0.groups = [] ∧ s0.mem.pool = s.mem.pool ∧
    exec (.packageReset umap frames body sig) s = .next (
      if Config.falconOk d sig = false then logEvent s0 srcFirmware causeSignature
      else if umapOk umap = false then logEvent s0 srcFirmware causeUnitMap
      else { s0 with pkg := enabled umap (min frames (786432 * (umChans umap).length)) d }) ∧
    (enabled umap frames d).up = true ∧ (enabled umap frames d).time = 0) ∧
  (∀ (s : State) (p : Dword), s.pkg.podPos.isSome = true → s.pkg.podTraffic = false →
    (s.pkg.time.toNat < p.toNat →
      exec (.podTimeAligned p) s = .next (flushFaults { s with pkg := { s.pkg with time := p, podTraffic := true } })) ∧
    (p.toNat ≤ s.pkg.time.toNat → s.pkg.time.toNat ≤ p.toNat + 2 →
      exec (.podTimeAligned p) s = .next { s with pkg := { s.pkg with podTraffic := true } }) ∧
    (p.toNat + 2 < s.pkg.time.toNat → exec (.podTimeAligned p) s = .next s)) ∧
  (∀ (s : State) (dest link : Nat), s.pkg.podPos.isSome = true → link < s.pkg.links.length →
    downSince s link = none → onRoute s dest = false →
    (routeOf s dest = none ∨ ∃ l t, routeOf s dest = some l ∧ downSince s l = some t ∧ t + 1000000 < s.pkg.time.toNat) →
    ∃ t, exec (.podLinkReroute dest link) s = .next t ∧ routeOf t dest = some link ∧
      ∀ d, d ≠ dest → routeOf t d = routeOf s d) ∧
  (∀ (s : State) (bs : List Budget) (e : List (Nat × Nat)), s.pkg.up = true → 4000 * s.gov.periods ≤ s.pkg.time.toNat →
    (∀ r ∈ govResources s, budgetOk bs r = true) → energyOk s e = true →
    ∃ t, exec (.governorPeriodBoundary bs e) s = .next t ∧ t.gov.left = loadBudgets s bs ∧ t.gov.stopped = [] ∧
      t.gov.periods = s.gov.periods + 1 ∧ (∀ q ∈ t.queues, q.awake = true) ∧ t.mem = s.mem) ∧
  (∀ (s : State) (die : Nat), die < s.pkg.dies.length → die ∉ s.gov.stopped →
    exec (.dieEnergyExhausted die) s = .next { s with
      gov := { s.gov with stopped := die :: s.gov.stopped }
      groups := s.groups.map fun g => if dieOf s g.core = die ∧ g.park = .none ∧ g.dim = false
        then { g with dim := true, pipe := none } else g }) ∧
  (∀ s : State, s.pkg.up = true → s.gov.overLimit = false →
    ∃ t, exec .powerLimitExceeded s = .next t ∧ t.gov.overLimit = true ∧
      t.gov.energy = (s.gov.energy.map fun e => (e.1, e.2 / 2)).filter (fun e => e.2 ≠ 0) ∧
      t.fw.log = s.fw.log ++ [{ stamp := s.pkg.time, source := srcFirmware, cause := causePower }]) ∧
  (∀ (s : State) (asid : BitVec 12) (root : Nat), ∃ t, exec (.rootPointerInstall asid root) s = .next t ∧
    t.xl.roots.find asid.toNat = some (root % 2 ^ 52 / 4096 * 4096) ∧ t.xl.afflags.get 0 asid.toNat = 0 ∧
    ∀ a, a ≠ asid.toNat → t.xl.roots.find a = s.xl.roots.find a) ∧
  (∀ (s : State) (region : Nat), (65536 * region).testBit 51 = true → region ∉ s.pkg.bias → region ∈ s.mem.asked →
    exec (.deviceBiasSet region) s = .next { s with pkg := { s.pkg with bias := region :: s.pkg.bias } }) ∧
  (∀ (s : State) (port : Nat), port ≠ 0 → port ∈ livePorts s →
    ∃ t, exec (.cxlPortFailure port) s = .next t ∧ t.pkg.portsDown = port :: s.pkg.portsDown ∧ t.pkg.ports = s.pkg.ports ∧
      (∀ j ∈ s.jobs, onPort s port j.page = true → ∀ k < 64, 64 * j.page + k ∈ t.mem.poison) ∧
      t.reqs = s.reqs.map fun r => { r with lost := r.lost || atPort s port r })

/-- GROUP_BIND binds the oldest ready group without a pipe to the lowest free pipe of its partition (R50); the next instruction
of a run is enqueued when the lane queue has room, though its die's energy is used up, and SPC passes the SC.LRUN with the last
(R30, R38); a block of code that has come
into the quad's instruction cache lets its stream go on (R60); a group blocked for 65536 ticks sends a probe along its target, and a probe that is back at a
sender still blocked as it was makes it take WAITCYCLE, while at any other group it is passed on (R58, R59). Where the chain of
a probe begins is the model's reading (log 32), and so is what a probe does at a group whose crew is saved (log 55). -/
def Obligations.IssueEvents : Prop :=
  (∀ (s : State) (core part p : Nat) (ps : List Nat) (g : Group), g ∈ s.groups → (s.groups.map (·.gid)).Nodup →
    wantsPipe s core part g = true →
    (∀ x ∈ s.groups, wantsPipe s core part x = true → x ≠ g → olderGroup x g = false) → freePipes s core part = p :: ps →
    ∃ t, exec (.groupBind core part) s = .next t ∧ findGroup t.groups g.gid = some { g with pipe := some p } ∧
      t.mem = s.mem) ∧
  (∀ (s : State) (g : Group) (q : QEntry) (r : List QEntry), findGroup s.groups g.gid = some g → g.run = q :: r →
    queueFree g = true → mayRun s g = true →
    exec (.laneQueueEnqueue g.gid) s = .next (setG s (if r = []
      then { enqueueOne g q with run := r, spc := (enqueueOne g q).spc + 4, offS := none, target := .none, carried := [] }
      else { enqueueOne g q with run := r }))) ∧
  (∀ (s : State) (g : Group), findGroup s.groups g.gid = some g →
    (codeAwaited s g.gid false = false → sendable s g.missS.toList = true →
      exec (.icacheFillReturn g.gid false) s = .next (setG (match g.missS with
        | some l => codeFill s g.core l true
        | none => s) { g with frozenS := false, missS := none })) ∧
    (codeAwaited s g.gid true = false → sendable s g.missL.toList = true →
      exec (.icacheFillReturn g.gid true) s = .next (setG (match g.missL with
        | some l => codeFill s g.core l true
        | none => s) { g with frozenL := false, missL := none }))) ∧
  (∀ (s : State) (g : Group), findGroup s.groups g.gid = some g → blocked g = true →
    g.probedAt.toNat + 65536 ≤ s.pkg.time.toNat →
    exec (.waitCycleProbe g.gid) s = .next (sendProbe (setG s { g with probedAt := s.pkg.time }) g
      { id := 0, sender := g.gid, stamp := g.waitFrom, sent := s.pkg.time, dest := 0, chain := [g.gid] })) ∧
  (∀ (s : State) (p : Probe) (g : Group), (s.probes.find? fun x => x.id == p.id) = some p →
    findGroup s.groups p.dest = some g →
    let s1 := { s with probes := s.probes.filter fun x => x.id ≠ p.id }
    (g.gid = p.sender → blocked g = true → g.waitFrom = p.stamp →
      exec (.probeForward p.id) s = .next (waitCycle s1 g p)) ∧
    (g.gid ≠ p.sender → exec (.probeForward p.id) s = .next (passProbe s1 g p)))

/-- CREW_PLACE places the next crew of a grid, when it is its turn, on the core that the order of R295 gives; its groups start
with the registers of R48; no crew before it, saved or not placed, has room (R295). A buffered launch goes to its die's scheduler, once that can read its descriptor (R23, R193); a handler group of 32 threads, or 1000 ticks
old, is launched once its descriptor can be read (R23, R277); the Sower writes the next item, or that none is left, to the mailbox of the oldest fetch of its die
(R196, R197); a crew whose groups have ended and whose work is settled leaves its core, once what its stash holds dirty and its core's buffered
stores have gone home, and the last one ends its grid (R121, R123, R194, R400). The order in which group numbers are given is the model's choice (log 33); so are the die of the completion add (log 53) and what
becomes of a barrier that is armed again (log 58). -/
def Obligations.LaunchEvents : Prop :=
  (∀ (s : State) (r : Grid) (c : Nat) (p : Placement), findGrid s r.id = some r → nextCrew r = some c → s.pkg.up = true →
    queueTurn s r.queue = true → gridTurn s r = true → crewTurn s r c = true → coreFor s r c = some p.core → p.slots.length = r.cg →
    slotsFit s p.core r.k.near p.slots = true → allocFits s p.core p.alloc r.k.scratch = true →
    mapsOk s (crewMaps r c p) p = true → exec (.crewPlace r.id p) s = .next (placeCrew s r c p)) ∧
  (∀ (s : State) (r : Grid) (c gid i : Nat) (p : Placement), r.kind ≠ .handler →
    let g := newGroup s r c p gid i
    g.spc = r.k.sentry ∧ g.lpc = r.k.lentry ∧ scal g 1 = r.args ∧ scal g 2 = dw i ∧ scal g 3 = dw p.alloc ∧
    scal g 61 = 0xFFFFFFFF ∧ scal g 63 = g.stkbase ∧ g.fmtword = 0x477 ∧ g.trapvec = r.k.trapv ∧ g.fflags = 0 ∧
    g.handler = false ∧ g.queue = [] ∧ ∀ n, n ∉ [1, 2, 3, 61, 63] → scal g n = 0) ∧
  (∀ (s : State) (l : Launch), (s.launches.find? fun x => x.gid == l.gid) = some l →
    kernelOpen s l.asid (lnKdesc l.record) = true →
    exec (.pendingLaunchDrain l.gid) s = .next (submit { s with launches := s.launches.erase l }
      { asid := l.asid, queue := l.queue, die := l.die, rec' := l.record, items := none }).1) ∧
  (∀ (s : State) (c : Compact) (r : Grid) (k : Kernel),
    (s.compacts.find? fun x => x.die == c.die && x.grid == c.grid) = some c → findGrid s c.grid = some r →
    (32 ≤ c.thrs.length ∨ c.since.toNat + 1000 ≤ s.pkg.time.toNat) → kernelOpen s r.asid r.k.trapk = true →
    let s1 := kernelRead { s with compacts := s.compacts.erase c } r.asid r.k.trapk c.die
    ((readKernel s1 r.asid r.k.trapk = none ∨ (readKernel s1 r.asid r.k.trapk = some k ∧ emptyHolds 1 k = 0)) →
      exec (.handlerGroupLaunch c.die c.grid) s = .next (abortGrid s1 c.grid (causeTrap (unitCode c)) c.die)) ∧
    (readKernel s1 r.asid r.k.trapk = some k → emptyHolds 1 k ≠ 0 →
      exec (.handlerGroupLaunch c.die c.grid) s =
        .next { s1 with nextId := s.nextId + 1, grids := s1.grids ++ [handlerGrid s1 r k c.thrs] })) ∧
  (∀ (s : State) (die off at' : Nat) (g : Group) (r : Grid), firstFetch s die = some g → g.fetch = some (off, at') →
    gridOf s g = some r →
    let s1 := setG s { g with fetch := none }
    (∀ item r', takeItem s1 r die = some (item, r') →
      exec (.sowerDeliver die) s = .next (spadWrite (setGrid s1 r') g.core off (itemBytes r item))) ∧
    (takeItem s1 r die = none →
      exec (.sowerDeliver die) s = .next (spadWrite s1 g.core off (leBytes 12 0 ++ leBytes 4 2)))) ∧
  (∀ (s s2 s0 : State) (c : Crew) (r : Grid), findCrew s c.grid c.num = some c → findGrid s c.grid = some r →
    c.status = .exiting → crewSettled s c = true →
    flushPaid s (.stash c.grid c.num) (c.gids.headD noGid) c.core none = (s2, true) →
    crewQuiet s2 c = true → drainStash s2 c (.stash c.grid c.num) (fun _ => true) = (s0, true) →
    let s1 := removeCrew (settleCrew s0 c) c
    let r1 := { r with exited := r.exited + 1, runSum := r.runSum + c.ran + (s1.pkg.time.toNat - c.startAt) }
    (r.exited + 1 < r.crews → exec (.crewExitComplete c.grid c.num) s = .next (setGrid s1 r1)) ∧
    (r.crews ≤ r.exited + 1 → gridFrags s c.grid = false →
      exec (.crewExitComplete c.grid c.num) s = .next (gridExits s1 r1 (dieOf s1 c.core))))

/-! ## Events: memory, copies and residency -/

/-- The access counters are halved once in 250 periods of the governor (R128); a stack-cache row outside the window is written
back and is then no longer held, and one inside it that is not held is fetched, as demand traffic (R119); the Winnower writes back a dirty LLC line, at its slice and at what lies behind it, or a dirty frame,
of the least recently used quarter, within the cleaning budget (R27, R28, R127), a line being as recent as its sector and any line
of the quarter being taken, which is the model's choice (log 29); a snoop recalls its line to the pool or the host (R303, R305), and that its write-backs are charged as demand traffic is the model's
reading (log 48); a sharer message reaches the
cores of its quad that it concerns, and then one core after another (R168). -/
def Obligations.BackgroundEvents : Prop :=
  (∀ s : State, s.gov.halved < s.gov.periods / 250 →
    let half := fun (c : Cells Nat) => (c.map fun e => (e.1, e.2 / 2)).filter fun e => e.2 ≠ 0
    exec .accessCounterHalve s = .next { s with
      gov := { s.gov with halved := s.gov.halved + 1 }
      mem := settlePosted { s.mem with own := half s.mem.own, far := half s.mem.far } }) ∧
  (∀ (s s1 : State) (g : Group) (row : Nat), findGroup s.groups g.gid = some g → inStack g (256 * row) = true →
    let lines := ((g.stack.filter fun e => e.1 / 256 == row).map fun e => firmPa s g.asid e.1 / 64).eraseDups
    (inWindow g row = false →
      (lines = [] → exec (.stackCacheFillSpill g.gid row) s = .next (mapGroup s g.gid fun x => dropRow x row)) ∧
      (lines ≠ [] → reachCore s g.core (.spill g.gid) clsDemand lines = (s1, true) →
        exec (.stackCacheFillSpill g.gid row) s =
          .next (mapGroup (spillStack s1 g fun va => va / 256 == row) g.gid fun x => dropRow x row))) ∧
    (inWindow g row = true →
      (row ∈ g.rows → exec (.stackCacheFillSpill g.gid row) s = .next s) ∧
      (row ∉ g.rows →
        reachCore s g.core (.spill g.gid) clsDemand (tab 4 fun k => firmPa s g.asid (256 * row + 64 * k) / 64) = (s1, true) →
        exec (.stackCacheFillSpill g.gid row) s = .next { s1 with
          groups := s1.groups.map fun x => if x.gid = g.gid then { x with rows := row :: x.rows } else x }))) ∧
  (∀ (s s1 : State) (line : Nat), (∃ e ∈ s.mem.llc, e.1 / 64 = line) → oldSector s line = true →
    let rs := reqResources s line ++ behindSlice s (line / 64) 1
    aheadOf s (.clean false line) clsCleaning rs = false → chargeAll s clsCleaning 64 rs = some s1 →
    exec (.winnowerClean false line) s = .next (cleanLlcLine (leaveWait s1 (.clean false line)) line) ∧
    ∀ e ∈ (cleanLlcLine (leaveWait s1 (.clean false line)) line).mem.llc, e.1 / 64 ≠ line) ∧
  (∀ (s s1 : State) (f : Frame), (s.mem.frames.find? fun x => x.num == f.num && !x.gone) = some f →
    frameDirty s f = true → oldQuarter s f = true →
    aheadOf s (.clean true f.num) clsCleaning (pageResources s f.page f.num 1) = false →
    chargeAll s clsCleaning 4096 (pageResources s f.page f.num 1) = some s1 →
    exec (.winnowerClean true f.num) s = .next (flushFrame (leaveWait s1 (.clean true f.num)) f.page)) ∧
  (∀ (s : State) (line : Nat),
    (hostLine line = true → exec (.hostSnoop line) s = .next (snooped s line)) ∧
    (hostLine line = false → 1 < (livePorts s).length → exec (.backInvalidateSnoop line) s = .next (snooped s line)) ∧
    (∀ e ∈ (snooped s line).mem.llc, e.1 / 64 ≠ line) ∧ (∀ e ∈ (snooped s line).mem.loc, e.1 / 64 ≠ line)) ∧
  (∀ (s : State) (m : Msg), (s.coh.msgs.find? fun x => x.id == m.id) = some m →
    (∀ o, m.cores = none → msgBehind s m none = false → findObj s m.asid m.obj = some o →
      exec (.precisionMessageQuad m.id) s = .next (setMsg s m (msgCores s m o))) ∧
    (∀ l core, m.cores = some l → core ∈ l → msgBehind s m (some core) = false →
      exec (.precisionMessageCore m.id core) s = .next (setMsg (applyMsg s m core) m (l.filter (· ≠ core)))))

/-- A copy or fill that may work goes on by one unit, or by all of its rows; a signal writes its 8 bytes as a release once every
lower-numbered command has retired; a command whose accesses are performed retires, with the steps on its barrier object that their end makes (R153, R155,
R169, R191). A unit of a command that has
written nothing yet reads its source, by aligned units of 8 bytes, and writes its destination in the copy class's budget, and the
record goes on past it; it keeps the old bytes of what it writes, for a source that overlaps (R134, R191). That a step ends at the
end of 64 bytes of the destination is the model's own choice (log 22). -/
def Obligations.CopyEngineEvents : Prop :=
  (∀ (s : State) (c : Copy), findCopy s c.id = some c →
    (copyRuns c = true → cpKind c.cmd ≠ 3 →
      exec (.copyTransferStep c.id) s = .next (copyUnit s c)) ∧
    (cpKind c.cmd = 1 → exec (.copyCmdCopy c.id) s = .next (copySegments s c.id (cpTotal c.cmd))) ∧
    (cpKind c.cmd = 2 → exec (.copyCmdFill c.id) s = .next (copySegments s c.id (cpTotal c.cmd))) ∧
    (c.stage = .finished → c.owed = 0 → (∀ m ∈ s.coh.msgs, m.gid ≠ copyAgent c) → exec (.copyRetire c.id) s = .next (discardCopy s c))) ∧
  (∀ (s s1 : State) (c : Copy) (pa pte : Nat), findCopy s c.id = some c → cpKind c.cmd = 3 → copyRuns c = true →
    lowerRetired s c = true → cpMay s c = true → look s c.asid (cpDst c.cmd) needStore = .ok pa pte →
    reach s (.copy c.id) clsCopy [pa / 64] = (s1, true) →
    exec (.copyCmdSignal c.id) s = .next (setCopy
      (writeBy s1 (worker (copyAgent c) c.grid) pa (leBytes 8 (cpSrc c.cmd))) { c with stage := .finished })) ∧
  (∀ (s s1 : State) (c : Copy) (dp dt : Nat), cpKind c.cmd = 1 → cpSsp c.cmd = false → cpDsp c.cmd = false →
    cpBen c.cmd = false → c.stage = .running → cpMay s c = true → c.held = [] → c.ahead = [] →
    let n := cpLen c
    let parts := pageParts (cpReads c n).1 (cpReads c n).2
    let srcs := cpFound s c parts
    let bs := srcs.flatMap fun p => tab p.2 fun k => cohByte s1 (p.1 + k)
    (∀ p ∈ parts, ∃ pa pte, look s c.asid p.1 needLoad = .ok pa pte) → look s c.asid (cpDstAt c) needStore = .ok dp dt →
    reach (setCopy s c) (.copy c.id) clsCopy (cpLines c srcs dp n) = (s1, true) → (∀ p ∈ srcs, poisoned s1 p.1 p.2 = false) →
    copyUnit s c = setCopy
      (carryPoison (writeBy s1 (worker (copyAgent c) c.grid) dp (bs.take n)) none dp (bs.take n).length)
      { cpAdvance c n with held := cpHold s1 c n dp, ahead := bs.drop n, tainted := false, vpages := addRows c.vpages (cpPages c parts) })

/-- The Gleaners: hints and residency faults join a page's job or open a batch; a batch that is due takes a frame for each of
its pages; a victim is written back and a page fetched within the budget; and a page that has come lets its waiters go on
(R195, R265 to R267). -/
def Obligations.GleanerEvents : Prop :=
  (∀ (s : State) (h : Hint), (s.hints.find? fun x => x.id == h.id) = some h →
    let r := h.pages.foldl (hintPage h.asid) (s, [])
    exec (.gleanerHint h.id) s = .next { r.1 with
      hints := (r.1.hints.map fun x => if x.id = h.id then { x with pages := r.2 } else x).filter fun x => x.pages ≠ [] }) ∧
  (∀ (s : State) (w : PageWait), (s.waits.find? fun x => x.id == w.id && !x.sent) = some w →
    (resident s w.page = true →
      exec (.residencyFault w.id) s =
        .next (releaseWaiter { s with waits := s.waits.filter fun x => x.id ≠ w.id } w.waiter)) ∧
    (resident s w.page = false → takesPage s w.page = true →
      ∃ t, exec (.residencyFault w.id) s = .next t ∧ (jobOf t w.page).isSome = true ∧
        (jobOf s w.page = none → ∃ op, batchOf t (w.page % 4) = some op))) ∧
  (∀ (s s1 : State) (gl : Nat) (fr : List (Nat × Nat)), batchDue s gl = true →
    chooseFrames fr s (batchPages s gl) = some s1 →
    exec (.gleanerBatchClose gl fr) s = .next { s1 with batches := s1.batches.filter fun b => b.1 ≠ gl }) ∧
  (∀ (s : State) (j : PageJob), jobOf s j.page = some j →
    (∀ n, j.stage = .frame → frameBest s n = true →
      exec (.gleanerFrameEligible j.gleaner j.page n) s = .next (giveFrame s j n)) ∧
    (∀ v s1, j.victim = some v → j.stage = .evict → pageBusy s v = false →
      let rs := evictResources s v j.frame
      (if rs = [] then (s, true) else claim s (.evict j.page) clsMigration 64 rs) = (s1, true) →
      exec (.gleanerEvict j.gleaner j.page) s = .next (setJob (evictPage s1 v) { j with stage := .fetch, victim := none })) ∧
    (∀ s1, j.stage = .fetch → fetchNext s j = true →
      claim s (.page j.page) (if j.pref then clsPrefetch else clsMigration) 4096 (pageResources s j.page j.frame 0) =
        (s1, true) →
      exec (.gleanerFetch j.gleaner j.page) s = .next (setJob s1 { j with stage := .coming })) ∧
    (j.stage = .coming →
      let f : Frame := { num := j.frame, page := j.page, dirty := false, used := s.pkg.time.toNat, gone := false }
      exec (.pageResident j.gleaner j.page) s = .next (releasePage { s with
        mem := { s.mem with frames := f :: s.mem.frames }, jobs := s.jobs.filter fun x => x.page ≠ j.page } j.page)))

/-! ## Events: the matrix engine and pre-emption -/

/-- A tile task is issued when its turn has come: one that fails a check, SCALECHAIN with them, ends with its status, and one that
passes takes its effect, TLOAD and TSTORE row by row, the others at once; a paired task waits until its other half's crew holds the
odd core's engine, takes its effect on both engines, consumes poison at the engine that has it, and commits the rows of both halves
together; an issued task goes on though its die's energy is used up; an ended task retires once its status word is written; a write of
cr.tmask that waits takes effect once neither engine of the pair is busy (R24, R30, R206 to R214, R217 to R219). What a dropped status word
does, and that a task that touches no memory is one turn, are the model's readings (log 24, log 50). -/
def Obligations.TileTasks : Prop :=
  (∀ (i : Instr) (kind core : Nat) (op : Matrix → Task → Matrix × Flags) (s : State) (t : Task),
    (i, kind, op) ∈ [(Instr.tmma core t.key, 3, tmmaOn), (.thad core t.key, 4, thadOn), (.tzero core t.key, 5, tzeroOn),
      (.tcvt core t.key, 6, tcvtOn), (.tjoin core t.key, 7, fun m _ => (m, 0))] →
    findTask (engineOf s core) t.key = some t → s.pkg.up = true → tkKind t.desc = kind → t.pair = false →
    let runs := fun (s1 : State) (t1 : Task) => let m := engineOf s1 core
      t1.fail = false → accReady m t1 = true → usesBad m t1 = false →
      exec i s = .next (endTask (setEngine s1 core (op m t1).1) core t1 0 (op m t1).2)
    (t.stage = .accepted → engineMay s core = true → engineSaving s core t = false → mayIssue (engineOf s core) t = true →
      (issueStatus t ≠ 0 → exec i s = .next (endTask s core t (issueStatus t) 0)) ∧
      (issueStatus t = 0 → kind = 3 → chainOk (engineOf s core).window (engineOf s core) t = false →
        exec i s = .next (endTask s core t 2 0)) ∧
      (issueStatus t = 0 → (kind = 3 → chainOk (engineOf s core).window (engineOf s core) t = true) →
        runs (setTask s core { t with stage := .issued }) { t with stage := .issued })) ∧
    (t.stage = .issued → (t.fail = true → exec i s = .next (endTask s core t 4 0)) ∧ runs s t) ∧
    (∀ m' : Matrix, kind = 7 → (op m' t).1 = m')) ∧
  (∀ (i : Instr) (kind core : Nat) (op : Matrix → Task → Matrix × Flags) (s : State) (t : Task),
    (i, kind, op) ∈ [(Instr.tmma core t.key, 3, tmmaOn), (.thad core t.key, 4, thadOn), (.tzero core t.key, 5, tzeroOn),
      (.tcvt core t.key, 6, tcvtOn), (.tjoin core t.key, 7, fun m _ => (m, 0))] →
    findTask (engineOf s core) t.key = some t → s.pkg.up = true → tkKind t.desc = kind → t.pair = true →
    (t.stage = .accepted → engineMay s core = true → engineSaving s core t = false → mayIssue (engineOf s core) t = true →
      (issueStatus t ≠ 0 → exec i s = .next (endTask s core t (issueStatus t) 0)) ∧
      (issueStatus t = 0 → kind = 3 →
        (chainOk (engineOf s core).window (engineOf s core) t = false ∨
          chainOk (engineOf s core).window (engineOf s (core + 1)) t = false) →
        exec i s = .next (endTask s core t 2 0))) ∧
    (t.stage = .issued → t.fail = true → exec i s = .next (endTask s core t 4 0)) ∧
    (t.stage = .issued → t.fail = false → (engineOf s (core + 1)).holder ≠ some (t.grid, t.mate) → exec i s = .next s) ∧
    (t.stage = .issued → t.fail = false → accReady (engineOf s core) t = true →
      (engineOf s (core + 1)).holder = some (t.grid, t.mate) →
      (∀ h, h < 2 → usesBad (engineOf s (core + h)) t = true → (h = 1 → usesBad (engineOf s core) t = false) →
        exec i s = .next (consumeTask s core h t 2 0 0)) ∧
      (usesBad (engineOf s core) t = false → usesBad (engineOf s (core + 1)) t = false →
        let even := op (engineOf s core) t
        let s1 := setEngine s core even.1
        let odd := op (engineOf s1 (core + 1)) t
        exec i s = .next (endTask (setEngine s1 (core + 1) odd.1) core t 0 (even.2 ||| odd.2))))) ∧
  (∀ (s : State) (core : Nat) (t : Task) (i : Instr) (load : Bool),
    (i, load) ∈ [(Instr.tload core t.key, true), (.tstore core t.key, false)] →
    findTask (engineOf s core) t.key = some t → s.pkg.up = true → tkKind t.desc = (if load then 1 else 2) →
    (t.stage = .accepted → engineMay s core = true → engineSaving s core t = false → mayIssue (engineOf s core) t = true →
      (issueStatus t ≠ 0 → exec i s = .next (endTask s core t (issueStatus t) 0)) ∧
      (issueStatus t = 0 → t.fail = false →
        let t1 := { t with stage := .issued }
        let s1 := setTask s core t1
        accReady (engineOf s1 core) t1 = true → pairReady s1 core t1 = true → exec i s = .next (runMem s1 core t1 load))) ∧
    (t.stage = .issued → t.fail = true → exec i s = .next (endTask s core t 4 0)) ∧
    (t.stage = .issued → t.fail = false → pairReady s core t = false → exec i s = .next s) ∧
    (t.stage = .issued → t.fail = false → accReady (engineOf s core) t = true → pairReady s core t = true →
      exec i s = .next (runMem s core t load) ∧
      (t.pair = true → t.holds = [] → memRows t ≤ t.prog → memRows t ≤ t.prog1 → (load = false → badCore s core t = none) →
        exec i s = .next (if load then commitLoad s core t else commitStore s core t)))) ∧
  (∀ (s : State) (core : Nat) (t : Task), findTask (engineOf s core) t.key = some t → t.stage = .ended → 2 ∉ t.holds →
    (∀ m ∈ s.coh.msgs, m.gid ≠ taskAgent t) →
    (tkStat t.desc = 0 ∨ t.skip = true → exec (.matrixTaskRetire core t.key) s = .next (retireTask s core t)) ∧
    (∀ ps s1, tkStat t.desc ≠ 0 → t.skip = false → rowProbe s core t 2 (tkStat t.desc) 8 needStore = .ok ps →
      rowCharge s core 2 t ps = (s1, true) →
      let s2 := rowWrite s1 core t ps (leBytes 8 (tkTid t.desc * 2 ^ 16 + t.flags.toNat * 2 ^ 8 + t.status))
      (∀ m ∈ s2.coh.msgs, m.gid ≠ taskAgent t) →
      exec (.matrixTaskRetire core t.key) s = .next (retireTask s2 core t))) ∧
  (∀ (s : State) (g : Group) (v : BitVec 64), findGroup s.groups g.gid = some g → g.pairWait = some v →
    pairBusy s g.core = false →
    exec (.tmaskPairWriteResume g.gid) s = .next (setG (setEngine s g.core { engineOf s g.core with tmask := v })
      { g with pairWait := none, spc := g.spc + 4, offS := none, target := .none, carried := [] }))

/-- A slice that has run out, which a packet under way holds back, or that a higher effective priority needs, pre-empts the
queue's running crews, each as R279 decides by the driver's thresholds, once what the stashes of those that are flushed hold dirty has
gone home, and the turn of its level passes to the queue after it; a crew that drains too long is saved; a crew to be saved
takes a trap that it is due to take, and leaves its core once its results and copies allow it and what it holds dirty has gone home, and returns when it
is its queue's, its grid's and its own turn and what its core holds of the objects it subscribes to again has gone home; a waiting queue ages; a die's scheduler is adopted; firmware fails over; a soft error
poisons what it hits (R269, R279 to R284, R292, R295, R296, R298, R300). That a spent slice acts with no rival, and what a flush writes back, are the model's readings
(log 34), and that a packet whose write is under way holds a slice back (log 37); so are the numbers of an engine's storage, from 2^20 for rays and from 2^21 for samplers (log 23), the cause of an error in shared state (log 67), and the heartbeat that a
failover records (log 38). -/
def Obligations.PreemptionEvents : Prop :=
  (∀ (s s1 : State) (q : HostQueue), findQueue s q.num = some q → runningCrews s q.num ≠ [] →
    (((q.spent = true ∨ q.sliceAt.toNat + (if q.slice = 0 then 100000 else 10000 * q.slice) ≤ s.pkg.time.toNat) ∧
      inPacket q = false) ∨ outranked s q = true) →
    let ds := (runningCrews s q.num).map fun c => (decision s ((findGrid s c.grid).getD default) c, c)
    flushedHome s ds = (s1, true) →
    let s2 := ds.foldl (fun s d => preempt s d.1 d.2) s1
    let rr := if sliceSpent s2 q = true ∧ inPacket q = false then s2.rr.set 0 q.eff q.num else s2.rr
    exec (.timeSliceExpiry q.num) s = .next (setQueue { s2 with rr := rr } { q with spent := true })) ∧
  (∀ (s : State) (r : Grid) (c : Crew),
    (r.exited ≠ 0 → r.runSum < r.exited * (elapsed s c + s.policy.drain) → decide' s r c = .drain) ∧
    ((r.exited = 0 ∨ r.exited * (elapsed s c + s.policy.drain) ≤ r.runSum) →
      decide' s r c = if r.k.idem = true ∧ elapsed s c < s.policy.restart then .flush else .save)) ∧
  (∀ (s : State) (c : Crew) (at' : Nat), findCrew s c.grid c.num = some c → c.status = .draining at' →
    at' + 2 * s.policy.drain ≤ s.pkg.time.toNat →
    exec (.drainTimeout c.grid c.num) s = .next (startSave s c)) ∧
  (∀ (s : State) (c : Crew) (g : Group) (a : Nat × Dword × Nat), findCrew s c.grid c.num = some c → c.status = .saving →
    trapDue s c = some (g, a) →
    exec (.crewSave c.grid c.num) s = .next (trapG s { g with answer := none } g.parkLane a.1 a.2.1.toNat a.2.2)) ∧
  (∀ (s s1 s2 : State) (c : Crew), findCrew s c.grid c.num = some c → c.status = .saving → trapDue s c = none →
    (∀ g ∈ crewGroups s c.grid c.num, groupSaves s g = true) → engineSaves s c = true → copiesHalt s c = true →
    crewHome s c = (s1, true) → crewSpill s1 c = (s2, true) →
    let c2 := (findCrew s2 c.grid c.num).getD c
    let s3 := followCore s2 c.core c.gids
    exec (.crewSave c.grid c.num) s = .next (saveCrew s3 c2) ∧
    (∀ g ∈ (saveCrew s3 c2).groups, ¬ (g.grid = c.grid ∧ g.crew = c.num))) ∧
  (∀ (s s1 : State) (v : Saved) (r : Grid) (p : Placement),
    (s.saved.find? fun x => x.crew.grid == v.crew.grid && x.crew.num == v.crew.num) = some v →
    findGrid s v.crew.grid = some r → s.pkg.up = true → queueTurn s r.queue = true → gridTurn s r = true →
    crewTurn s r v.crew.num = true → coreForSaved s v = some p.core → p.alloc = v.crew.alloc → p.slots.length = r.cg →
    slotsFit s p.core r.k.near ((v.groups.filter fun g => !g.ended).map fun g => p.slots.getD g.idx (0, 0)) = true →
    homeHeld s p.core (resubLines s v p.core) = (s1, true) →
    exec (.crewRestore v.crew.grid v.crew.num p) s = .next (placedQueue s1 (restoreCrew s1 v p) r.queue)) ∧
  (∀ (s : State) (q : HostQueue), findQueue s q.num = some q → queueStarved s q.num = true → q.eff < 3 →
    q.waitSince.toNat + 1000000 ≤ s.pkg.time.toNat →
    exec (.priorityAging q.num) s =
      .next (setQueue s { q with eff := q.eff + 1, waitSince := q.waitSince + dw 1000000 })) ∧
  (∀ (s : State) (die : Nat), let heir := schedDie s ((die + 1) % dieCount s)
    die < dieCount s → heir ≠ die → (∀ a ∈ s.fw.adopted, a.1 ≠ die) →
    ∃ t, exec (.schedulerFailover die) s = .next t ∧ (die, heir) ∈ t.fw.adopted ∧
      ∀ a ∈ s.fw.adopted, a.2 ≠ die → a ∈ t.fw.adopted) ∧
  (∀ s : State, s.fw.beat.toNat + 100000 ≤ s.pkg.time.toNat → (∀ q ∈ s.queues, inPacket q = false) →
    ∃ t, exec .firmwareFailover s = .next t ∧ t.fw.active = 1 - s.fw.active ∧ t.fw.beat = s.pkg.time) ∧
  (∀ s : State,
    (∀ l, ∃ t, exec (.softError (.line l)) s = .next t ∧ l ∈ t.mem.poison ∧ t.mem.pool = s.mem.pool) ∧
    (∀ core w, ∃ t, exec (.softError (.spad core w)) s = .next t ∧ (core, w) ∈ t.poisonSpad ∧ t.spad = s.spad) ∧
    (∀ gid row, ∃ t, exec (.softError (.row gid row)) s = .next t ∧ (gid, row) ∈ t.poisonRows ∧
      t.groups.map (fun g => { g with infl := [] }) = s.groups.map fun g => { g with infl := [] }) ∧
    (∀ core n, n < 2 ^ 20 → ∃ t, exec (.softError (.engine core n)) s = .next t ∧ n ∈ (engineOf t core).bad) ∧
    (∀ core n r, n < 2 ^ 20 → (slotRays s core)[n]? = some r →
      exec (.softError (.engine core (2 ^ 20 + n))) s = .next (setRay s { r with bad := true })) ∧
    (∀ core part slot, slot < 32 → ∃ t, exec (.softError (.engine core (2 ^ 21 + 32 * part + slot))) s = .next t ∧
      ∀ g ∈ t.groups, g.core = core → g.part = part → g.slot = slot → g.ended = false → ∀ m, g.samp = some m → m.bad = true) ∧
    (∀ core g r, (s.groups.filter fun g => g.core == core && !g.ended) = g :: r → exec (.softError (.shared core)) s =
      .next (consumeAll s (g :: r) (srcCore core) 0 0 0 g.asid (dieOf s core))) ∧
    (∀ asid, exec (.softError (.orphan (some asid))) s = .next (teardown s asid)))

/-! ## Events: the driver's registers, commands and packets -/

/-- A doorbell wakes a queue's fetcher; FQHEAD lets held entries be appended; GO runs the command whose code stands in the
command area, once what it reads can be reached (R23): a command with a bit that its table does not assign completes with status 0xFF, and QCREATE, QDESTROY, FAULTANS,
UPDATE, ATTEST and PODJOIN complete with their results; a SHOOTDOWN completes once no access from before it is left; an updated
complex becomes active between packets, unless it cannot import a save made meanwhile (R116, R126, R263, R299, R302, R306). The address space of the driver's operands, and
what a misaligned or unlisted value does, are the model's readings (log 8, log 36); whether a pod position is held is a free value
(log 10), and so is what a digest, a signature or an image's contents say (log 11); an image that ends in LAYOUT leaves the floor, as the
model reads it (log 38). -/
def Obligations.DriverEvents : Prop :=
  (∀ (s : State) (q : HostQueue), findQueue s q.num = some q →
    exec (.doorbell q.num) s = .next (setQueue s { q with awake := true })) ∧
  (∀ (s : State) (v : Dword),
    exec (.fqheadWrite v) s = .next (flushFaults { s with regs := { s.regs with fqhead := v.setWidth 32 } }) ∧
    exec (.registerWrite 0x0118 v) s = exec (.fqheadWrite v) s ∧
    exec (.registerWrite 0x0100 v) s = .next { s with regs := { s.regs with fqbase := v &&& ~~~0xFFF#64 } } ∧
    exec (.registerWrite 0x0108 v) s = .next { s with regs := { s.regs with fqsize := v } } ∧
    (s.pkg.podPos = none →
      exec (.registerWrite 0x0208 v) s = .next { s with regs := { s.regs with podhlen := v &&& ~~~0xFFF#64 } }) ∧
    (s.pkg.podPos.isSome = true → exec (.registerWrite 0x0208 v) s = .next s) ∧
    (∀ i < 8, ∃ t, exec (.registerWrite (0x1000 + 8 * i) v) s = .next t ∧ cmdArg t i = v.toNat ∧
      ∀ k < 8, k ≠ i → cmdArg t k = cmdArg s k)) ∧
  (∀ s : State, s.regs.cdone = true →
    (∀ (i : Instr) (code : Nat), (i, code) ∈ [(Instr.qcreate, 1), (.qdestroy, 2), (.shootdown, 3), (.faultans, 4),
        (.update, 5), (.attest, 6), (.podjoin, 7)] → cmdCode s = code →
      (cmdOk s = false → exec i s = .next { s with regs := { s.regs with cdone := true, cstatus := 0xFF, cresult := 0 } }) ∧
      exec i s = exec (.registerWrite 0x1040 0) s) ∧
    (cmdOk s = true → cmdOpen s = false → exec (.registerWrite 0x1040 0) s =
      .next { s with regs := { s.regs with cdone := false, held := some s.regs.cmd } }) ∧
    (cmdOk s = true → cmdOpen s = true →
      (∀ q, cmdCode s = 1 → cmdArg s 1 % 64 = 0 →
        let s1 := noteReads s [poolAt (cmdArg s 1) / 64]
        queueOf s1 (nextQueue s1) (cohNat s1 (poolAt (cmdArg s 1)) 64) = some q →
        exec .qcreate s =
          .next (finish (devWrite { s1 with queues := s1.queues ++ [q] } q.stat (leBytes 8 0)) 0 (nextQueue s1))) ∧
      (∀ q, cmdCode s = 2 → findQueue s (cmdArg s 1) = some q →
        exec .qdestroy s = .next (finish (devWrite (setQueue s { q with destroyed := true }) q.stat (leBytes 8 2)) 0 0)) ∧
      (cmdCode s = 3 → cmdArg s 2 % 4096 = 0 → cmdArg s 3 % 4096 = 0 → cmdArg s 3 ≠ 0 →
        exec .shootdown s = .next (runShootdown s) ∧ (runShootdown s).regs.cdone = false) ∧
      (∀ f w, cmdCode s = 4 → (s.faults.find? fun x => x.index == some (cmdArg s 1)) = some f → f.waiter = some w →
        let s1 := { finish s 0 0 with faults := s.faults.filter fun x => x.id ≠ f.id }
        (cmdArg s 2 = 0 → exec .faultans s = .next (releaseWaiter s1 w)) ∧
        (cmdArg s 2 = 1 → exec .faultans s = .next (answerTrapTo s1 f w)) ∧
        (cmdArg s 2 = 2 → exec .faultans s = .next (answerEnd s1 f w))) ∧
      (cmdCode s = 5 → s.fw.update.isSome = true → exec .update s = .next (finish s 3 0)) ∧
      (cmdCode s = 5 → s.fw.update = none →
        let x := imageDigest s (poolAt (cmdArg s 1))
        let s1 := noteReads s (imageLines s (poolAt (cmdArg s 1)))
        exec .update s = .next (
          if Config.falconOk x.1 x.2 = false then finish s1 2 0
          else if Config.imageVersion x.1 < s.fw.floor then finish s1 4 0
          else if ∃ v ∈ s.saved, v.version ∉ Config.imageLayouts x.1 then finish s1 1 0
          else pending { s1 with fw := { s.fw with
            update := some x.1, floor := max s.fw.floor (Config.imageVersion x.1) } })) ∧
      (cmdCode s = 6 →
        let body := reportBytes s (cohNat s (poolAt (cmdArg s 1)) 32)
        let s1 := noteReads s (linesOf (poolAt (cmdArg s 1)) 32)
        exec .attest s = .next (finish (devWrite s1 (poolAt (cmdArg s 2)) (body ++ Config.attestSign body)) 0 0)) ∧
      (cmdCode s = 7 →
        exec .podjoin s = .next (if Config.podHeld (cmdArg s 1) then finish s 2 0
          else finish { s with pkg := { s.pkg with podPos := some (cmdArg s 1), podTraffic := false } } 0 0)))) ∧
  (∀ (s : State) (c : Shoot), (s.xl.shoots.find? fun x => x.id == c.id) = some c → c.left = 0 → oldAccess s c = false →
    ∃ t, exec (.shootdownComplete c.id) s = .next t ∧ t.regs.cdone = true ∧
      t.regs.cstatus = (if c.full then 1 else 0) ∧
      ∀ e ∈ t.xl.tlb, ¬ (e.asid = c.asid ∧ c.base ≤ 4096 * e.vpage ∧ 4096 * e.vpage < c.base + c.len)) ∧
  (∀ (s : State) (d : BitVec 256), s.fw.update = some d → (∀ q ∈ s.queues, inPacket q = false) →
    ∃ t, exec .liveUpdateSwitch s = .next t ∧ t.fw.update = none ∧ t.regs.cdone = true ∧
      ((∀ v ∈ s.saved, v.version ∈ Config.imageLayouts d) → t.fw.active = 1 - s.fw.active ∧ t.regs.cstatus = 0) ∧
      ((∃ v ∈ s.saved, v.version ∉ Config.imageLayouts d) → t.fw.active = s.fw.active ∧ t.regs.cstatus = 1))

/-- The fetcher of a queue reads the packet at its head, which counts at its home slice, and takes it when its phase is the queue's
and its turn has come: one that fails a check stops the queue with status 1; DISPATCH and PERSIST submit their launch, once the kernel's
descriptor can be read, COPY its command; SIGNAL writes, and completes once no message of its write is under way; WRITESIGNAL writes its data and then, once no message of
the data is under way, its signal, and completes likewise; WAITTL completes once its word holds at least n, and NOP completes; the slot
is consumed as the packet starts (R128, R153, R169, R288 to R291). The address space of each address is the model's reading (log 8,
log 37), and so is that its writes are charged as demand traffic (log 48). -/
def Obligations.QueuePackets : Prop :=
  ∀ (s : State) (q : HostQueue), findQueue s q.num = some q → s.pkg.up = true → q.stopped = false →
    q.destroyed = false → q.awake = true → q.left = 0 → sendable s (packetLines q) = true →
    let sN := noteReads s (packetLines q)
    let p := headPacket sN q
    let rest := ∀ e ∈ q.pkts, e.2 ≠ .sent ∧ ∀ a b, e.2 ≠ .signal a b
    let starts := fun (i : Instr) => i ∈ [Instr.packetDispatch q.num, .packetPersist q.num, .packetCopy q.num, .packetNop q.num] ∨
      (i ∈ [Instr.packetSignal q.num, .writesignal q.num] ∧ rest)
    (pkPhase p ≠ q.phase → ∀ i, starts i → exec i s = .next (setQueue sN { q with awake := false })) ∧
    (pkPhase p = q.phase → mayStart q p = true →
      (packetOk p = false → ∀ i, starts i →
        exec i s = .next (devWrite (setQueue sN { q with stopped := true, left := 0, onStep := none }) q.stat (leBytes 8 1))) ∧
      (packetOk p = true →
        (pkKind p = 1 → kernelOpen sN q.asid (lnKdesc (pkRecord p)) = true → exec (.packetDispatch q.num) s = .next (submit (setQueue sN (consumed q (.grid sN.nextId)))
          { asid := q.asid, queue := q.num, die := 0, rec' := pkRecord p, items := none }).1) ∧
        (pkKind p = 2 → kernelOpen sN q.asid (lnKdesc (persistRecord p)) = true → exec (.packetPersist q.num) s = .next (submit (setQueue sN (consumed q (.grid sN.nextId)))
          { asid := q.asid, queue := q.num, die := 0, rec' := persistRecord p
            items := some (pkBits p 576 32 + 1, pkBits p 608 32 + 1, pkBits p 640 32 + 1) }).1) ∧
        (pkKind p = 3 → ∃ t c, exec (.packetCopy q.num) s = .next t ∧ t.copies = sN.copies ++ [c] ∧
          c.cmd = packetCommand p ∧ c.asid = q.asid ∧ c.queue = some q.num ∧ c.quad = q.num % max 1 s.pkg.quads.length ∧
          findQueue t q.num = some (consumed q (.copy c.id))) ∧
        (pkKind p = 4 →
          let va := pkBits p 64 64
          let s1 := learnAll sN q.asid (asking needStore [(0, va)])
          misses sN q.asid (asking needStore [(0, va)]) = [] → sendable s1 (vaLines s1 q.asid va 8) = true →
          let s2 := vaWrite (setQueue s1 (consumed q .sent)) (fetcher q) q.asid va (leBytes 8 (pkBits p 128 64))
          ((∃ m ∈ s2.coh.msgs, m.gid = 2 ^ 32 + q.num) → exec (.packetSignal q.num) s = .next s2) ∧
          ((∀ m ∈ s2.coh.msgs, m.gid ≠ 2 ^ 32 + q.num) →
            exec (.packetSignal q.num) s = .next (packetDone s2 q.num .sent))) ∧
        (pkKind p = 5 → rest →
          let va := pkBits p 64 64
          let sig := pkBits p 128 64
          let v := pkBits p 192 64
          let n := pkBits p 256 8
          let els := rangeAsked needStore va n ++ asking needStore [(0, sig)]
          let s1 := learnAll sN q.asid els
          misses sN q.asid els = [] → sendable s1 (vaLines s1 q.asid va n) = true →
          let q1 := consumed q (.signal sig v)
          let s2 := vaWrite (setQueue s1 q1) (fetcher q) q.asid va (leBytes n (pkBits p 320 384))
          ((∃ m ∈ s2.coh.msgs, m.gid = 2 ^ 32 + q.num) → exec (.writesignal q.num) s = .next s2) ∧
          ((∀ m ∈ s2.coh.msgs, m.gid ≠ 2 ^ 32 + q.num) → misses s2 q.asid (asking needStore [(0, sig)]) = [] →
            let s3 := learnAll s2 q.asid (asking needStore [(0, sig)])
            sendable s3 (vaLines s3 q.asid sig 8) = true →
            exec (.writesignal q.num) s = .next (sentDone
              (vaWrite (setQueue s3 (q1.stepTo (q.fetched + 1) .sent)) (fetcher q) q.asid sig (leBytes 8 v)) q.num))) ∧
        (pkKind p = 6 →
          let va := pkBits p 64 64
          let n := pkBits p 128 64
          let s1 := setQueue sN (consumed q (.word va n))
          ∀ pa pte, look s1 q.asid va needLoad = .ok pa pte →
          let s2 := learnAll s1 q.asid (asking needLoad [(0, va)])
          sendable s2 [pa / 64] = true →
          let s3 := noteReads s2 [pa / 64]
          exec (.waittl q.num) s =
            .next (if n ≤ cohNat s3 pa 8 then packetDone s3 q.num (.word va n) else s3)) ∧
        (pkKind p = 7 → exec (.packetNop q.num) s = .next (bumpQueue (setQueue sN (consumed q .done)) q.num))))
end

