-- ==== Sys2Proof/Laws/Bits.lean ====
section
/-! SUPPORT. Elements of a register row: what a row made from elements holds (R66). -/

namespace Sys2Proof.Machine

theorem packElems_lt (w : Nat) (es : List Nat) : packElems w es < 2 ^ (w * es.length) := by
  induction es with
  | nil => simp [packElems]
  | cons e r ih =>
    simp only [packElems, List.length_cons]
    have h1 : e % 2 ^ w < 2 ^ w := Nat.mod_lt _ (by positivity)
    have h2 : 2 ^ (w * (r.length + 1)) = 2 ^ w * 2 ^ (w * r.length) := by rw [← pow_add]; ring_nf
    rw [h2]
    calc e % 2 ^ w + 2 ^ w * packElems w r < 2 ^ w * (packElems w r + 1) := by rw [Nat.mul_add]; omega
      _ ≤ _ := Nat.mul_le_mul_left _ ih

/-- Field `i` of packed elements is element `i`. -/
theorem nbits_packElems (w : Nat) (es : List Nat) (i : Nat) (hi : i < es.length) :
    nbits (packElems w es) (w * i) w = es.getD i 0 % 2 ^ w := by
  induction es generalizing i with
  | nil => simp at hi
  | cons e r ih =>
    cases i with
    | zero => simp [nbits, packElems]
    | succ i =>
      have hi' : i < r.length := by simpa using hi
      have := ih i hi'
      simp only [nbits, packElems, List.getD_cons_succ] at this ⊢
      rw [show w * (i + 1) = w + w * i by ring, Nat.shiftRight_add]
      have h1 : (e % 2 ^ w + 2 ^ w * packElems w r) >>> w = packElems w r := by
        rw [Nat.shiftRight_eq_div_pow, Nat.add_mul_div_left _ _ (by positivity), Nat.div_eq_of_lt (Nat.mod_lt _ (by positivity))]
        simp
      rw [h1, this]

theorem elemCount_width (t : Ty) : elemWidth t * elemCount t ≤ 64 := by cases t <;> decide

/-- Sign extension keeps the low bits. -/
theorem sext64_low (x : Nat) : (sext64 32 x).toNat % 2 ^ 32 = x % 2 ^ 32 := by
  unfold sext64 toSigned
  split_ifs <;> simp [BitVec.toNat_ofInt] <;> omega

/-- Element `i` of a row made from elements (R66, R310). -/
theorem elem_rowElems (t : Ty) (es : List Nat) (i : Nat) (hl : es.length = elemCount t) (hi : i < elemCount t) :
    elem t (rowElems t es) i = es.getD i 0 % 2 ^ elemWidth t := by
  have hp := packElems_lt (elemWidth t) es
  have hf := nbits_packElems (elemWidth t) es i (by omega)
  rw [hl] at hp
  have h64 : packElems (elemWidth t) es < 2 ^ 64 :=
    lt_of_lt_of_le hp (Nat.pow_le_pow_right (by decide) (elemCount_width t))
  unfold elem rowElems
  cases t
  case s32 =>
    have : i = 0 := by simp [elemCount] at hi; exact hi
    subst this
    simp only [elemWidth, nbits, rowOf, Nat.mul_zero, Nat.shiftRight_zero] at hf ⊢
    rw [sext64_low, hf]
  case n32 =>
    have : i = 0 := by simp [elemCount] at hi; exact hi
    subst this
    simp only [elemWidth, nbits, rowOf, Nat.mul_zero, Nat.shiftRight_zero, dw, BitVec.toNat_ofNat] at hf ⊢
    rw [← hf]; omega
  case f32 =>
    have : i = 0 := by simp [elemCount] at hi; exact hi
    subst this
    simp only [elemWidth, nbits, rowOf, Nat.mul_zero, Nat.shiftRight_zero, dw, BitVec.toNat_ofNat] at hf ⊢
    rw [← hf]; omega
  case tf6x10 =>
    have h60 : packElems 6 es < 2 ^ 60 := by simpa [elemWidth, elemCount] using hp
    simp only [elemWidth, rowOf, dw, BitVec.toNat_ofNat] at hf ⊢
    rw [Nat.mod_eq_of_lt h60, Nat.mod_eq_of_lt (by omega)]; exact hf
  all_goals
    simp only [elemWidth, rowOf, dw, BitVec.toNat_ofNat] at hf h64 ⊢
    rw [Nat.mod_eq_of_lt h64]; exact hf

@[simp] theorem length_tab {α : Type} (n : Nat) (f : Nat → α) : (tab n f).length = n := by simp [tab]

theorem getD_tab {α : Type} (n : Nat) (f : Nat → α) (d : α) (i : Nat) (hi : i < n) : (tab n f).getD i d = f i := by
  simp [tab, List.getD_eq_getElem?_getD, hi]

theorem elem_lt (t : Ty) (x : Dword) (i : Nat) : elem t x i < 2 ^ elemWidth t := Nat.mod_lt _ (by positivity)

/-- Little-endian bytes read back (R4). -/
theorem leNat_leBytes (n x : Nat) : leNat (leBytes n x) = x % 256 ^ n := by
  induction n generalizing x with
  | zero => simp [leBytes, leNat, Nat.mod_one]
  | succ n ih =>
    have h1 : 256 ^ (n + 1) = 256 * 256 ^ n := by rw [Nat.pow_succ, Nat.mul_comm]
    have h2 : x % (256 * 256 ^ n) = x % 256 + 256 * (x / 256 % 256 ^ n) := Nat.mod_mul
    rw [leBytes, leNat, ih, BitVec.toNat_ofNat, h1, h2]

@[simp] theorem length_leBytes (n x : Nat) : (leBytes n x).length = n := by
  induction n generalizing x with
  | zero => rfl
  | succ n ih => simp [leBytes, ih]

end Sys2Proof.Machine
end

