-- ==== Sys2Proof/Laws/Cells.lean ====
section
/-! SUPPORT. The laws of sparse maps: reading after writing, and the canonical form. -/

namespace Sys2Proof.Machine

variable {α : Type}

/-! ## The canonical form -/

theorem Cells.rising_mono {lo lo' : Nat} (h : lo' ≤ lo) {c : Cells α} (hc : Cells.rising lo c = true) :
    Cells.rising lo' c = true := by
  cases c with
  | nil => rfl
  | cons e r =>
    simp only [Cells.rising, Bool.and_eq_true, decide_eq_true_eq] at hc ⊢
    exact ⟨le_trans h hc.1, hc.2⟩

theorem Cells.rising_put {lo n : Nat} {c : Cells α} (v : α) (hn : lo ≤ n) (hc : Cells.rising lo c = true) :
    Cells.rising lo (Cells.put c n v) = true := by
  induction c generalizing lo with
  | nil => simp [Cells.put, Cells.rising, hn]
  | cons e r ih =>
    obtain ⟨k, w⟩ := e
    simp only [Cells.rising, Bool.and_eq_true, decide_eq_true_eq] at hc
    simp only [Cells.put]
    split_ifs with h1 h2
    · simp [Cells.rising, hc]
    · simp only [Cells.rising, Bool.and_eq_true, decide_eq_true_eq]
      exact ⟨hn, by omega, hc.2⟩
    · simp only [Cells.rising, Bool.and_eq_true, decide_eq_true_eq]
      exact ⟨hc.1, ih (by omega) hc.2⟩

theorem Cells.rising_drop {lo n : Nat} {c : Cells α} (hc : Cells.rising lo c = true) :
    Cells.rising lo (Cells.drop c n) = true := by
  induction c generalizing lo with
  | nil => rfl
  | cons e r ih =>
    obtain ⟨k, w⟩ := e
    simp only [Cells.rising, Bool.and_eq_true, decide_eq_true_eq] at hc
    simp only [Cells.drop]
    split_ifs
    · exact Cells.rising_mono (by omega) (ih hc.2)
    · simp only [Cells.rising, Bool.and_eq_true, decide_eq_true_eq]
      exact ⟨hc.1, ih hc.2⟩

theorem Cells.rising_filter {lo : Nat} {c : Cells α} (p : Nat × α → Bool) (hc : Cells.rising lo c = true) :
    Cells.rising lo (List.filter p c) = true := by
  induction c generalizing lo with
  | nil => rfl
  | cons e r ih =>
    obtain ⟨k, w⟩ := e
    simp only [Cells.rising, Bool.and_eq_true, decide_eq_true_eq] at hc
    rw [List.filter_cons]
    split_ifs
    · simp only [Cells.rising, Bool.and_eq_true, decide_eq_true_eq]
      exact ⟨hc.1, ih hc.2⟩
    · exact Cells.rising_mono (by omega) (ih hc.2)

theorem Cells.mem_put {c : Cells α} {n : Nat} {v : α} {e : Nat × α} (h : e ∈ Cells.put c n v) :
    e ∈ c ∨ e.2 = v := by
  induction c with
  | nil => simp [Cells.put] at h; exact .inr (by rw [h])
  | cons x r ih =>
    obtain ⟨k, w⟩ := x
    simp only [Cells.put] at h
    split_ifs at h
    · rcases List.mem_cons.1 h with h | h
      · exact .inr (by rw [h])
      · exact .inl (List.mem_cons_of_mem _ h)
    · rcases List.mem_cons.1 h with h | h
      · exact .inr (by rw [h])
      · exact .inl h
    · rcases List.mem_cons.1 h with h | h
      · exact .inl (by rw [h]; exact List.mem_cons_self)
      · rcases ih h with h | h
        · exact .inl (List.mem_cons_of_mem _ h)
        · exact .inr h

theorem Cells.mem_drop {c : Cells α} {n : Nat} {e : Nat × α} (h : e ∈ Cells.drop c n) : e ∈ c := by
  induction c with
  | nil => simp [Cells.drop] at h
  | cons x r ih =>
    obtain ⟨k, w⟩ := x
    simp only [Cells.drop] at h
    split_ifs at h
    · exact List.mem_cons_of_mem _ (ih h)
    · rcases List.mem_cons.1 h with h | h
      · rw [h]; exact List.mem_cons_self
      · exact List.mem_cons_of_mem _ (ih h)

/-- Writing a value keeps the canonical form. -/
theorem Cells.wf_set [DecidableEq α] {d : α} {c : Cells α} (n : Nat) (v : α) (hc : Cells.wf d c = true) :
    Cells.wf d (Cells.set d c n v) = true := by
  simp only [Cells.wf, Bool.and_eq_true, List.all_eq_true, decide_eq_true_eq] at hc ⊢
  unfold Cells.set
  split_ifs with h
  · exact ⟨Cells.rising_drop hc.1, fun e he => hc.2 e (Cells.mem_drop he)⟩
  · refine ⟨Cells.rising_put v (Nat.zero_le n) hc.1, fun e he => ?_⟩
    rcases Cells.mem_put he with he | he
    · exact hc.2 e he
    · rw [he]; exact h

/-- Keeping some of the entries keeps the canonical form. -/
theorem Cells.wf_filter [DecidableEq α] {d : α} {c : Cells α} (p : Nat × α → Bool) (hc : Cells.wf d c = true) :
    Cells.wf d (List.filter p c) = true := by
  simp only [Cells.wf, Bool.and_eq_true, List.all_eq_true, decide_eq_true_eq] at hc ⊢
  exact ⟨Cells.rising_filter p hc.1, fun e he => hc.2 e (List.mem_filter.1 he).1⟩

@[simp] theorem Cells.wf_nil [DecidableEq α] (d : α) : Cells.wf d [] = true := rfl
@[simp] theorem Cells.rising_nil (lo : Nat) : Cells.rising lo ([] : Cells α) = true := rfl

/-! ## Reading after writing: no hypothesis on the list -/

@[simp] theorem Cells.find_put_same (c : Cells α) (n : Nat) (v : α) : Cells.find (Cells.put c n v) n = some v := by
  induction c with
  | nil => simp [Cells.put, Cells.find]
  | cons e r ih =>
    obtain ⟨k, w⟩ := e
    simp only [Cells.put]
    split_ifs with h1 h2
    · simp [Cells.find, h1]
    · simp [Cells.find]
    · simp [Cells.find, h1, ih]

theorem Cells.find_put_ne (c : Cells α) {n m : Nat} (v : α) (h : m ≠ n) :
    Cells.find (Cells.put c n v) m = Cells.find c m := by
  induction c with
  | nil => simp [Cells.put, Cells.find, h]
  | cons e r ih =>
    obtain ⟨k, w⟩ := e
    simp only [Cells.put]
    split_ifs with h1 h2
    · subst h1; simp [Cells.find, h]
    · simp [Cells.find, h]
    · simp only [Cells.find, ih]

@[simp] theorem Cells.find_drop_same (c : Cells α) (n : Nat) : Cells.find (Cells.drop c n) n = none := by
  induction c with
  | nil => rfl
  | cons e r ih =>
    obtain ⟨k, w⟩ := e
    simp only [Cells.drop]
    split_ifs with h1
    · exact ih
    · simp [Cells.find, h1, ih]

theorem Cells.find_drop_ne (c : Cells α) {n m : Nat} (h : m ≠ n) : Cells.find (Cells.drop c n) m = Cells.find c m := by
  induction c with
  | nil => rfl
  | cons e r ih =>
    obtain ⟨k, w⟩ := e
    simp only [Cells.drop]
    split_ifs with h1
    · subst h1; simp [Cells.find, h, ih]
    · simp only [Cells.find, ih]

/-- A key below every listed one is not listed. -/
theorem Cells.find_below {lo n : Nat} (h : n < lo) {c : Cells α} (hc : Cells.rising lo c = true) :
    Cells.find c n = none := by
  induction c generalizing lo with
  | nil => rfl
  | cons e r ih =>
    obtain ⟨k, w⟩ := e
    simp only [Cells.rising, Bool.and_eq_true, decide_eq_true_eq] at hc
    rw [Cells.find, if_neg (by omega), ih (by omega) hc.2]

/-- What a filter does to a key: it keeps what is listed there, or drops it. -/
theorem Cells.find_filter_keep {c : Cells α} {n : Nat} (p : Nat × α → Bool) (h : ∀ v, p (n, v) = true) :
    Cells.find (List.filter p c) n = Cells.find c n := by
  induction c with
  | nil => rfl
  | cons e r ih =>
    obtain ⟨k, w⟩ := e
    rw [List.filter_cons]
    by_cases hk : n = k
    · subst hk; simp [h, Cells.find]
    · split_ifs <;> simp [Cells.find, hk, ih]

theorem Cells.find_filter_drop {c : Cells α} {n : Nat} (p : Nat × α → Bool) (h : ∀ v, p (n, v) = false) :
    Cells.find (List.filter p c) n = none := by
  induction c with
  | nil => rfl
  | cons e r ih =>
    obtain ⟨k, w⟩ := e
    rw [List.filter_cons]
    by_cases hk : n = k
    · subst hk; simp [h, ih]
    · split_ifs <;> simp [Cells.find, hk, ih]

/-- Reading the key that was written gives the value written. -/
@[simp] theorem Cells.get_set_same [DecidableEq α] (d : α) (c : Cells α) (n : Nat) (v : α) :
    Cells.get d (Cells.set d c n v) n = v := by
  unfold Cells.get Cells.set
  split_ifs with h
  · rw [Cells.find_drop_same]; exact h.symm
  · simp

/-- Reading another key gives what it gave before. -/
theorem Cells.get_set_ne [DecidableEq α] (d : α) (c : Cells α) {n m : Nat} (v : α) (h : m ≠ n) :
    Cells.get d (Cells.set d c n v) m = Cells.get d c m := by
  unfold Cells.get Cells.set
  split_ifs
  · rw [Cells.find_drop_ne c h]
  · rw [Cells.find_put_ne c v h]

end Sys2Proof.Machine
end

