-- ==== Sys2Proof/Laws/Decode.lean ====
section
/-! SUPPORT. Reading back what the encoder writes: fields of a concatenation, the lane word's fields, operands, guards,
prefixes and modifier fields. -/

namespace Sys2Proof

/-! ## Fields -/

theorem extract_high {a b : Nat} (x : BitVec a) (y : BitVec b) (s n : Nat) (h : b ≤ s) :
    (x ++ y).extractLsb' s n = x.extractLsb' (s - b) n := by
  apply BitVec.eq_of_getLsbD_eq
  intro i hi
  simp only [BitVec.getLsbD_extractLsb', BitVec.getLsbD_append, hi, decide_true, Bool.true_and]
  rw [if_neg (by omega)]
  congr 1
  omega

theorem extract_low {a b : Nat} (x : BitVec a) (y : BitVec b) (s n : Nat) (h : s + n ≤ b) :
    (x ++ y).extractLsb' s n = y.extractLsb' s n := by
  apply BitVec.eq_of_getLsbD_eq
  intro i hi
  simp only [BitVec.getLsbD_extractLsb', BitVec.getLsbD_append, hi, decide_true, Bool.true_and]
  rw [if_pos (by omega)]

@[simp] theorem extract_all {a : Nat} (x : BitVec a) : x.extractLsb' 0 a = x := by
  apply BitVec.eq_of_getLsbD_eq
  intro i hi
  simp [hi]

/-- The fields of a lane word read back as they were laid out (R62). -/
@[simp] theorem LaneRaw.unpack_pack (r : LaneRaw) : LaneRaw.unpack r.pack = r := by
  cases r
  simp only [LaneRaw.unpack, LaneRaw.pack, LaneRaw.mk.injEq]
  refine ⟨?_, ?_, ?_, ?_, ?_, ?_, ?_, ?_, ?_, ?_, ?_, ?_, ?_, ?_, ?_⟩ <;>
  (repeat (first | rw [extract_low _ _ _ _ (by decide)] | rw [extract_high _ _ _ _ (by decide)])) <;> exact extract_all _

/-! ## Codes -/

@[simp] theorem isSet_bit1 (b : Bool) : isSet (bit1 b) = b := by cases b <;> rfl
@[simp] theorem Ty.ofCode_code (t : Ty) : Ty.ofCode t.code = t := by cases t <;> rfl
@[simp] theorem Rm.ofCode_code (x : Rm) : Rm.ofCode x.code = some x := by cases x <;> rfl
@[simp] theorem Scope.ofCode_code (x : Scope) : Scope.ofCode x.code = some x := by cases x <;> rfl
@[simp] theorem ReqTy.ofCode_code (x : ReqTy) : ReqTy.ofCode x.code = x := by cases x <;> rfl
@[simp] theorem MOrd.ofCodeLd_code (x : MOrd) : MOrd.ofCodeLd x.codeLd = some x := by cases x <;> rfl
@[simp] theorem MOrd.ofCodeSt_code (x : MOrd) : MOrd.ofCodeSt x.codeSt = some x := by cases x <;> rfl
@[simp] theorem FOrd.ofCode_code (x : FOrd) : FOrd.ofCode x.code = some x := by cases x <;> rfl
@[simp] theorem AOp.ofCode_code (x : AOp) : AOp.ofCode x.code = some x := by cases x <;> rfl
@[simp] theorem ICond.ofCode_code (x : ICond) : ICond.ofCode x.code = some x := by cases x <;> rfl
@[simp] theorem FCond.ofCode_code (x : FCond) : FCond.ofCode x.code = some x := by cases x <;> rfl
@[simp] theorem AccSz.ofCode_code (x : AccSz) : AccSz.ofCode x.code = some x := by cases x <;> rfl
@[simp] theorem PackMode.ofCode_code (x : PackMode) : PackMode.ofCode x.code = x := by cases x <;> rfl
@[simp] theorem PrefLvl.ofCode_code (x : PrefLvl) : PrefLvl.ofCode x.code = some x := by cases x <;> rfl
@[simp] theorem DescKind.ofCode_code (x : DescKind) : DescKind.ofCode x.code = some x := by cases x <;> rfl
@[simp] theorem SregSel.ofCode_code (x : SregSel) : SregSel.ofCode x.code = some x := by cases x <;> rfl
@[simp] theorem WCond.ofCode_code (x : WCond) : WCond.ofCode x.code = some x := by cases x <;> rfl
@[simp] theorem ROp.ofCode_code (x : ROp) : ROp.ofCode x.code = some x := by cases x <;> rfl
@[simp] theorem VoteMode.ofCode_code (x : VoteMode) : VoteMode.ofCode x.code = x := by cases x <;> rfl
@[simp] theorem BitCount.ofCode_code (x : BitCount) : BitCount.ofCode x.code = some x := by cases x <;> rfl
@[simp] theorem SCond.ofCode_code (x : SCond) : SCond.ofCode x.code = some x := by cases x <;> rfl
@[simp] theorem MFn.ofCode_code (x : MFn) : MFn.ofCode x.code = some x := by cases x <;> rfl
@[simp] theorem DecSz.ofCode_code (x : DecSz) : DecSz.ofCode x.code = some x := by cases x <;> rfl

/-! ## Operands, guards and prefixes -/

@[simp] theorem decOpd_encOpd (o : Opd) : decOpd (encOpd o).1 (encOpd o).2 = some o := by
  cases o with
  | lane r => rfl
  | imm i => rfl
  | scal r =>
    have h : (BitVec.zeroExtend 11 r).toNat < 64 := by
      rw [BitVec.toNat_setWidth]; have := r.isLt; omega
    simp only [decOpd, encOpd]
    rw [show (1 : BitVec 2).toNat = 1 from rfl]
    simp only [h, if_true]
    congr 2
    apply BitVec.eq_of_toNat_eq
    simp only [BitVec.toNat_setWidth]
    have := r.isLt
    omega

@[simp] theorem decGuard_enc (o : Option Guard) :
    decGuard (bit1 o.isSome) (bit1 ((o.map Guard.inv).getD false)) ((o.map Guard.bit).getD 0)
      ((o.map Guard.reg).getD 0) = some o := by
  cases o with
  | none => rfl
  | some x => simp [decGuard]

@[simp] theorem decPfx_encPfx (p : Pfx) : decPfx (encPfx p) = some p := by
  have h0 : (encPfx p).extractLsb' 0 10 = 0x3FF := by
    unfold encPfx
    rw [extract_low _ _ _ _ (by decide)]
    rfl
  have h1 : (encPfx p).extractLsb' 31 1 = 0 := by
    unfold encPfx
    repeat (first | rw [extract_low _ _ _ _ (by decide)] | rw [extract_high _ _ _ _ (by decide)])
    rfl
  have h2 : (encPfx p).extractLsb' 16 3 = p.rm.code := by
    unfold encPfx
    repeat (first | rw [extract_low _ _ _ _ (by decide)] | rw [extract_high _ _ _ _ (by decide)])
    exact extract_all _
  have h3 : (encPfx p).extractLsb' 30 1 = bit1 p.mz := by
    unfold encPfx
    repeat (first | rw [extract_low _ _ _ _ (by decide)] | rw [extract_high _ _ _ _ (by decide)])
    exact extract_all _
  have h4 : (encPfx p).extractLsb' 19 11 = p.e := by
    unfold encPfx
    repeat (first | rw [extract_low _ _ _ _ (by decide)] | rw [extract_high _ _ _ _ (by decide)])
    exact extract_all _
  have h5 : (encPfx p).extractLsb' 10 6 = p.mask := by
    unfold encPfx
    repeat (first | rw [extract_low _ _ _ _ (by decide)] | rw [extract_high _ _ _ _ (by decide)])
    exact extract_all _
  simp [decPfx, h0, h1, h2, h3, h4, h5]

/-! ## Modifier fields -/

@[simp] theorem decFlag_encFlag (b : Bool) : decFlag (encFlag b) = some b := by cases b <;> rfl
@[simp] theorem decScope_enc (s : Scope) : decScopeMod (encScopeMod s) = some s := by cases s <;> rfl
@[simp] theorem decICond_enc (c : ICond) : decICond (encICond c) = some c := by cases c <;> rfl
@[simp] theorem decFCond_enc (c : FCond) : decFCond (encFCond c) = some c := by cases c <;> rfl
@[simp] theorem decPack_enc (p : PackMode) : decPack (encPack p) = some p := by cases p <;> rfl
@[simp] theorem decSreg_enc (s : SregSel) : decSreg (encSreg s) = some s := by cases s <;> rfl
@[simp] theorem decPref_enc (l : PrefLvl) (r : ReqTy) : decPref (encPref l r) = some (l, r) := by
  cases l <;> cases r <;> rfl
@[simp] theorem decSdesc_enc (k : DescKind) (b : Bool) : decSdesc (encSdesc k b) = some (k, b) := by
  cases k <;> cases b <;> rfl
@[simp] theorem decScan_enc (o : ROp) (b : Bool) : decScan (encScan o b) = some (o, b) := by
  cases o <;> cases b <;> rfl
@[simp] theorem decBar_enc (m : BarMod) : decBar (encBar m) = some m := by
  obtain ⟨a, b, c⟩ := m; cases a <;> cases b <;> cases c <;> rfl
@[simp] theorem decFence_enc (m : FenceMod) : decFence (encFence m) = some m := by
  obtain ⟨a, b, c⟩ := m; cases a <;> cases b <;> cases c <;> rfl
@[simp] theorem decTwait_enc (c : WCond) (b : Bool) (s : Scope) : decTwait (encTwait c b s) = some (c, b, s) := by
  cases c <;> cases b <;> cases s <;> rfl
@[simp] theorem decBit6_enc (k : BitVec 6) : decBit6 (encBit6 k) = some k := by
  unfold decBit6 encBit6
  rw [extract_high _ _ _ _ (by decide), extract_low _ _ _ _ (by decide), extract_all, extract_all]
  rfl
@[simp] theorem decLut_enc (k : BitVec 8) : decLut (encLut k) = some k := by
  unfold decLut encLut
  rw [extract_high _ _ _ _ (by decide), extract_low _ _ _ _ (by decide), extract_all, extract_all]
  rfl
@[simp] theorem decFreg_enc (r : LReg) : decFreg (encFreg r) = some r := by
  unfold decFreg encFreg
  rw [extract_high _ _ _ _ (by decide), extract_low _ _ _ _ (by decide), extract_all, extract_all]
  rfl

end Sys2Proof
end

