-- ==== Sys2Proof/Laws/State.lean ====
section
/-! SUPPORT. What each named update of the state, and of a group, leaves alone: one lemma per field and update. -/

namespace Sys2Proof.Machine

/-! ## setG -/

@[simp] theorem setG_agenda (s : State) (g : Group) : (setG s g).agenda = s.agenda := rfl
@[simp] theorem setG_turns (s : State) (g : Group) : (setG s g).turns = s.turns := rfl
@[simp] theorem setG_draws (s : State) (g : Group) : (setG s g).draws = s.draws := rfl
@[simp] theorem setG_cur (s : State) (g : Group) : (setG s g).cur = s.cur := rfl
@[simp] theorem setG_curRay (s : State) (g : Group) : (setG s g).curRay = s.curRay := rfl
@[simp] theorem setG_nextId (s : State) (g : Group) : (setG s g).nextId = s.nextId := rfl
@[simp] theorem setG_nextGid (s : State) (g : Group) : (setG s g).nextGid = s.nextGid := rfl
@[simp] theorem setG_pkg (s : State) (g : Group) : (setG s g).pkg = s.pkg := rfl
@[simp] theorem setG_gov (s : State) (g : Group) : (setG s g).gov = s.gov := rfl
@[simp] theorem setG_mem (s : State) (g : Group) : (setG s g).mem = s.mem := rfl
@[simp] theorem setG_reqs (s : State) (g : Group) : (setG s g).reqs = s.reqs := rfl
@[simp] theorem setG_xl (s : State) (g : Group) : (setG s g).xl = s.xl := rfl
@[simp] theorem setG_coh (s : State) (g : Group) : (setG s g).coh = s.coh := rfl
@[simp] theorem setG_crews (s : State) (g : Group) : (setG s g).crews = s.crews := rfl
@[simp] theorem setG_grids (s : State) (g : Group) : (setG s g).grids = s.grids := rfl
@[simp] theorem setG_queues (s : State) (g : Group) : (setG s g).queues = s.queues := rfl
@[simp] theorem setG_rr (s : State) (g : Group) : (setG s g).rr = s.rr := rfl
@[simp] theorem setG_saved (s : State) (g : Group) : (setG s g).saved = s.saved := rfl
@[simp] theorem setG_adds (s : State) (g : Group) : (setG s g).adds = s.adds := rfl
@[simp] theorem setG_conts (s : State) (g : Group) : (setG s g).conts = s.conts := rfl
@[simp] theorem setG_launches (s : State) (g : Group) : (setG s g).launches = s.launches := rfl
@[simp] theorem setG_sbars (s : State) (g : Group) : (setG s g).sbars = s.sbars := rfl
@[simp] theorem setG_compacts (s : State) (g : Group) : (setG s g).compacts = s.compacts := rfl
@[simp] theorem setG_probes (s : State) (g : Group) : (setG s g).probes = s.probes := rfl
@[simp] theorem setG_spad (s : State) (g : Group) : (setG s g).spad = s.spad := rfl
@[simp] theorem setG_poisonSpad (s : State) (g : Group) : (setG s g).poisonSpad = s.poisonSpad := rfl
@[simp] theorem setG_poisonRows (s : State) (g : Group) : (setG s g).poisonRows = s.poisonRows := rfl
@[simp] theorem setG_streams (s : State) (g : Group) : (setG s g).streams = s.streams := rfl
@[simp] theorem setG_hints (s : State) (g : Group) : (setG s g).hints = s.hints := rfl
@[simp] theorem setG_copies (s : State) (g : Group) : (setG s g).copies = s.copies := rfl
@[simp] theorem setG_engines (s : State) (g : Group) : (setG s g).engines = s.engines := rfl
@[simp] theorem setG_rays (s : State) (g : Group) : (setG s g).rays = s.rays := rfl
@[simp] theorem setG_progs (s : State) (g : Group) : (setG s g).progs = s.progs := rfl
@[simp] theorem setG_merges (s : State) (g : Group) : (setG s g).merges = s.merges := rfl
@[simp] theorem setG_jobs (s : State) (g : Group) : (setG s g).jobs = s.jobs := rfl
@[simp] theorem setG_batches (s : State) (g : Group) : (setG s g).batches = s.batches := rfl
@[simp] theorem setG_waits (s : State) (g : Group) : (setG s g).waits = s.waits := rfl
@[simp] theorem setG_faults (s : State) (g : Group) : (setG s g).faults = s.faults := rfl
@[simp] theorem setG_fw (s : State) (g : Group) : (setG s g).fw = s.fw := rfl
@[simp] theorem setG_regs (s : State) (g : Group) : (setG s g).regs = s.regs := rfl
@[simp] theorem setG_policy (s : State) (g : Group) : (setG s g).policy = s.policy := rfl

/-! ## setCrew -/

@[simp] theorem setCrew_agenda (s : State) (c : Crew) : (setCrew s c).agenda = s.agenda := rfl
@[simp] theorem setCrew_turns (s : State) (c : Crew) : (setCrew s c).turns = s.turns := rfl
@[simp] theorem setCrew_draws (s : State) (c : Crew) : (setCrew s c).draws = s.draws := rfl
@[simp] theorem setCrew_cur (s : State) (c : Crew) : (setCrew s c).cur = s.cur := rfl
@[simp] theorem setCrew_curRay (s : State) (c : Crew) : (setCrew s c).curRay = s.curRay := rfl
@[simp] theorem setCrew_nextId (s : State) (c : Crew) : (setCrew s c).nextId = s.nextId := rfl
@[simp] theorem setCrew_nextGid (s : State) (c : Crew) : (setCrew s c).nextGid = s.nextGid := rfl
@[simp] theorem setCrew_pkg (s : State) (c : Crew) : (setCrew s c).pkg = s.pkg := rfl
@[simp] theorem setCrew_gov (s : State) (c : Crew) : (setCrew s c).gov = s.gov := rfl
@[simp] theorem setCrew_mem (s : State) (c : Crew) : (setCrew s c).mem = s.mem := rfl
@[simp] theorem setCrew_reqs (s : State) (c : Crew) : (setCrew s c).reqs = s.reqs := rfl
@[simp] theorem setCrew_xl (s : State) (c : Crew) : (setCrew s c).xl = s.xl := rfl
@[simp] theorem setCrew_coh (s : State) (c : Crew) : (setCrew s c).coh = s.coh := rfl
@[simp] theorem setCrew_groups (s : State) (c : Crew) : (setCrew s c).groups = s.groups := rfl
@[simp] theorem setCrew_grids (s : State) (c : Crew) : (setCrew s c).grids = s.grids := rfl
@[simp] theorem setCrew_queues (s : State) (c : Crew) : (setCrew s c).queues = s.queues := rfl
@[simp] theorem setCrew_rr (s : State) (c : Crew) : (setCrew s c).rr = s.rr := rfl
@[simp] theorem setCrew_saved (s : State) (c : Crew) : (setCrew s c).saved = s.saved := rfl
@[simp] theorem setCrew_adds (s : State) (c : Crew) : (setCrew s c).adds = s.adds := rfl
@[simp] theorem setCrew_conts (s : State) (c : Crew) : (setCrew s c).conts = s.conts := rfl
@[simp] theorem setCrew_launches (s : State) (c : Crew) : (setCrew s c).launches = s.launches := rfl
@[simp] theorem setCrew_sbars (s : State) (c : Crew) : (setCrew s c).sbars = s.sbars := rfl
@[simp] theorem setCrew_compacts (s : State) (c : Crew) : (setCrew s c).compacts = s.compacts := rfl
@[simp] theorem setCrew_probes (s : State) (c : Crew) : (setCrew s c).probes = s.probes := rfl
@[simp] theorem setCrew_spad (s : State) (c : Crew) : (setCrew s c).spad = s.spad := rfl
@[simp] theorem setCrew_poisonSpad (s : State) (c : Crew) : (setCrew s c).poisonSpad = s.poisonSpad := rfl
@[simp] theorem setCrew_poisonRows (s : State) (c : Crew) : (setCrew s c).poisonRows = s.poisonRows := rfl
@[simp] theorem setCrew_streams (s : State) (c : Crew) : (setCrew s c).streams = s.streams := rfl
@[simp] theorem setCrew_hints (s : State) (c : Crew) : (setCrew s c).hints = s.hints := rfl
@[simp] theorem setCrew_copies (s : State) (c : Crew) : (setCrew s c).copies = s.copies := rfl
@[simp] theorem setCrew_engines (s : State) (c : Crew) : (setCrew s c).engines = s.engines := rfl
@[simp] theorem setCrew_rays (s : State) (c : Crew) : (setCrew s c).rays = s.rays := rfl
@[simp] theorem setCrew_progs (s : State) (c : Crew) : (setCrew s c).progs = s.progs := rfl
@[simp] theorem setCrew_merges (s : State) (c : Crew) : (setCrew s c).merges = s.merges := rfl
@[simp] theorem setCrew_jobs (s : State) (c : Crew) : (setCrew s c).jobs = s.jobs := rfl
@[simp] theorem setCrew_batches (s : State) (c : Crew) : (setCrew s c).batches = s.batches := rfl
@[simp] theorem setCrew_waits (s : State) (c : Crew) : (setCrew s c).waits = s.waits := rfl
@[simp] theorem setCrew_faults (s : State) (c : Crew) : (setCrew s c).faults = s.faults := rfl
@[simp] theorem setCrew_fw (s : State) (c : Crew) : (setCrew s c).fw = s.fw := rfl
@[simp] theorem setCrew_regs (s : State) (c : Crew) : (setCrew s c).regs = s.regs := rfl
@[simp] theorem setCrew_policy (s : State) (c : Crew) : (setCrew s c).policy = s.policy := rfl

/-! ## setGrid -/

@[simp] theorem setGrid_agenda (s : State) (r : Grid) : (setGrid s r).agenda = s.agenda := rfl
@[simp] theorem setGrid_turns (s : State) (r : Grid) : (setGrid s r).turns = s.turns := rfl
@[simp] theorem setGrid_draws (s : State) (r : Grid) : (setGrid s r).draws = s.draws := rfl
@[simp] theorem setGrid_cur (s : State) (r : Grid) : (setGrid s r).cur = s.cur := rfl
@[simp] theorem setGrid_curRay (s : State) (r : Grid) : (setGrid s r).curRay = s.curRay := rfl
@[simp] theorem setGrid_nextId (s : State) (r : Grid) : (setGrid s r).nextId = s.nextId := rfl
@[simp] theorem setGrid_nextGid (s : State) (r : Grid) : (setGrid s r).nextGid = s.nextGid := rfl
@[simp] theorem setGrid_pkg (s : State) (r : Grid) : (setGrid s r).pkg = s.pkg := rfl
@[simp] theorem setGrid_gov (s : State) (r : Grid) : (setGrid s r).gov = s.gov := rfl
@[simp] theorem setGrid_mem (s : State) (r : Grid) : (setGrid s r).mem = s.mem := rfl
@[simp] theorem setGrid_reqs (s : State) (r : Grid) : (setGrid s r).reqs = s.reqs := rfl
@[simp] theorem setGrid_xl (s : State) (r : Grid) : (setGrid s r).xl = s.xl := rfl
@[simp] theorem setGrid_coh (s : State) (r : Grid) : (setGrid s r).coh = s.coh := rfl
@[simp] theorem setGrid_groups (s : State) (r : Grid) : (setGrid s r).groups = s.groups := rfl
@[simp] theorem setGrid_crews (s : State) (r : Grid) : (setGrid s r).crews = s.crews := rfl
@[simp] theorem setGrid_queues (s : State) (r : Grid) : (setGrid s r).queues = s.queues := rfl
@[simp] theorem setGrid_rr (s : State) (r : Grid) : (setGrid s r).rr = s.rr := rfl
@[simp] theorem setGrid_saved (s : State) (r : Grid) : (setGrid s r).saved = s.saved := rfl
@[simp] theorem setGrid_adds (s : State) (r : Grid) : (setGrid s r).adds = s.adds := rfl
@[simp] theorem setGrid_conts (s : State) (r : Grid) : (setGrid s r).conts = s.conts := rfl
@[simp] theorem setGrid_launches (s : State) (r : Grid) : (setGrid s r).launches = s.launches := rfl
@[simp] theorem setGrid_sbars (s : State) (r : Grid) : (setGrid s r).sbars = s.sbars := rfl
@[simp] theorem setGrid_compacts (s : State) (r : Grid) : (setGrid s r).compacts = s.compacts := rfl
@[simp] theorem setGrid_probes (s : State) (r : Grid) : (setGrid s r).probes = s.probes := rfl
@[simp] theorem setGrid_spad (s : State) (r : Grid) : (setGrid s r).spad = s.spad := rfl
@[simp] theorem setGrid_poisonSpad (s : State) (r : Grid) : (setGrid s r).poisonSpad = s.poisonSpad := rfl
@[simp] theorem setGrid_poisonRows (s : State) (r : Grid) : (setGrid s r).poisonRows = s.poisonRows := rfl
@[simp] theorem setGrid_streams (s : State) (r : Grid) : (setGrid s r).streams = s.streams := rfl
@[simp] theorem setGrid_hints (s : State) (r : Grid) : (setGrid s r).hints = s.hints := rfl
@[simp] theorem setGrid_copies (s : State) (r : Grid) : (setGrid s r).copies = s.copies := rfl
@[simp] theorem setGrid_engines (s : State) (r : Grid) : (setGrid s r).engines = s.engines := rfl
@[simp] theorem setGrid_rays (s : State) (r : Grid) : (setGrid s r).rays = s.rays := rfl
@[simp] theorem setGrid_progs (s : State) (r : Grid) : (setGrid s r).progs = s.progs := rfl
@[simp] theorem setGrid_merges (s : State) (r : Grid) : (setGrid s r).merges = s.merges := rfl
@[simp] theorem setGrid_jobs (s : State) (r : Grid) : (setGrid s r).jobs = s.jobs := rfl
@[simp] theorem setGrid_batches (s : State) (r : Grid) : (setGrid s r).batches = s.batches := rfl
@[simp] theorem setGrid_waits (s : State) (r : Grid) : (setGrid s r).waits = s.waits := rfl
@[simp] theorem setGrid_faults (s : State) (r : Grid) : (setGrid s r).faults = s.faults := rfl
@[simp] theorem setGrid_fw (s : State) (r : Grid) : (setGrid s r).fw = s.fw := rfl
@[simp] theorem setGrid_regs (s : State) (r : Grid) : (setGrid s r).regs = s.regs := rfl
@[simp] theorem setGrid_policy (s : State) (r : Grid) : (setGrid s r).policy = s.policy := rfl

/-! ## setQueue -/

@[simp] theorem setQueue_agenda (s : State) (q : HostQueue) : (setQueue s q).agenda = s.agenda := rfl
@[simp] theorem setQueue_turns (s : State) (q : HostQueue) : (setQueue s q).turns = s.turns := rfl
@[simp] theorem setQueue_draws (s : State) (q : HostQueue) : (setQueue s q).draws = s.draws := rfl
@[simp] theorem setQueue_cur (s : State) (q : HostQueue) : (setQueue s q).cur = s.cur := rfl
@[simp] theorem setQueue_curRay (s : State) (q : HostQueue) : (setQueue s q).curRay = s.curRay := rfl
@[simp] theorem setQueue_nextId (s : State) (q : HostQueue) : (setQueue s q).nextId = s.nextId := rfl
@[simp] theorem setQueue_nextGid (s : State) (q : HostQueue) : (setQueue s q).nextGid = s.nextGid := rfl
@[simp] theorem setQueue_pkg (s : State) (q : HostQueue) : (setQueue s q).pkg = s.pkg := rfl
@[simp] theorem setQueue_gov (s : State) (q : HostQueue) : (setQueue s q).gov = s.gov := rfl
@[simp] theorem setQueue_mem (s : State) (q : HostQueue) : (setQueue s q).mem = s.mem := rfl
@[simp] theorem setQueue_reqs (s : State) (q : HostQueue) : (setQueue s q).reqs = s.reqs := rfl
@[simp] theorem setQueue_xl (s : State) (q : HostQueue) : (setQueue s q).xl = s.xl := rfl
@[simp] theorem setQueue_coh (s : State) (q : HostQueue) : (setQueue s q).coh = s.coh := rfl
@[simp] theorem setQueue_groups (s : State) (q : HostQueue) : (setQueue s q).groups = s.groups := rfl
@[simp] theorem setQueue_crews (s : State) (q : HostQueue) : (setQueue s q).crews = s.crews := rfl
@[simp] theorem setQueue_grids (s : State) (q : HostQueue) : (setQueue s q).grids = s.grids := rfl
@[simp] theorem setQueue_rr (s : State) (q : HostQueue) : (setQueue s q).rr = s.rr := rfl
@[simp] theorem setQueue_saved (s : State) (q : HostQueue) : (setQueue s q).saved = s.saved := rfl
@[simp] theorem setQueue_adds (s : State) (q : HostQueue) : (setQueue s q).adds = s.adds := rfl
@[simp] theorem setQueue_conts (s : State) (q : HostQueue) : (setQueue s q).conts = s.conts := rfl
@[simp] theorem setQueue_launches (s : State) (q : HostQueue) : (setQueue s q).launches = s.launches := rfl
@[simp] theorem setQueue_sbars (s : State) (q : HostQueue) : (setQueue s q).sbars = s.sbars := rfl
@[simp] theorem setQueue_compacts (s : State) (q : HostQueue) : (setQueue s q).compacts = s.compacts := rfl
@[simp] theorem setQueue_probes (s : State) (q : HostQueue) : (setQueue s q).probes = s.probes := rfl
@[simp] theorem setQueue_spad (s : State) (q : HostQueue) : (setQueue s q).spad = s.spad := rfl
@[simp] theorem setQueue_poisonSpad (s : State) (q : HostQueue) : (setQueue s q).poisonSpad = s.poisonSpad := rfl
@[simp] theorem setQueue_poisonRows (s : State) (q : HostQueue) : (setQueue s q).poisonRows = s.poisonRows := rfl
@[simp] theorem setQueue_streams (s : State) (q : HostQueue) : (setQueue s q).streams = s.streams := rfl
@[simp] theorem setQueue_hints (s : State) (q : HostQueue) : (setQueue s q).hints = s.hints := rfl
@[simp] theorem setQueue_copies (s : State) (q : HostQueue) : (setQueue s q).copies = s.copies := rfl
@[simp] theorem setQueue_engines (s : State) (q : HostQueue) : (setQueue s q).engines = s.engines := rfl
@[simp] theorem setQueue_rays (s : State) (q : HostQueue) : (setQueue s q).rays = s.rays := rfl
@[simp] theorem setQueue_progs (s : State) (q : HostQueue) : (setQueue s q).progs = s.progs := rfl
@[simp] theorem setQueue_merges (s : State) (q : HostQueue) : (setQueue s q).merges = s.merges := rfl
@[simp] theorem setQueue_jobs (s : State) (q : HostQueue) : (setQueue s q).jobs = s.jobs := rfl
@[simp] theorem setQueue_batches (s : State) (q : HostQueue) : (setQueue s q).batches = s.batches := rfl
@[simp] theorem setQueue_waits (s : State) (q : HostQueue) : (setQueue s q).waits = s.waits := rfl
@[simp] theorem setQueue_faults (s : State) (q : HostQueue) : (setQueue s q).faults = s.faults := rfl
@[simp] theorem setQueue_fw (s : State) (q : HostQueue) : (setQueue s q).fw = s.fw := rfl
@[simp] theorem setQueue_regs (s : State) (q : HostQueue) : (setQueue s q).regs = s.regs := rfl
@[simp] theorem setQueue_policy (s : State) (q : HostQueue) : (setQueue s q).policy = s.policy := rfl

/-! ## setEngine -/

@[simp] theorem setEngine_agenda (s : State) (core : Nat) (m : Matrix) : (setEngine s core m).agenda = s.agenda := rfl
@[simp] theorem setEngine_turns (s : State) (core : Nat) (m : Matrix) : (setEngine s core m).turns = s.turns := rfl
@[simp] theorem setEngine_draws (s : State) (core : Nat) (m : Matrix) : (setEngine s core m).draws = s.draws := rfl
@[simp] theorem setEngine_cur (s : State) (core : Nat) (m : Matrix) : (setEngine s core m).cur = s.cur := rfl
@[simp] theorem setEngine_curRay (s : State) (core : Nat) (m : Matrix) : (setEngine s core m).curRay = s.curRay := rfl
@[simp] theorem setEngine_nextId (s : State) (core : Nat) (m : Matrix) : (setEngine s core m).nextId = s.nextId := rfl
@[simp] theorem setEngine_nextGid (s : State) (core : Nat) (m : Matrix) : (setEngine s core m).nextGid = s.nextGid := rfl
@[simp] theorem setEngine_pkg (s : State) (core : Nat) (m : Matrix) : (setEngine s core m).pkg = s.pkg := rfl
@[simp] theorem setEngine_gov (s : State) (core : Nat) (m : Matrix) : (setEngine s core m).gov = s.gov := rfl
@[simp] theorem setEngine_mem (s : State) (core : Nat) (m : Matrix) : (setEngine s core m).mem = s.mem := rfl
@[simp] theorem setEngine_reqs (s : State) (core : Nat) (m : Matrix) : (setEngine s core m).reqs = s.reqs := rfl
@[simp] theorem setEngine_xl (s : State) (core : Nat) (m : Matrix) : (setEngine s core m).xl = s.xl := rfl
@[simp] theorem setEngine_coh (s : State) (core : Nat) (m : Matrix) : (setEngine s core m).coh = s.coh := rfl
@[simp] theorem setEngine_groups (s : State) (core : Nat) (m : Matrix) : (setEngine s core m).groups = s.groups := rfl
@[simp] theorem setEngine_crews (s : State) (core : Nat) (m : Matrix) : (setEngine s core m).crews = s.crews := rfl
@[simp] theorem setEngine_grids (s : State) (core : Nat) (m : Matrix) : (setEngine s core m).grids = s.grids := rfl
@[simp] theorem setEngine_queues (s : State) (core : Nat) (m : Matrix) : (setEngine s core m).queues = s.queues := rfl
@[simp] theorem setEngine_rr (s : State) (core : Nat) (m : Matrix) : (setEngine s core m).rr = s.rr := rfl
@[simp] theorem setEngine_saved (s : State) (core : Nat) (m : Matrix) : (setEngine s core m).saved = s.saved := rfl
@[simp] theorem setEngine_adds (s : State) (core : Nat) (m : Matrix) : (setEngine s core m).adds = s.adds := rfl
@[simp] theorem setEngine_conts (s : State) (core : Nat) (m : Matrix) : (setEngine s core m).conts = s.conts := rfl
@[simp] theorem setEngine_launches (s : State) (core : Nat) (m : Matrix) : (setEngine s core m).launches = s.launches := rfl
@[simp] theorem setEngine_sbars (s : State) (core : Nat) (m : Matrix) : (setEngine s core m).sbars = s.sbars := rfl
@[simp] theorem setEngine_compacts (s : State) (core : Nat) (m : Matrix) : (setEngine s core m).compacts = s.compacts := rfl
@[simp] theorem setEngine_probes (s : State) (core : Nat) (m : Matrix) : (setEngine s core m).probes = s.probes := rfl
@[simp] theorem setEngine_spad (s : State) (core : Nat) (m : Matrix) : (setEngine s core m).spad = s.spad := rfl
@[simp] theorem setEngine_poisonSpad (s : State) (core : Nat) (m : Matrix) : (setEngine s core m).poisonSpad = s.poisonSpad := rfl
@[simp] theorem setEngine_poisonRows (s : State) (core : Nat) (m : Matrix) : (setEngine s core m).poisonRows = s.poisonRows := rfl
@[simp] theorem setEngine_streams (s : State) (core : Nat) (m : Matrix) : (setEngine s core m).streams = s.streams := rfl
@[simp] theorem setEngine_hints (s : State) (core : Nat) (m : Matrix) : (setEngine s core m).hints = s.hints := rfl
@[simp] theorem setEngine_copies (s : State) (core : Nat) (m : Matrix) : (setEngine s core m).copies = s.copies := rfl
@[simp] theorem setEngine_rays (s : State) (core : Nat) (m : Matrix) : (setEngine s core m).rays = s.rays := rfl
@[simp] theorem setEngine_progs (s : State) (core : Nat) (m : Matrix) : (setEngine s core m).progs = s.progs := rfl
@[simp] theorem setEngine_merges (s : State) (core : Nat) (m : Matrix) : (setEngine s core m).merges = s.merges := rfl
@[simp] theorem setEngine_jobs (s : State) (core : Nat) (m : Matrix) : (setEngine s core m).jobs = s.jobs := rfl
@[simp] theorem setEngine_batches (s : State) (core : Nat) (m : Matrix) : (setEngine s core m).batches = s.batches := rfl
@[simp] theorem setEngine_waits (s : State) (core : Nat) (m : Matrix) : (setEngine s core m).waits = s.waits := rfl
@[simp] theorem setEngine_faults (s : State) (core : Nat) (m : Matrix) : (setEngine s core m).faults = s.faults := rfl
@[simp] theorem setEngine_fw (s : State) (core : Nat) (m : Matrix) : (setEngine s core m).fw = s.fw := rfl
@[simp] theorem setEngine_regs (s : State) (core : Nat) (m : Matrix) : (setEngine s core m).regs = s.regs := rfl
@[simp] theorem setEngine_policy (s : State) (core : Nat) (m : Matrix) : (setEngine s core m).policy = s.policy := rfl

/-! ## setAfflags -/

@[simp] theorem setAfflags_agenda (s : State) (asid : Nat) (v : Dword) : (setAfflags s asid v).agenda = s.agenda := rfl
@[simp] theorem setAfflags_turns (s : State) (asid : Nat) (v : Dword) : (setAfflags s asid v).turns = s.turns := rfl
@[simp] theorem setAfflags_draws (s : State) (asid : Nat) (v : Dword) : (setAfflags s asid v).draws = s.draws := rfl
@[simp] theorem setAfflags_cur (s : State) (asid : Nat) (v : Dword) : (setAfflags s asid v).cur = s.cur := rfl
@[simp] theorem setAfflags_curRay (s : State) (asid : Nat) (v : Dword) : (setAfflags s asid v).curRay = s.curRay := rfl
@[simp] theorem setAfflags_nextId (s : State) (asid : Nat) (v : Dword) : (setAfflags s asid v).nextId = s.nextId := rfl
@[simp] theorem setAfflags_nextGid (s : State) (asid : Nat) (v : Dword) : (setAfflags s asid v).nextGid = s.nextGid := rfl
@[simp] theorem setAfflags_pkg (s : State) (asid : Nat) (v : Dword) : (setAfflags s asid v).pkg = s.pkg := rfl
@[simp] theorem setAfflags_gov (s : State) (asid : Nat) (v : Dword) : (setAfflags s asid v).gov = s.gov := rfl
@[simp] theorem setAfflags_mem (s : State) (asid : Nat) (v : Dword) : (setAfflags s asid v).mem = s.mem := rfl
@[simp] theorem setAfflags_reqs (s : State) (asid : Nat) (v : Dword) : (setAfflags s asid v).reqs = s.reqs := rfl
@[simp] theorem setAfflags_coh (s : State) (asid : Nat) (v : Dword) : (setAfflags s asid v).coh = s.coh := rfl
@[simp] theorem setAfflags_groups (s : State) (asid : Nat) (v : Dword) : (setAfflags s asid v).groups = s.groups := rfl
@[simp] theorem setAfflags_crews (s : State) (asid : Nat) (v : Dword) : (setAfflags s asid v).crews = s.crews := rfl
@[simp] theorem setAfflags_grids (s : State) (asid : Nat) (v : Dword) : (setAfflags s asid v).grids = s.grids := rfl
@[simp] theorem setAfflags_queues (s : State) (asid : Nat) (v : Dword) : (setAfflags s asid v).queues = s.queues := rfl
@[simp] theorem setAfflags_rr (s : State) (asid : Nat) (v : Dword) : (setAfflags s asid v).rr = s.rr := rfl
@[simp] theorem setAfflags_saved (s : State) (asid : Nat) (v : Dword) : (setAfflags s asid v).saved = s.saved := rfl
@[simp] theorem setAfflags_adds (s : State) (asid : Nat) (v : Dword) : (setAfflags s asid v).adds = s.adds := rfl
@[simp] theorem setAfflags_conts (s : State) (asid : Nat) (v : Dword) : (setAfflags s asid v).conts = s.conts := rfl
@[simp] theorem setAfflags_launches (s : State) (asid : Nat) (v : Dword) : (setAfflags s asid v).launches = s.launches := rfl
@[simp] theorem setAfflags_sbars (s : State) (asid : Nat) (v : Dword) : (setAfflags s asid v).sbars = s.sbars := rfl
@[simp] theorem setAfflags_compacts (s : State) (asid : Nat) (v : Dword) : (setAfflags s asid v).compacts = s.compacts := rfl
@[simp] theorem setAfflags_probes (s : State) (asid : Nat) (v : Dword) : (setAfflags s asid v).probes = s.probes := rfl
@[simp] theorem setAfflags_spad (s : State) (asid : Nat) (v : Dword) : (setAfflags s asid v).spad = s.spad := rfl
@[simp] theorem setAfflags_poisonSpad (s : State) (asid : Nat) (v : Dword) : (setAfflags s asid v).poisonSpad = s.poisonSpad := rfl
@[simp] theorem setAfflags_poisonRows (s : State) (asid : Nat) (v : Dword) : (setAfflags s asid v).poisonRows = s.poisonRows := rfl
@[simp] theorem setAfflags_streams (s : State) (asid : Nat) (v : Dword) : (setAfflags s asid v).streams = s.streams := rfl
@[simp] theorem setAfflags_hints (s : State) (asid : Nat) (v : Dword) : (setAfflags s asid v).hints = s.hints := rfl
@[simp] theorem setAfflags_copies (s : State) (asid : Nat) (v : Dword) : (setAfflags s asid v).copies = s.copies := rfl
@[simp] theorem setAfflags_engines (s : State) (asid : Nat) (v : Dword) : (setAfflags s asid v).engines = s.engines := rfl
@[simp] theorem setAfflags_rays (s : State) (asid : Nat) (v : Dword) : (setAfflags s asid v).rays = s.rays := rfl
@[simp] theorem setAfflags_progs (s : State) (asid : Nat) (v : Dword) : (setAfflags s asid v).progs = s.progs := rfl
@[simp] theorem setAfflags_merges (s : State) (asid : Nat) (v : Dword) : (setAfflags s asid v).merges = s.merges := rfl
@[simp] theorem setAfflags_jobs (s : State) (asid : Nat) (v : Dword) : (setAfflags s asid v).jobs = s.jobs := rfl
@[simp] theorem setAfflags_batches (s : State) (asid : Nat) (v : Dword) : (setAfflags s asid v).batches = s.batches := rfl
@[simp] theorem setAfflags_waits (s : State) (asid : Nat) (v : Dword) : (setAfflags s asid v).waits = s.waits := rfl
@[simp] theorem setAfflags_faults (s : State) (asid : Nat) (v : Dword) : (setAfflags s asid v).faults = s.faults := rfl
@[simp] theorem setAfflags_fw (s : State) (asid : Nat) (v : Dword) : (setAfflags s asid v).fw = s.fw := rfl
@[simp] theorem setAfflags_regs (s : State) (asid : Nat) (v : Dword) : (setAfflags s asid v).regs = s.regs := rfl
@[simp] theorem setAfflags_policy (s : State) (asid : Nat) (v : Dword) : (setAfflags s asid v).policy = s.policy := rfl

/-! ## spadWrite -/

@[simp] theorem spadWrite_agenda (s : State) (core off : Nat) (bs : List Byte) : (spadWrite s core off bs).agenda = s.agenda := rfl
@[simp] theorem spadWrite_turns (s : State) (core off : Nat) (bs : List Byte) : (spadWrite s core off bs).turns = s.turns := rfl
@[simp] theorem spadWrite_draws (s : State) (core off : Nat) (bs : List Byte) : (spadWrite s core off bs).draws = s.draws := rfl
@[simp] theorem spadWrite_cur (s : State) (core off : Nat) (bs : List Byte) : (spadWrite s core off bs).cur = s.cur := rfl
@[simp] theorem spadWrite_curRay (s : State) (core off : Nat) (bs : List Byte) : (spadWrite s core off bs).curRay = s.curRay := rfl
@[simp] theorem spadWrite_nextId (s : State) (core off : Nat) (bs : List Byte) : (spadWrite s core off bs).nextId = s.nextId := rfl
@[simp] theorem spadWrite_nextGid (s : State) (core off : Nat) (bs : List Byte) : (spadWrite s core off bs).nextGid = s.nextGid := rfl
@[simp] theorem spadWrite_pkg (s : State) (core off : Nat) (bs : List Byte) : (spadWrite s core off bs).pkg = s.pkg := rfl
@[simp] theorem spadWrite_gov (s : State) (core off : Nat) (bs : List Byte) : (spadWrite s core off bs).gov = s.gov := rfl
@[simp] theorem spadWrite_mem (s : State) (core off : Nat) (bs : List Byte) : (spadWrite s core off bs).mem = s.mem := rfl
@[simp] theorem spadWrite_reqs (s : State) (core off : Nat) (bs : List Byte) : (spadWrite s core off bs).reqs = s.reqs := rfl
@[simp] theorem spadWrite_xl (s : State) (core off : Nat) (bs : List Byte) : (spadWrite s core off bs).xl = s.xl := rfl
@[simp] theorem spadWrite_coh (s : State) (core off : Nat) (bs : List Byte) : (spadWrite s core off bs).coh = s.coh := rfl
@[simp] theorem spadWrite_groups (s : State) (core off : Nat) (bs : List Byte) : (spadWrite s core off bs).groups = s.groups := rfl
@[simp] theorem spadWrite_crews (s : State) (core off : Nat) (bs : List Byte) : (spadWrite s core off bs).crews = s.crews := rfl
@[simp] theorem spadWrite_grids (s : State) (core off : Nat) (bs : List Byte) : (spadWrite s core off bs).grids = s.grids := rfl
@[simp] theorem spadWrite_queues (s : State) (core off : Nat) (bs : List Byte) : (spadWrite s core off bs).queues = s.queues := rfl
@[simp] theorem spadWrite_rr (s : State) (core off : Nat) (bs : List Byte) : (spadWrite s core off bs).rr = s.rr := rfl
@[simp] theorem spadWrite_saved (s : State) (core off : Nat) (bs : List Byte) : (spadWrite s core off bs).saved = s.saved := rfl
@[simp] theorem spadWrite_adds (s : State) (core off : Nat) (bs : List Byte) : (spadWrite s core off bs).adds = s.adds := rfl
@[simp] theorem spadWrite_conts (s : State) (core off : Nat) (bs : List Byte) : (spadWrite s core off bs).conts = s.conts := rfl
@[simp] theorem spadWrite_launches (s : State) (core off : Nat) (bs : List Byte) : (spadWrite s core off bs).launches = s.launches := rfl
@[simp] theorem spadWrite_sbars (s : State) (core off : Nat) (bs : List Byte) : (spadWrite s core off bs).sbars = s.sbars := rfl
@[simp] theorem spadWrite_compacts (s : State) (core off : Nat) (bs : List Byte) : (spadWrite s core off bs).compacts = s.compacts := rfl
@[simp] theorem spadWrite_probes (s : State) (core off : Nat) (bs : List Byte) : (spadWrite s core off bs).probes = s.probes := rfl
@[simp] theorem spadWrite_poisonSpad (s : State) (core off : Nat) (bs : List Byte) : (spadWrite s core off bs).poisonSpad = s.poisonSpad := rfl
@[simp] theorem spadWrite_poisonRows (s : State) (core off : Nat) (bs : List Byte) : (spadWrite s core off bs).poisonRows = s.poisonRows := rfl
@[simp] theorem spadWrite_streams (s : State) (core off : Nat) (bs : List Byte) : (spadWrite s core off bs).streams = s.streams := rfl
@[simp] theorem spadWrite_hints (s : State) (core off : Nat) (bs : List Byte) : (spadWrite s core off bs).hints = s.hints := rfl
@[simp] theorem spadWrite_copies (s : State) (core off : Nat) (bs : List Byte) : (spadWrite s core off bs).copies = s.copies := rfl
@[simp] theorem spadWrite_engines (s : State) (core off : Nat) (bs : List Byte) : (spadWrite s core off bs).engines = s.engines := rfl
@[simp] theorem spadWrite_rays (s : State) (core off : Nat) (bs : List Byte) : (spadWrite s core off bs).rays = s.rays := rfl
@[simp] theorem spadWrite_progs (s : State) (core off : Nat) (bs : List Byte) : (spadWrite s core off bs).progs = s.progs := rfl
@[simp] theorem spadWrite_merges (s : State) (core off : Nat) (bs : List Byte) : (spadWrite s core off bs).merges = s.merges := rfl
@[simp] theorem spadWrite_jobs (s : State) (core off : Nat) (bs : List Byte) : (spadWrite s core off bs).jobs = s.jobs := rfl
@[simp] theorem spadWrite_batches (s : State) (core off : Nat) (bs : List Byte) : (spadWrite s core off bs).batches = s.batches := rfl
@[simp] theorem spadWrite_waits (s : State) (core off : Nat) (bs : List Byte) : (spadWrite s core off bs).waits = s.waits := rfl
@[simp] theorem spadWrite_faults (s : State) (core off : Nat) (bs : List Byte) : (spadWrite s core off bs).faults = s.faults := rfl
@[simp] theorem spadWrite_fw (s : State) (core off : Nat) (bs : List Byte) : (spadWrite s core off bs).fw = s.fw := rfl
@[simp] theorem spadWrite_regs (s : State) (core off : Nat) (bs : List Byte) : (spadWrite s core off bs).regs = s.regs := rfl
@[simp] theorem spadWrite_policy (s : State) (core off : Nat) (bs : List Byte) : (spadWrite s core off bs).policy = s.policy := rfl

/-! ## setRegs -/

@[simp] theorem setRegs_agenda (s : State) (r : Regs) : (setRegs s r).agenda = s.agenda := rfl
@[simp] theorem setRegs_turns (s : State) (r : Regs) : (setRegs s r).turns = s.turns := rfl
@[simp] theorem setRegs_draws (s : State) (r : Regs) : (setRegs s r).draws = s.draws := rfl
@[simp] theorem setRegs_cur (s : State) (r : Regs) : (setRegs s r).cur = s.cur := rfl
@[simp] theorem setRegs_curRay (s : State) (r : Regs) : (setRegs s r).curRay = s.curRay := rfl
@[simp] theorem setRegs_nextId (s : State) (r : Regs) : (setRegs s r).nextId = s.nextId := rfl
@[simp] theorem setRegs_nextGid (s : State) (r : Regs) : (setRegs s r).nextGid = s.nextGid := rfl
@[simp] theorem setRegs_pkg (s : State) (r : Regs) : (setRegs s r).pkg = s.pkg := rfl
@[simp] theorem setRegs_gov (s : State) (r : Regs) : (setRegs s r).gov = s.gov := rfl
@[simp] theorem setRegs_mem (s : State) (r : Regs) : (setRegs s r).mem = s.mem := rfl
@[simp] theorem setRegs_reqs (s : State) (r : Regs) : (setRegs s r).reqs = s.reqs := rfl
@[simp] theorem setRegs_xl (s : State) (r : Regs) : (setRegs s r).xl = s.xl := rfl
@[simp] theorem setRegs_coh (s : State) (r : Regs) : (setRegs s r).coh = s.coh := rfl
@[simp] theorem setRegs_groups (s : State) (r : Regs) : (setRegs s r).groups = s.groups := rfl
@[simp] theorem setRegs_crews (s : State) (r : Regs) : (setRegs s r).crews = s.crews := rfl
@[simp] theorem setRegs_grids (s : State) (r : Regs) : (setRegs s r).grids = s.grids := rfl
@[simp] theorem setRegs_queues (s : State) (r : Regs) : (setRegs s r).queues = s.queues := rfl
@[simp] theorem setRegs_rr (s : State) (r : Regs) : (setRegs s r).rr = s.rr := rfl
@[simp] theorem setRegs_saved (s : State) (r : Regs) : (setRegs s r).saved = s.saved := rfl
@[simp] theorem setRegs_adds (s : State) (r : Regs) : (setRegs s r).adds = s.adds := rfl
@[simp] theorem setRegs_conts (s : State) (r : Regs) : (setRegs s r).conts = s.conts := rfl
@[simp] theorem setRegs_launches (s : State) (r : Regs) : (setRegs s r).launches = s.launches := rfl
@[simp] theorem setRegs_sbars (s : State) (r : Regs) : (setRegs s r).sbars = s.sbars := rfl
@[simp] theorem setRegs_compacts (s : State) (r : Regs) : (setRegs s r).compacts = s.compacts := rfl
@[simp] theorem setRegs_probes (s : State) (r : Regs) : (setRegs s r).probes = s.probes := rfl
@[simp] theorem setRegs_spad (s : State) (r : Regs) : (setRegs s r).spad = s.spad := rfl
@[simp] theorem setRegs_poisonSpad (s : State) (r : Regs) : (setRegs s r).poisonSpad = s.poisonSpad := rfl
@[simp] theorem setRegs_poisonRows (s : State) (r : Regs) : (setRegs s r).poisonRows = s.poisonRows := rfl
@[simp] theorem setRegs_streams (s : State) (r : Regs) : (setRegs s r).streams = s.streams := rfl
@[simp] theorem setRegs_hints (s : State) (r : Regs) : (setRegs s r).hints = s.hints := rfl
@[simp] theorem setRegs_copies (s : State) (r : Regs) : (setRegs s r).copies = s.copies := rfl
@[simp] theorem setRegs_engines (s : State) (r : Regs) : (setRegs s r).engines = s.engines := rfl
@[simp] theorem setRegs_rays (s : State) (r : Regs) : (setRegs s r).rays = s.rays := rfl
@[simp] theorem setRegs_progs (s : State) (r : Regs) : (setRegs s r).progs = s.progs := rfl
@[simp] theorem setRegs_merges (s : State) (r : Regs) : (setRegs s r).merges = s.merges := rfl
@[simp] theorem setRegs_jobs (s : State) (r : Regs) : (setRegs s r).jobs = s.jobs := rfl
@[simp] theorem setRegs_batches (s : State) (r : Regs) : (setRegs s r).batches = s.batches := rfl
@[simp] theorem setRegs_waits (s : State) (r : Regs) : (setRegs s r).waits = s.waits := rfl
@[simp] theorem setRegs_faults (s : State) (r : Regs) : (setRegs s r).faults = s.faults := rfl
@[simp] theorem setRegs_fw (s : State) (r : Regs) : (setRegs s r).fw = s.fw := rfl
@[simp] theorem setRegs_policy (s : State) (r : Regs) : (setRegs s r).policy = s.policy := rfl

/-! ## nextSpc -/

@[simp] theorem nextSpc_gid (g : Group) : (nextSpc g).gid = g.gid := rfl
@[simp] theorem nextSpc_grid (g : Group) : (nextSpc g).grid = g.grid := rfl
@[simp] theorem nextSpc_crew (g : Group) : (nextSpc g).crew = g.crew := rfl
@[simp] theorem nextSpc_idx (g : Group) : (nextSpc g).idx = g.idx := rfl
@[simp] theorem nextSpc_core (g : Group) : (nextSpc g).core = g.core := rfl
@[simp] theorem nextSpc_asid (g : Group) : (nextSpc g).asid = g.asid := rfl
@[simp] theorem nextSpc_lpc (g : Group) : (nextSpc g).lpc = g.lpc := rfl
@[simp] theorem nextSpc_sregs (g : Group) : (nextSpc g).sregs = g.sregs := rfl
@[simp] theorem nextSpc_lanes (g : Group) : (nextSpc g).lanes = g.lanes := rfl
@[simp] theorem nextSpc_near (g : Group) : (nextSpc g).near = g.near := rfl
@[simp] theorem nextSpc_depth (g : Group) : (nextSpc g).depth = g.depth := rfl
@[simp] theorem nextSpc_queue (g : Group) : (nextSpc g).queue = g.queue := rfl
@[simp] theorem nextSpc_resv (g : Group) : (nextSpc g).resv = g.resv := rfl
@[simp] theorem nextSpc_pend (g : Group) : (nextSpc g).pend = g.pend := rfl
@[simp] theorem nextSpc_held (g : Group) : (nextSpc g).held = g.held := rfl
@[simp] theorem nextSpc_run (g : Group) : (nextSpc g).run = g.run := rfl
@[simp] theorem nextSpc_lrem (g : Group) : (nextSpc g).lrem = g.lrem := rfl
@[simp] theorem nextSpc_slips (g : Group) : (nextSpc g).slips = g.slips := rfl
@[simp] theorem nextSpc_fflags (g : Group) : (nextSpc g).fflags = g.fflags := rfl
@[simp] theorem nextSpc_fmtword (g : Group) : (nextSpc g).fmtword = g.fmtword := rfl
@[simp] theorem nextSpc_trapvec (g : Group) : (nextSpc g).trapvec = g.trapvec := rfl
@[simp] theorem nextSpc_idemspc (g : Group) : (nextSpc g).idemspc = g.idemspc := rfl
@[simp] theorem nextSpc_idemlpc (g : Group) : (nextSpc g).idemlpc = g.idemlpc := rfl
@[simp] theorem nextSpc_restarts (g : Group) : (nextSpc g).restarts = g.restarts := rfl
@[simp] theorem nextSpc_stkbase (g : Group) : (nextSpc g).stkbase = g.stkbase := rfl
@[simp] theorem nextSpc_stklimit (g : Group) : (nextSpc g).stklimit = g.stklimit := rfl
@[simp] theorem nextSpc_replay (g : Group) : (nextSpc g).replay = g.replay := rfl
@[simp] theorem nextSpc_stack (g : Group) : (nextSpc g).stack = g.stack := rfl
@[simp] theorem nextSpc_handler (g : Group) : (nextSpc g).handler = g.handler := rfl
@[simp] theorem nextSpc_park (g : Group) : (nextSpc g).park = g.park := rfl
@[simp] theorem nextSpc_waitFrom (g : Group) : (nextSpc g).waitFrom = g.waitFrom := rfl
@[simp] theorem nextSpc_probedAt (g : Group) : (nextSpc g).probedAt = g.probedAt := rfl
@[simp] theorem nextSpc_arrived (g : Group) : (nextSpc g).arrived = g.arrived := rfl
@[simp] theorem nextSpc_parkLane (g : Group) : (nextSpc g).parkLane = g.parkLane := rfl
@[simp] theorem nextSpc_answer (g : Group) : (nextSpc g).answer = g.answer := rfl
@[simp] theorem nextSpc_pipe (g : Group) : (nextSpc g).pipe = g.pipe := rfl
@[simp] theorem nextSpc_part (g : Group) : (nextSpc g).part = g.part := rfl
@[simp] theorem nextSpc_slot (g : Group) : (nextSpc g).slot = g.slot := rfl
@[simp] theorem nextSpc_age (g : Group) : (nextSpc g).age = g.age := rfl
@[simp] theorem nextSpc_fetch (g : Group) : (nextSpc g).fetch = g.fetch := rfl
@[simp] theorem nextSpc_frozenS (g : Group) : (nextSpc g).frozenS = g.frozenS := rfl
@[simp] theorem nextSpc_frozenL (g : Group) : (nextSpc g).frozenL = g.frozenL := rfl
@[simp] theorem nextSpc_infl (g : Group) : (nextSpc g).infl = g.infl := rfl
@[simp] theorem nextSpc_samp (g : Group) : (nextSpc g).samp = g.samp := rfl
@[simp] theorem nextSpc_fences (g : Group) : (nextSpc g).fences = g.fences := rfl
@[simp] theorem nextSpc_linked (g : Group) : (nextSpc g).linked = g.linked := rfl
@[simp] theorem nextSpc_pairWait (g : Group) : (nextSpc g).pairWait = g.pairWait := rfl
@[simp] theorem nextSpc_origins (g : Group) : (nextSpc g).origins = g.origins := rfl
@[simp] theorem nextSpc_exiting (g : Group) : (nextSpc g).exiting = g.exiting := rfl
@[simp] theorem nextSpc_ended (g : Group) : (nextSpc g).ended = g.ended := rfl
@[simp] theorem nextSpc_yielded (g : Group) : (nextSpc g).yielded = g.yielded := rfl
@[simp] theorem nextSpc_dim (g : Group) : (nextSpc g).dim = g.dim := rfl
@[simp] theorem nextSpc_offS (g : Group) : (nextSpc g).offS = none := rfl
@[simp] theorem nextSpc_offL (g : Group) : (nextSpc g).offL = g.offL := rfl
@[simp] theorem nextSpc_missS (g : Group) : (nextSpc g).missS = g.missS := rfl
@[simp] theorem nextSpc_missL (g : Group) : (nextSpc g).missL = g.missL := rfl
@[simp] theorem nextSpc_begun (g : Group) : (nextSpc g).begun = g.begun := rfl

/-! ## orFlags -/

@[simp] theorem orFlags_gid (g : Group) (f : Flags) : (orFlags g f).gid = g.gid := rfl
@[simp] theorem orFlags_grid (g : Group) (f : Flags) : (orFlags g f).grid = g.grid := rfl
@[simp] theorem orFlags_crew (g : Group) (f : Flags) : (orFlags g f).crew = g.crew := rfl
@[simp] theorem orFlags_idx (g : Group) (f : Flags) : (orFlags g f).idx = g.idx := rfl
@[simp] theorem orFlags_core (g : Group) (f : Flags) : (orFlags g f).core = g.core := rfl
@[simp] theorem orFlags_asid (g : Group) (f : Flags) : (orFlags g f).asid = g.asid := rfl
@[simp] theorem orFlags_spc (g : Group) (f : Flags) : (orFlags g f).spc = g.spc := rfl
@[simp] theorem orFlags_lpc (g : Group) (f : Flags) : (orFlags g f).lpc = g.lpc := rfl
@[simp] theorem orFlags_sregs (g : Group) (f : Flags) : (orFlags g f).sregs = g.sregs := rfl
@[simp] theorem orFlags_lanes (g : Group) (f : Flags) : (orFlags g f).lanes = g.lanes := rfl
@[simp] theorem orFlags_near (g : Group) (f : Flags) : (orFlags g f).near = g.near := rfl
@[simp] theorem orFlags_depth (g : Group) (f : Flags) : (orFlags g f).depth = g.depth := rfl
@[simp] theorem orFlags_queue (g : Group) (f : Flags) : (orFlags g f).queue = g.queue := rfl
@[simp] theorem orFlags_resv (g : Group) (f : Flags) : (orFlags g f).resv = g.resv := rfl
@[simp] theorem orFlags_pend (g : Group) (f : Flags) : (orFlags g f).pend = g.pend := rfl
@[simp] theorem orFlags_held (g : Group) (f : Flags) : (orFlags g f).held = g.held := rfl
@[simp] theorem orFlags_run (g : Group) (f : Flags) : (orFlags g f).run = g.run := rfl
@[simp] theorem orFlags_lrem (g : Group) (f : Flags) : (orFlags g f).lrem = g.lrem := rfl
@[simp] theorem orFlags_slips (g : Group) (f : Flags) : (orFlags g f).slips = g.slips := rfl
@[simp] theorem orFlags_fmtword (g : Group) (f : Flags) : (orFlags g f).fmtword = g.fmtword := rfl
@[simp] theorem orFlags_trapvec (g : Group) (f : Flags) : (orFlags g f).trapvec = g.trapvec := rfl
@[simp] theorem orFlags_idemspc (g : Group) (f : Flags) : (orFlags g f).idemspc = g.idemspc := rfl
@[simp] theorem orFlags_idemlpc (g : Group) (f : Flags) : (orFlags g f).idemlpc = g.idemlpc := rfl
@[simp] theorem orFlags_restarts (g : Group) (f : Flags) : (orFlags g f).restarts = g.restarts := rfl
@[simp] theorem orFlags_stkbase (g : Group) (f : Flags) : (orFlags g f).stkbase = g.stkbase := rfl
@[simp] theorem orFlags_stklimit (g : Group) (f : Flags) : (orFlags g f).stklimit = g.stklimit := rfl
@[simp] theorem orFlags_replay (g : Group) (f : Flags) : (orFlags g f).replay = g.replay := rfl
@[simp] theorem orFlags_stack (g : Group) (f : Flags) : (orFlags g f).stack = g.stack := rfl
@[simp] theorem orFlags_handler (g : Group) (f : Flags) : (orFlags g f).handler = g.handler := rfl
@[simp] theorem orFlags_park (g : Group) (f : Flags) : (orFlags g f).park = g.park := rfl
@[simp] theorem orFlags_target (g : Group) (f : Flags) : (orFlags g f).target = g.target := rfl
@[simp] theorem orFlags_waitFrom (g : Group) (f : Flags) : (orFlags g f).waitFrom = g.waitFrom := rfl
@[simp] theorem orFlags_probedAt (g : Group) (f : Flags) : (orFlags g f).probedAt = g.probedAt := rfl
@[simp] theorem orFlags_carried (g : Group) (f : Flags) : (orFlags g f).carried = g.carried := rfl
@[simp] theorem orFlags_arrived (g : Group) (f : Flags) : (orFlags g f).arrived = g.arrived := rfl
@[simp] theorem orFlags_parkLane (g : Group) (f : Flags) : (orFlags g f).parkLane = g.parkLane := rfl
@[simp] theorem orFlags_answer (g : Group) (f : Flags) : (orFlags g f).answer = g.answer := rfl
@[simp] theorem orFlags_pipe (g : Group) (f : Flags) : (orFlags g f).pipe = g.pipe := rfl
@[simp] theorem orFlags_part (g : Group) (f : Flags) : (orFlags g f).part = g.part := rfl
@[simp] theorem orFlags_slot (g : Group) (f : Flags) : (orFlags g f).slot = g.slot := rfl
@[simp] theorem orFlags_age (g : Group) (f : Flags) : (orFlags g f).age = g.age := rfl
@[simp] theorem orFlags_fetch (g : Group) (f : Flags) : (orFlags g f).fetch = g.fetch := rfl
@[simp] theorem orFlags_frozenS (g : Group) (f : Flags) : (orFlags g f).frozenS = g.frozenS := rfl
@[simp] theorem orFlags_frozenL (g : Group) (f : Flags) : (orFlags g f).frozenL = g.frozenL := rfl
@[simp] theorem orFlags_infl (g : Group) (f : Flags) : (orFlags g f).infl = g.infl := rfl
@[simp] theorem orFlags_samp (g : Group) (f : Flags) : (orFlags g f).samp = g.samp := rfl
@[simp] theorem orFlags_fences (g : Group) (f : Flags) : (orFlags g f).fences = g.fences := rfl
@[simp] theorem orFlags_linked (g : Group) (f : Flags) : (orFlags g f).linked = g.linked := rfl
@[simp] theorem orFlags_pairWait (g : Group) (f : Flags) : (orFlags g f).pairWait = g.pairWait := rfl
@[simp] theorem orFlags_origins (g : Group) (f : Flags) : (orFlags g f).origins = g.origins := rfl
@[simp] theorem orFlags_exiting (g : Group) (f : Flags) : (orFlags g f).exiting = g.exiting := rfl
@[simp] theorem orFlags_ended (g : Group) (f : Flags) : (orFlags g f).ended = g.ended := rfl
@[simp] theorem orFlags_yielded (g : Group) (f : Flags) : (orFlags g f).yielded = g.yielded := rfl
@[simp] theorem orFlags_dim (g : Group) (f : Flags) : (orFlags g f).dim = g.dim := rfl
@[simp] theorem orFlags_offS (g : Group) (f : Flags) : (orFlags g f).offS = g.offS := rfl
@[simp] theorem orFlags_offL (g : Group) (f : Flags) : (orFlags g f).offL = g.offL := rfl
@[simp] theorem orFlags_missS (g : Group) (f : Flags) : (orFlags g f).missS = g.missS := rfl
@[simp] theorem orFlags_missL (g : Group) (f : Flags) : (orFlags g f).missL = g.missL := rfl
@[simp] theorem orFlags_begun (g : Group) (f : Flags) : (orFlags g f).begun = g.begun := rfl

/-! ## setScal -/

@[simp] theorem setScal_gid (g : Group) (n : Nat) (v : Dword) : (setScal g n v).gid = g.gid := by unfold setScal; split <;> rfl
@[simp] theorem setScal_grid (g : Group) (n : Nat) (v : Dword) : (setScal g n v).grid = g.grid := by unfold setScal; split <;> rfl
@[simp] theorem setScal_crew (g : Group) (n : Nat) (v : Dword) : (setScal g n v).crew = g.crew := by unfold setScal; split <;> rfl
@[simp] theorem setScal_idx (g : Group) (n : Nat) (v : Dword) : (setScal g n v).idx = g.idx := by unfold setScal; split <;> rfl
@[simp] theorem setScal_core (g : Group) (n : Nat) (v : Dword) : (setScal g n v).core = g.core := by unfold setScal; split <;> rfl
@[simp] theorem setScal_asid (g : Group) (n : Nat) (v : Dword) : (setScal g n v).asid = g.asid := by unfold setScal; split <;> rfl
@[simp] theorem setScal_spc (g : Group) (n : Nat) (v : Dword) : (setScal g n v).spc = g.spc := by unfold setScal; split <;> rfl
@[simp] theorem setScal_lpc (g : Group) (n : Nat) (v : Dword) : (setScal g n v).lpc = g.lpc := by unfold setScal; split <;> rfl
@[simp] theorem setScal_lanes (g : Group) (n : Nat) (v : Dword) : (setScal g n v).lanes = g.lanes := by unfold setScal; split <;> rfl
@[simp] theorem setScal_near (g : Group) (n : Nat) (v : Dword) : (setScal g n v).near = g.near := by unfold setScal; split <;> rfl
@[simp] theorem setScal_depth (g : Group) (n : Nat) (v : Dword) : (setScal g n v).depth = g.depth := by unfold setScal; split <;> rfl
@[simp] theorem setScal_queue (g : Group) (n : Nat) (v : Dword) : (setScal g n v).queue = g.queue := by unfold setScal; split <;> rfl
@[simp] theorem setScal_resv (g : Group) (n : Nat) (v : Dword) : (setScal g n v).resv = g.resv := by unfold setScal; split <;> rfl
@[simp] theorem setScal_pend (g : Group) (n : Nat) (v : Dword) : (setScal g n v).pend = g.pend := by unfold setScal; split <;> rfl
@[simp] theorem setScal_held (g : Group) (n : Nat) (v : Dword) : (setScal g n v).held = g.held := by unfold setScal; split <;> rfl
@[simp] theorem setScal_run (g : Group) (n : Nat) (v : Dword) : (setScal g n v).run = g.run := by unfold setScal; split <;> rfl
@[simp] theorem setScal_lrem (g : Group) (n : Nat) (v : Dword) : (setScal g n v).lrem = g.lrem := by unfold setScal; split <;> rfl
@[simp] theorem setScal_slips (g : Group) (n : Nat) (v : Dword) : (setScal g n v).slips = g.slips := by unfold setScal; split <;> rfl
@[simp] theorem setScal_fflags (g : Group) (n : Nat) (v : Dword) : (setScal g n v).fflags = g.fflags := by unfold setScal; split <;> rfl
@[simp] theorem setScal_fmtword (g : Group) (n : Nat) (v : Dword) : (setScal g n v).fmtword = g.fmtword := by unfold setScal; split <;> rfl
@[simp] theorem setScal_trapvec (g : Group) (n : Nat) (v : Dword) : (setScal g n v).trapvec = g.trapvec := by unfold setScal; split <;> rfl
@[simp] theorem setScal_idemspc (g : Group) (n : Nat) (v : Dword) : (setScal g n v).idemspc = g.idemspc := by unfold setScal; split <;> rfl
@[simp] theorem setScal_idemlpc (g : Group) (n : Nat) (v : Dword) : (setScal g n v).idemlpc = g.idemlpc := by unfold setScal; split <;> rfl
@[simp] theorem setScal_restarts (g : Group) (n : Nat) (v : Dword) : (setScal g n v).restarts = g.restarts := by unfold setScal; split <;> rfl
@[simp] theorem setScal_stkbase (g : Group) (n : Nat) (v : Dword) : (setScal g n v).stkbase = g.stkbase := by unfold setScal; split <;> rfl
@[simp] theorem setScal_stklimit (g : Group) (n : Nat) (v : Dword) : (setScal g n v).stklimit = g.stklimit := by unfold setScal; split <;> rfl
@[simp] theorem setScal_replay (g : Group) (n : Nat) (v : Dword) : (setScal g n v).replay = g.replay := by unfold setScal; split <;> rfl
@[simp] theorem setScal_stack (g : Group) (n : Nat) (v : Dword) : (setScal g n v).stack = g.stack := by unfold setScal; split <;> rfl
@[simp] theorem setScal_handler (g : Group) (n : Nat) (v : Dword) : (setScal g n v).handler = g.handler := by unfold setScal; split <;> rfl
@[simp] theorem setScal_park (g : Group) (n : Nat) (v : Dword) : (setScal g n v).park = g.park := by unfold setScal; split <;> rfl
@[simp] theorem setScal_target (g : Group) (n : Nat) (v : Dword) : (setScal g n v).target = g.target := by unfold setScal; split <;> rfl
@[simp] theorem setScal_waitFrom (g : Group) (n : Nat) (v : Dword) : (setScal g n v).waitFrom = g.waitFrom := by unfold setScal; split <;> rfl
@[simp] theorem setScal_probedAt (g : Group) (n : Nat) (v : Dword) : (setScal g n v).probedAt = g.probedAt := by unfold setScal; split <;> rfl
@[simp] theorem setScal_carried (g : Group) (n : Nat) (v : Dword) : (setScal g n v).carried = g.carried := by unfold setScal; split <;> rfl
@[simp] theorem setScal_arrived (g : Group) (n : Nat) (v : Dword) : (setScal g n v).arrived = g.arrived := by unfold setScal; split <;> rfl
@[simp] theorem setScal_parkLane (g : Group) (n : Nat) (v : Dword) : (setScal g n v).parkLane = g.parkLane := by unfold setScal; split <;> rfl
@[simp] theorem setScal_answer (g : Group) (n : Nat) (v : Dword) : (setScal g n v).answer = g.answer := by unfold setScal; split <;> rfl
@[simp] theorem setScal_pipe (g : Group) (n : Nat) (v : Dword) : (setScal g n v).pipe = g.pipe := by unfold setScal; split <;> rfl
@[simp] theorem setScal_part (g : Group) (n : Nat) (v : Dword) : (setScal g n v).part = g.part := by unfold setScal; split <;> rfl
@[simp] theorem setScal_slot (g : Group) (n : Nat) (v : Dword) : (setScal g n v).slot = g.slot := by unfold setScal; split <;> rfl
@[simp] theorem setScal_age (g : Group) (n : Nat) (v : Dword) : (setScal g n v).age = g.age := by unfold setScal; split <;> rfl
@[simp] theorem setScal_fetch (g : Group) (n : Nat) (v : Dword) : (setScal g n v).fetch = g.fetch := by unfold setScal; split <;> rfl
@[simp] theorem setScal_frozenS (g : Group) (n : Nat) (v : Dword) : (setScal g n v).frozenS = g.frozenS := by unfold setScal; split <;> rfl
@[simp] theorem setScal_frozenL (g : Group) (n : Nat) (v : Dword) : (setScal g n v).frozenL = g.frozenL := by unfold setScal; split <;> rfl
@[simp] theorem setScal_infl (g : Group) (n : Nat) (v : Dword) : (setScal g n v).infl = g.infl := by unfold setScal; split <;> rfl
@[simp] theorem setScal_samp (g : Group) (n : Nat) (v : Dword) : (setScal g n v).samp = g.samp := by unfold setScal; split <;> rfl
@[simp] theorem setScal_fences (g : Group) (n : Nat) (v : Dword) : (setScal g n v).fences = g.fences := by unfold setScal; split <;> rfl
@[simp] theorem setScal_linked (g : Group) (n : Nat) (v : Dword) : (setScal g n v).linked = g.linked := by unfold setScal; split <;> rfl
@[simp] theorem setScal_pairWait (g : Group) (n : Nat) (v : Dword) : (setScal g n v).pairWait = g.pairWait := by unfold setScal; split <;> rfl
@[simp] theorem setScal_origins (g : Group) (n : Nat) (v : Dword) : (setScal g n v).origins = g.origins := by unfold setScal; split <;> rfl
@[simp] theorem setScal_exiting (g : Group) (n : Nat) (v : Dword) : (setScal g n v).exiting = g.exiting := by unfold setScal; split <;> rfl
@[simp] theorem setScal_ended (g : Group) (n : Nat) (v : Dword) : (setScal g n v).ended = g.ended := by unfold setScal; split <;> rfl
@[simp] theorem setScal_yielded (g : Group) (n : Nat) (v : Dword) : (setScal g n v).yielded = g.yielded := by unfold setScal; split <;> rfl
@[simp] theorem setScal_dim (g : Group) (n : Nat) (v : Dword) : (setScal g n v).dim = g.dim := by unfold setScal; split <;> rfl
@[simp] theorem setScal_offS (g : Group) (n : Nat) (v : Dword) : (setScal g n v).offS = g.offS := by unfold setScal; split <;> rfl
@[simp] theorem setScal_offL (g : Group) (n : Nat) (v : Dword) : (setScal g n v).offL = g.offL := by unfold setScal; split <;> rfl
@[simp] theorem setScal_missS (g : Group) (n : Nat) (v : Dword) : (setScal g n v).missS = g.missS := by unfold setScal; split <;> rfl
@[simp] theorem setScal_missL (g : Group) (n : Nat) (v : Dword) : (setScal g n v).missL = g.missL := by unfold setScal; split <;> rfl
@[simp] theorem setScal_begun (g : Group) (n : Nat) (v : Dword) : (setScal g n v).begun = g.begun := by unfold setScal; split <;> rfl

@[simp] theorem nextSpc_spc (g : Group) : (nextSpc g).spc = g.spc + 4 := rfl
@[simp] theorem orFlags_fflags (g : Group) (f : Flags) : (orFlags g f).fflags = g.fflags ||| f := rfl
@[simp] theorem setG_groups (s : State) (g : Group) : (setG s g).groups = putGroup s.groups g := rfl

end Sys2Proof.Machine
end

