-- ==== Sys2Proof/Laws/Ops.lean ====
section
/-! SUPPORT. What the shared operations do, once for each: finding and replacing the group whose turn it is,
registers, and the issue of scalar and lane instructions. -/

namespace Sys2Proof.Machine

/-! ## Groups -/

theorem findGroup_gid {gs : List Group} {n : Nat} {g : Group} (h : findGroup gs n = some g) : g.gid = n := by
  have := List.find?_some h
  simpa using this

/-- Replacing a group that is there is read back. -/
theorem findGroup_put {gs : List Group} {n : Nat} {g g' : Group} (h : findGroup gs n = some g) (hg : g'.gid = g.gid) :
    findGroup (putGroup gs g') n = some g' := by
  have hn : g'.gid = n := hg.trans (findGroup_gid h)
  induction gs with
  | nil => simp [findGroup] at h
  | cons x r ih =>
    simp only [findGroup, List.find?_cons] at h ih ⊢
    simp only [putGroup, List.map_cons, List.find?_cons] at ih ⊢
    by_cases hx : x.gid = n
    · simp [hx, hn]
    · have hx' : (x.gid == n) = false := by simpa using hx
      simp only [hx'] at h
      have : ¬ x.gid = g'.gid := by rw [hn]; exact hx
      simp only [this, if_false, hx']
      exact ih h

/-- Replacing one group leaves every other in place. -/
theorem findGroup_put_ne {gs : List Group} {n : Nat} {g : Group} (h : n ≠ g.gid) :
    findGroup (putGroup gs g) n = findGroup gs n := by
  induction gs with
  | nil => rfl
  | cons x r ih =>
    simp only [findGroup, putGroup, List.map_cons, List.find?_cons] at ih ⊢
    by_cases hx : x.gid = g.gid
    · have h1 : (g.gid == n) = false := by simpa using fun e => h e.symm
      simp only [hx, if_true, h1]; exact ih
    · simp only [hx, if_false, ih]

theorem curG_gid {s : State} {g : Group} (h : curG s = some g) : g.gid = s.cur := findGroup_gid h

/-- The group whose turn it is, after it has been replaced. -/
theorem curG_setG {s : State} {g g' : Group} (h : curG s = some g) (hg : g'.gid = g.gid) :
    curG (setG s g') = some g' := findGroup_put h hg

theorem onG_some {s : State} {g : Group} (h : curG s = some g) (f : Group → State) : onG s f = f g := by
  unfold onG; rw [h]

/-! ## Registers -/

@[simp] theorem scal_zero (g : Group) : scal g 0 = 0 := rfl

/-- A scalar register after a write: s0 stays 0, and no other register changes (R32). -/
theorem scal_setScal (g : Group) (n m : Nat) (v : Dword) :
    scal (setScal g n v) m = if m = n ∧ n ≠ 0 then v else scal g m := by
  unfold scal setScal
  by_cases hn : n = 0
  · subst hn; simp
  · by_cases hm : m = n
    · subst hm; simp [hn]
    · simp only [hn, if_false, hm, false_and]
      rw [Cells.get_set_ne 0 g.sregs v hm]

theorem lane_setLane {g : Group} (r t r' t' : Nat) (v : Dword) (ht : t < 32) (ht' : t' < 32) :
    lane { g with lanes := setLane g.lanes r t v } r' t' = if r' = r ∧ t' = t then v else lane g r' t' := by
  unfold lane setLane
  by_cases h : r' = r ∧ t' = t
  · obtain ⟨rfl, rfl⟩ := h; simp
  · rw [if_neg h, Cells.get_set_ne]
    intro e
    apply h
    omega

/-! ## Issue -/

/-- With no reserved register among those it names, a scalar instruction runs (R40). -/
theorem scalarIssue_go {s : State} {g : Group} {regs : List SReg} (hc : curG s = some g)
    (hr : scalarHazard g regs = none) (body : Group → State) : scalarIssue s regs body = body g := by
  unfold scalarIssue; rw [onG_some hc, hr]

/-- With a reserved register, it takes HAZARD (R40). -/
theorem scalarIssue_hazard {s : State} {g : Group} {regs : List SReg} {r : SReg} (hc : curG s = some g)
    (hr : scalarHazard g regs = some r) (body : Group → State) :
    scalarIssue s regs body = trapScalar s g tHazard r.toNat := by
  unfold scalarIssue; rw [onG_some hc, hr]

theorem scalarHazard_none {g : Group} {regs : List SReg} :
    scalarHazard g regs = none ↔ ∀ r ∈ regs, reserved g r.toNat = false := by
  simp [scalarHazard]

/-- A scalar result that is no stack pointer outside its stack is written, and SPC goes on (R37, R119). -/
theorem scalarDone_go {s : State} {g : Group} {d : SReg} {v : Dword} (h : ¬ (d = 63 ∧ stackBad g v = true)) :
    scalarDone s g d v = setG s (nextSpc (setScal g d.toNat v)) := by
  unfold scalarDone; rw [if_neg h]

/-- A stack pointer outside its stack takes STACK (R119). -/
theorem scalarDone_stack {s : State} {g : Group} {d : SReg} {v : Dword} (h : d = 63 ∧ stackBad g v = true) :
    scalarDone s g d v = trapScalar s g tStack v.toNat := by
  unfold scalarDone; rw [if_pos h]

theorem scalarOp_go {s : State} {g : Group} {d : SReg} {srcs : List SReg} {v : Group → Dword}
    (hc : curG s = some g) (hr : scalarHazard g (srcs ++ [d]) = none) (hs : ¬ (d = 63 ∧ stackBad g (v g) = true)) :
    scalarOp s d srcs v = setG s (nextSpc (setScal g d.toNat (v g))) := by
  unfold scalarOp; rw [scalarIssue_go hc hr, scalarDone_go hs]

/-- What the checks at issue need: no row pending or held, no poison in a row that is read (R44, R282). -/
theorem gate_go {s : State} {g : Group} {reads writes : List Nat}
    (hp : ∀ r ∈ reads ++ writes, r ∉ g.pend ∧ r ∉ g.held) (hq : ∀ r ∈ reads, (g.gid, r) ∉ s.poisonRows) :
    gate s g reads writes = .go := by
  unfold gate
  have h1 : ((reads ++ writes).find? fun r => g.pend.contains r || g.held.contains r) = none := by
    rw [List.find?_eq_none]
    intro r hr
    simpa using hp r hr
  have h2 : (reads.find? fun r => s.poisonRows.contains (g.gid, r)) = none := by
    rw [List.find?_eq_none]
    intro r hr
    simpa using hq r hr
  rw [h1, h2]

/-- A lane instruction that passes the checks at issue runs (R44). -/
theorem laneIssue_go {s : State} {g : Group} {q : QEntry} {r : List QEntry} {reads writes : List Nat}
    (hc : curG s = some g) (hq : g.queue = q :: r) (hg : gate s g reads writes = .go) (body : Group → QEntry → State) :
    laneIssue s reads writes body = body g q := by
  unfold laneIssue; rw [onG_some hc]; simp only [hq, hg]

theorem laneExec_go {s : State} {g : Group} {q : QEntry} {r : List QEntry} {i : Instr} (hc : curG s = some g)
    (hq : g.queue = q :: r) (hg : gate s g (laneRows i).1 (laneRows i).2 = .go) (body : Group → QEntry → State) :
    laneExec s i body = body g q := laneIssue_go hc hq hg body

/-! ## The lane pass -/

/-- Writing rows that differ from one another in one thread. -/
theorem get_foldl_rows (ps : List (Nat × Dword)) (c : Cells Dword) (t r t' : Nat) (ht : t < 32) (ht' : t' < 32)
    (h : t' ≠ t ∨ r ∉ ps.map Prod.fst) :
    Cells.get 0 (ps.foldl (fun c rv => setLane c rv.1 t rv.2) c) (32 * r + t') = Cells.get 0 c (32 * r + t') := by
  induction ps generalizing c with
  | nil => rfl
  | cons x l ih =>
    simp only [List.foldl_cons]
    rw [ih]
    · unfold setLane
      rw [Cells.get_set_ne]
      intro e
      rcases h with h | h
      · omega
      · apply h
        have : r = x.1 := by omega
        simp [this]
    · rcases h with h | h
      · exact .inl h
      · exact .inr fun hm => h (by simp [hm])

/-- One thread's part of a pass with one destination row. -/
def passOne (d : Nat) (mz : Bool) (act : List Nat) (v : Nat → Dword) (c : Cells Dword) (t : Nat) : Cells Dword :=
  if act.contains t then setLane c d t (v t) else if mz then setLane c d t 0 else c

theorem passRows_one (c : Cells Dword) (d : Nat) (mz : Bool) (act : List Nat) (v : Nat → Dword) :
    passRows c [d] mz act (fun t => [v t]) = (List.range 32).foldl (passOne d mz act v) c := rfl

theorem get_passOne {d : Nat} {mz : Bool} {act : List Nat} {v : Nat → Dword} (c : Cells Dword) (t r t' : Nat)
    (ht : t < 32) (ht' : t' < 32) :
    Cells.get 0 (passOne d mz act v c t) (32 * r + t') =
      if r = d ∧ t' = t then
        (if act.contains t then v t else if mz then 0 else Cells.get 0 c (32 * r + t'))
      else Cells.get 0 c (32 * r + t') := by
  unfold passOne setLane
  by_cases h : r = d ∧ t' = t
  · obtain ⟨rfl, rfl⟩ := h
    simp only [and_self, if_true]
    split_ifs <;> simp
  · have hne : 32 * r + t' ≠ 32 * d + t := by omega
    rw [if_neg h]
    split_ifs <;> first | rfl | exact Cells.get_set_ne 0 c _ hne

theorem get_passFold {d : Nat} {mz : Bool} {act : List Nat} {v : Nat → Dword} (l : List Nat) (hl : ∀ t ∈ l, t < 32)
    (hn : l.Nodup) (c : Cells Dword) (r t' : Nat) (ht' : t' < 32) :
    Cells.get 0 (l.foldl (passOne d mz act v) c) (32 * r + t') =
      if r = d ∧ t' ∈ l then
        (if act.contains t' then v t' else if mz then 0 else Cells.get 0 c (32 * r + t'))
      else Cells.get 0 c (32 * r + t') := by
  induction l generalizing c with
  | nil => simp
  | cons x l ih =>
    have hx : x < 32 := hl x (by simp)
    have hn' := List.nodup_cons.1 hn
    rw [List.foldl_cons, ih (fun t ht => hl t (by simp [ht])) hn'.2, get_passOne c x r t' hx ht']
    by_cases hr : r = d
    · by_cases h1 : t' = x
      · subst h1
        have : t' ∉ l := hn'.1
        simp [hr, this]
      · by_cases h2 : t' ∈ l <;> simp [hr, h1, h2]
    · simp [hr]

/-- A pass with one destination row: an active thread gets its value, an inactive one 0 under zeroing and else what it
had, and no other row changes (R34, R67, R68). -/
theorem get_passRows (c : Cells Dword) (d : Nat) (mz : Bool) (act : List Nat) (v : Nat → Dword) (r t : Nat)
    (ht : t < 32) :
    Cells.get 0 (passRows c [d] mz act (fun t => [v t])) (32 * r + t) =
      if r = d then
        (if act.contains t then v t else if mz then 0 else Cells.get 0 c (32 * r + t))
      else Cells.get 0 c (32 * r + t) := by
  rw [passRows_one, get_passFold _ (fun t ht => List.mem_range.1 ht) List.nodup_range c r t ht]
  simp [ht]

theorem mem_actives {g : Group} {q : QEntry} {f : LaneForm} {t : Nat} :
    t ∈ actives g q f ↔ t < 32 ∧ passes g q f t = true := by
  simp [actives]

/-! ### After entry -/

@[simp] theorem entered_gid (g : Group) (f : LaneForm) : (entered g f).gid = g.gid := by
  unfold entered; dsimp only; split_ifs <;> rfl
@[simp] theorem entered_lanes (g : Group) (f : LaneForm) : (entered g f).lanes = g.lanes := by
  unfold entered; dsimp only; split_ifs <;> rfl
@[simp] theorem entered_queue (g : Group) (f : LaneForm) : (entered g f).queue = g.queue.tail := by
  unfold entered; dsimp only; split_ifs <;> rfl
@[simp] theorem entered_fflags (g : Group) (f : LaneForm) : (entered g f).fflags = g.fflags := by
  unfold entered; dsimp only; split_ifs <;> rfl
@[simp] theorem entered_sregs (g : Group) (f : LaneForm) : (entered g f).sregs = g.sregs := by
  unfold entered; dsimp only; split_ifs <;> rfl
@[simp] theorem entered_spc (g : Group) (f : LaneForm) : (entered g f).spc = g.spc := by
  unfold entered; dsimp only; split_ifs <;> rfl
@[simp] theorem entered_lpc (g : Group) (f : LaneForm) : (entered g f).lpc = g.lpc := by
  unfold entered; dsimp only; split_ifs <;> rfl
@[simp] theorem entered_resv (g : Group) (f : LaneForm) : (entered g f).resv = g.resv := by
  unfold entered; dsimp only; split_ifs <;> rfl
@[simp] theorem entered_pend (g : Group) (f : LaneForm) : (entered g f).pend = g.pend := by
  unfold entered; dsimp only; split_ifs <;> rfl
@[simp] theorem entered_handler (g : Group) (f : LaneForm) : (entered g f).handler = g.handler := by
  unfold entered; dsimp only; split_ifs <;> rfl

/-- A row that is clean afterwards changes poison marks only. -/
theorem cleanRows_eq (s : State) (g : Group) (f : LaneForm) (act rows : List Nat) :
    cleanRows s g f act rows = { s with poisonRows := (cleanRows s g f act rows).poisonRows } := by
  unfold cleanRows; split_ifs <;> rfl

theorem curG_cleanRows {s : State} {g x : Group} {f : LaneForm} {act rows : List Nat} (h : curG s = some g) :
    curG (cleanRows s x f act rows) = some g := by
  rw [cleanRows_eq]; exact h

/-- What a pass leaves: the group whose turn it is has its rows, its flags and its queue (R34, R80). -/
theorem curG_lanePass {s : State} {g : Group} (h : curG s = some g) (f : LaneForm) (rows : List Nat)
    (k : Group → QEntry → Nat → List Dword × Flags) (q : QEntry) :
    curG (lanePass s f rows k g q) = some
      (entered { orFlags g (unionFlags ((actives g q f).map fun t => (k g q (srcThr f (actives g q f) t)).2)) with
        lanes := passRows g.lanes rows (zeroing f) (actives g q f) fun t => (k g q (srcThr f (actives g q f) t)).1 } f) := by
  unfold lanePass
  apply curG_setG (g := g)
  · exact curG_cleanRows h
  · simp

end Sys2Proof.Machine
end

