-- ==== Sys2Proof/Laws/Mem.lean ====
section
/-! SUPPORT. Every memory operation keeps the canonical form, and what the home and the coherent value read after a
write. -/

namespace Sys2Proof.Machine

theorem memWf_iff {m : Mem} :
    memWf m = true ↔ Cells.wf 0 m.pool = true ∧ Cells.rising 0 m.loc = true ∧ Cells.rising 0 m.llc = true := by
  simp [memWf, and_assoc]

/-- The canonical form at reset. -/
theorem memWf_reset : memWf State.reset.mem = true := by decide

/-! ## The canonical form is kept -/

theorem memWf_homePut {m : Mem} (pa : Nat) (b : Byte) (h : memWf m = true) : memWf (homePut m pa b) = true := by
  rw [memWf_iff] at h ⊢
  exact ⟨h.1, h.2.1, Cells.rising_put b (Nat.zero_le _) h.2.2⟩

theorem memWf_poolPut {m : Mem} (pa : Nat) (b : Byte) (h : memWf m = true) : memWf (poolPut m pa b) = true := by
  rw [memWf_iff] at h ⊢
  exact ⟨Cells.wf_set _ _ h.1, h.2⟩

theorem memWf_homePuts {m : Mem} (pa : Nat) (bs : List Byte) (h : memWf m = true) :
    memWf (homePuts m pa bs) = true := by
  induction bs generalizing m pa with
  | nil => exact h
  | cons b r ih => exact ih _ (memWf_homePut pa b h)

/-- A fold of operations that each keep a property keeps it. -/
theorem foldl_keeps {α β : Type} {p : α → Prop} {f : α → β → α} (hf : ∀ a b, p a → p (f a b)) (l : List β) {a : α}
    (h : p a) : p (l.foldl f a) := by
  induction l generalizing a with
  | nil => exact h
  | cons x r ih => exact ih (hf a x h)

theorem memWf_mergeHome {m : Mem} (c : Cells Byte) (h : memWf m = true) : memWf (mergeHome m c) = true :=
  foldl_keeps (p := fun m => memWf m = true) (fun _ e hm => memWf_homePut e.1 e.2 hm) c h

theorem memWf_poolFold {m : Mem} (c : Cells Byte) (h : memWf m = true) :
    memWf (c.foldl (fun m e => poolPut m e.1 e.2) m) = true :=
  foldl_keeps (p := fun m => memWf m = true) (fun _ e hm => memWf_poolPut e.1 e.2 hm) c h

theorem rising_foldPut {lo : List (Nat × Byte)} {c : Cells Byte} (h : Cells.rising 0 c = true) :
    Cells.rising 0 (lo.foldl (fun c e => Cells.put c e.1 e.2) c) = true :=
  foldl_keeps (p := fun c => Cells.rising 0 c = true) (fun _ e hc => Cells.rising_put e.2 (Nat.zero_le _) hc) lo h

theorem memWf_setMark {m : Mem} (line : Nat) (bad : Bool) (h : memWf m = true) : memWf (setMark m line bad) = true := h

theorem memWf_putStash (s : State) {m : Mem} (core sl pl : Nat) (h : memWf m = true) :
    memWf (putStash s m core sl pl) = true := memWf_setMark _ _ (memWf_mergeHome _ h)

theorem memWf_recallStash {s : State} (pl : Nat) (drop : Bool) (h : memWf s.mem = true) :
    memWf (recallStash s pl drop).mem = true := by
  unfold recallStash
  dsimp only
  apply foldl_keeps (p := fun m => memWf m = true) _ _ h
  intro m d hm
  exact memWf_putStash s _ _ pl hm

theorem memWf_lineToPool {m : Mem} (line : Nat) (h : memWf m = true) : memWf (lineToPool m line) = true := by
  have h' := memWf_iff.1 (memWf_poolFold (m.llc.filter fun e => e.1 / 64 = line)
    (memWf_poolFold (m.loc.filter fun e => e.1 / 64 = line) h))
  exact memWf_iff.2 ⟨h'.1, Cells.rising_filter _ h'.2.1, Cells.rising_filter _ h'.2.2⟩

theorem memWf_sendHome {s : State} (line : Nat) (h : memWf s.mem = true) : memWf (sendHome s line).mem = true := by
  unfold sendHome
  split
  · exact memWf_lineToPool line h
  · exact h

theorem memWf_recallL1 {m : Mem} (line : Nat) (keep : L1Line → Bool) (h : memWf m = true) :
    memWf (recallL1 m line keep) = true := by
  have := foldl_keeps (p := fun m => memWf m = true) (f := fun m (l : L1Line) => mergeHome m l.bytes)
    (fun _ _ hm => memWf_mergeHome _ hm) (m.l1.filter fun l => l.line = line ∧ l.kind = .owned) h
  rw [memWf_iff] at this ⊢
  exact this

theorem memWf_recallLine {s : State} (line : Nat) (h : memWf s.mem = true) :
    memWf (recallLine s line).mem = true :=
  memWf_sendHome line (memWf_recallL1 line (fun _ => false) (memWf_recallStash line true h))

theorem memWf_cleanLine {s : State} (line : Nat) (h : memWf s.mem = true) :
    memWf (cleanLine s line).mem = true :=
  memWf_sendHome line (memWf_recallL1 _ _ (memWf_recallStash _ _ h))

theorem memWf_recallLate {s : State} (w : Writer) (line : Nat) (h : memWf s.mem = true) :
    memWf (recallLate s w line).mem = true :=
  memWf_recallL1 line (fun l => l.kind == .shared || l.core != w.core) (memWf_recallStash line true h)

theorem memWf_recallNow {s : State} (w : Writer) (line : Nat) (h : memWf s.mem = true) :
    memWf (recallNow s w line).mem = true :=
  memWf_recallL1 line (fun l => l.kind == .shared && l.core == w.core) (memWf_recallStash line true h)

theorem memWf_recallBy {s : State} (w : Writer) (line : Nat) (h : memWf s.mem = true) :
    memWf (recallBy s w line).mem = true := by
  unfold recallBy
  split
  · exact memWf_recallLate w line h
  · exact memWf_recallNow w line h

theorem memWf_touchFrame {s : State} (page : Nat) (dirty : Bool) (h : memWf s.mem = true) :
    memWf (touchFrame s page dirty).mem = true := by
  rw [memWf_iff] at h ⊢; exact h

theorem memWf_markPoison {s : State} (line : Nat) (h : memWf s.mem = true) :
    memWf (markPoison s line).mem = true := by
  rw [memWf_iff] at h ⊢; exact h

theorem memWf_flushLlc {s : State} (page : Nat) (h : memWf s.mem = true) : memWf (flushLlc s page).mem = true := by
  have h' := memWf_iff.1 h
  unfold flushLlc
  dsimp only
  split_ifs
  · rw [memWf_iff]
    exact ⟨h'.1, rising_foldPut h'.2.1, Cells.rising_filter _ h'.2.2⟩
  · apply memWf_poolFold
    rw [memWf_iff]
    exact ⟨h'.1, h'.2.1, Cells.rising_filter _ h'.2.2⟩

theorem memWf_flushFrame {s : State} (page : Nat) (h : memWf s.mem = true) :
    memWf (flushFrame s page).mem = true := by
  have h' := memWf_iff.1 h
  have : memWf ((s.mem.loc.filter fun e => pageOf e.1 = page).foldl (fun m e => poolPut m e.1 e.2)
      { s.mem with loc := s.mem.loc.filter fun e => pageOf e.1 ≠ page }) = true := by
    apply memWf_poolFold
    rw [memWf_iff]
    exact ⟨h'.1, Cells.rising_filter _ h'.2.1, h'.2.2⟩
  rw [memWf_iff] at this ⊢
  exact this

theorem memWf_recallPage {s : State} (page : Nat) (h : memWf s.mem = true) :
    memWf (recallPage s page).mem = true :=
  foldl_keeps (p := fun s : State => memWf s.mem = true) (fun _ _ hs => memWf_recallLine _ hs) _ h

theorem memWf_evictSector {s : State} (page : Nat) (h : memWf s.mem = true) :
    memWf (evictSector s page).mem = true := by
  have h' := memWf_flushLlc page (memWf_recallPage page h)
  unfold evictSector sectorLoses
  generalize flushLlc (recallPage s page) page = s' at h'
  exact h'

theorem memWf_sectorRoom {s : State} (page : Nat) (h : memWf s.mem = true) :
    memWf (sectorRoom s page).mem = true := by
  unfold sectorRoom
  dsimp only
  split
  · exact h
  · exact memWf_evictSector (s := { s with draws := s.draws + 1 }) _ h

theorem memWf_touchSector {s : State} (line : Nat) (h : memWf s.mem = true) :
    memWf (touchSector s line).mem = true := by
  unfold touchSector
  dsimp only
  split_ifs
  · exact h
  · exact h
  · have h' := memWf_sectorRoom (line / 64) h
    generalize sectorRoom s (line / 64) = s' at h'
    exact memWf_touchFrame (s := { s' with mem := { s'.mem with sectors := line / 64 :: s'.mem.sectors } }) _ _ h'

theorem memWf_homeStore {s : State} (w : Writer) (pa : Nat) (bs : List Byte) (h : memWf s.mem = true) :
    memWf (homeStore s w pa bs).mem = true :=
  memWf_sendHome _ (memWf_homePuts _ _ (foldl_keeps (p := fun s : State => memWf s.mem = true)
    (fun _ l hs => memWf_recallBy w l (memWf_touchSector l hs)) _ h))

/-- The messages of a write leave memory as the write has made it. -/
theorem writeLine_mem (s : State) (w : Writer) (pa : Nat) (bs : List Byte) :
    (writeLine s w pa bs).mem = (homeStore s w pa bs).mem := by
  unfold writeLine
  dsimp only
  split
  · rfl
  · apply foldl_keeps (p := fun t : State => t.mem = (homeStore s w pa bs).mem)
    · intro _ _ ht; exact ht
    · rfl

theorem memWf_writeLine {s : State} (w : Writer) (pa : Nat) (bs : List Byte) (h : memWf s.mem = true) :
    memWf (writeLine s w pa bs).mem = true := by
  rw [writeLine_mem]; exact memWf_homeStore w pa bs h

theorem memWf_writeLines {s : State} (w : Writer) (pa : Nat) (bs : List Byte) (fuel : Nat) (h : memWf s.mem = true) :
    memWf (writeLines s w pa bs fuel).mem = true := by
  induction fuel generalizing s w pa bs with
  | zero => cases bs <;> exact h
  | succ n ih =>
    cases bs with
    | nil => exact h
    | cons b r => exact ih _ _ _ (memWf_writeLine w pa _ h)

theorem memWf_writeBy {s : State} (w : Writer) (pa : Nat) (bs : List Byte) (h : memWf s.mem = true) :
    memWf (writeBy s w pa bs).mem = true := memWf_writeLines w pa bs _ h

theorem memWf_homeWrite {s : State} (pa : Nat) (bs : List Byte) (h : memWf s.mem = true) :
    memWf (homeWrite s pa bs).mem = true := memWf_writeBy _ pa bs h

theorem useHome_mem (s : State) (line : Nat) : (useHome s line).mem = s.mem := by
  unfold useHome
  split <;> rfl

/-! ## Charges and claims -/

/-- A charge that is made falls before the boundary, fits at every resource, and changes the budgets alone. -/
theorem chargeAll_some {s t : State} {cls n : Nat} {rs : List Nat} (h : chargeAll s cls n rs = some t) :
    s.pkg.time.toNat < nextPeriod s ∧ (∀ r ∈ rs, n * rs.count r ≤ budgetLeft s r cls) ∧
      ∃ left, t = { s with gov := { s.gov with left := left } } := by
  unfold chargeAll at h
  split at h
  · rename_i hc
    simp only [Bool.and_eq_true, decide_eq_true_eq, List.all_eq_true] at hc
    refine ⟨hc.1, hc.2, ?_⟩
    rw [← Option.some.inj h]
    exact foldl_keeps (p := fun t : State => ∃ left, t = { s with gov := { s.gov with left := left } })
      (by rintro _ r ⟨left, rfl⟩; exact ⟨_, rfl⟩) rs ⟨s.gov.left, rfl⟩
  · exact absurd h (by simp)

/-- A claim is charged with nothing of its class ahead of it, and leaves the order of arrival; or it takes its place
there. -/
theorem claim_cases (s : State) (who : Asker) (cls n : Nat) (rs : List Nat) :
    (∃ t, aheadOf s who cls rs = false ∧ chargeAll s cls n rs = some t ∧ claim s who cls n rs = (leaveWait t who, true)) ∨
    claim s who cls n rs = (joinWait s { who := who, cls := cls, res := rs }, false) := by
  unfold claim
  cases ha : aheadOf s who cls rs with
  | true => exact .inr rfl
  | false =>
    cases hc : chargeAll s cls n rs with
    | none => exact .inr (by simp)
    | some t => exact .inl ⟨t, rfl, rfl, by simp⟩

/-- A claim changes the governor's state alone, whatever it comes to. -/
theorem claim_frame (s : State) (who : Asker) (cls n : Nat) (rs : List Nat) :
    ∃ gov, (claim s who cls n rs).1 = { s with gov := gov } := by
  rcases claim_cases s who cls n rs with ⟨t, -, hc, h⟩ | h
  · obtain ⟨-, -, left, rfl⟩ := chargeAll_some hc
    exact ⟨_, by rw [h]; rfl⟩
  · exact ⟨_, by rw [h]; rfl⟩

theorem claim_mem (s : State) (who : Asker) (cls n : Nat) (rs : List Nat) : (claim s who cls n rs).1.mem = s.mem := by
  obtain ⟨gov, h⟩ := claim_frame s who cls n rs
  rw [h]

theorem memWf_owe {s : State} (rs : List Nat) (h : memWf s.mem = true) : memWf (owe s rs).mem = true := by
  unfold owe
  split
  · exact h
  · rw [claim_mem]; exact h

theorem memWf_payOwed {s : State} (h : memWf s.mem = true) : memWf (payOwed s).mem = true := by
  refine foldl_keeps (p := fun s : State => memWf s.mem = true) (fun s w hs => ?_) (waitingNow s) h
  split
  · rw [claim_mem]; exact hs
  · exact hs

/-! ## Accesses at the home slice -/

/-- Counting accesses leaves every byte alone. -/
theorem memWf_countOwn {s : State} (line : Nat) (h : memWf s.mem = true) : memWf (countOwn s line).mem = true := by
  unfold countOwn
  dsimp only
  split
  · exact h
  · exact h

theorem memWf_atSlice {s : State} (line : Nat) (h : memWf s.mem = true) : memWf (atSlice s line).mem = true :=
  memWf_countOwn line (memWf_touchSector line (by rw [useHome_mem]; exact h))

theorem memWf_deviceAt {s : State} (line : Nat) (h : memWf s.mem = true) : memWf (deviceAt s line).mem = true :=
  memWf_atSlice line (memWf_owe _ h)

theorem memWf_countReads {s : State} (h : memWf s.mem = true) : memWf (countReads s).mem = true := by
  unfold countReads
  split
  · exact h
  · exact foldl_keeps (p := fun s : State => memWf s.mem = true) (fun _ l hs => memWf_deviceAt l hs) s.mem.touched
      (a := { s with mem := { s.mem with touched := [] } }) h

theorem memWf_sliceWrite {s : State} (pa : Nat) (bs : List Byte) (h : memWf s.mem = true) :
    memWf (sliceWrite s pa bs).mem = true :=
  memWf_homeWrite pa bs (foldl_keeps (p := fun s : State => memWf s.mem = true) (fun _ l hs => memWf_deviceAt l hs) _ h)

theorem memWf_sendOut {s : State} (l : List (Nat × List Byte)) (h : memWf s.mem = true) :
    memWf (sendOut s l).mem = true := by
  induction l generalizing s with
  | nil => exact h
  | cons x r ih =>
    unfold sendOut
    split
    · exact ih (memWf_sliceWrite x.1 x.2 h)
    · exact h

theorem memWf_sendOutbox {s : State} (h : memWf s.mem = true) : memWf (sendOutbox s).mem = true := by
  unfold sendOutbox
  split
  · exact h
  · exact memWf_sendOut _ h

theorem memWf_devWrite {s : State} (pa : Nat) (bs : List Byte) (h : memWf s.mem = true) :
    memWf (devWrite s pa bs).mem = true := by
  unfold devWrite
  split
  · exact memWf_sliceWrite pa bs h
  · exact h

/-- Bytes placed in the pool keep the canonical form. -/
theorem memWf_placeBytes {m : Mem} (pa : Nat) (bs : List Byte) (h : memWf m = true) :
    memWf (placeBytes m pa bs) = true := by
  induction bs generalizing m pa with
  | nil => exact h
  | cons b r ih =>
    apply ih
    rw [memWf_iff] at h ⊢
    exact ⟨Cells.wf_set _ _ h.1, Cells.rising_drop h.2.1, Cells.rising_drop h.2.2⟩

/-- Bytes that an outside agent writes in the pool keep the canonical form. -/
theorem memWf_poolPuts {m : Mem} (pa : Nat) (bs : List Byte) (h : memWf m = true) :
    memWf (poolPuts m pa bs) = true := by
  induction bs generalizing m pa with
  | nil => exact h
  | cons b r ih => exact ih _ (memWf_poolPut pa b h)

/-! ## Reading after writing -/

@[simp] theorem homeByte_homePut_same (m : Mem) (pa : Nat) (b : Byte) : homeByte (homePut m pa b) pa = b := by
  simp [homeByte, homePut]

theorem homeByte_homePut_ne (m : Mem) {pa pa' : Nat} (b : Byte) (h : pa' ≠ pa) :
    homeByte (homePut m pa b) pa' = homeByte m pa' := by
  simp only [homeByte, homePut, Cells.find_put_ne _ b h]

/-- What the home reads after bytes have been written: the bytes at their addresses, all else as before. -/
theorem homeByte_homePuts (m : Mem) (pa : Nat) (bs : List Byte) (pa' : Nat) :
    homeByte (homePuts m pa bs) pa' =
      if pa ≤ pa' ∧ pa' < pa + bs.length then bs.getD (pa' - pa) 0 else homeByte m pa' := by
  induction bs generalizing m pa with
  | nil => simp [homePuts]
  | cons b r ih =>
    rw [homePuts, ih]
    by_cases h0 : pa' = pa
    · subst h0; simp
    · by_cases h1 : pa + 1 ≤ pa' ∧ pa' < pa + 1 + r.length
      · have h2 : pa ≤ pa' ∧ pa' < pa + (b :: r).length := by simp; omega
        rw [if_pos h1, if_pos h2]
        have : pa' - pa = (pa' - (pa + 1)) + 1 := by omega
        rw [this, List.getD_cons_succ]
      · have h2 : ¬ (pa ≤ pa' ∧ pa' < pa + (b :: r).length) := by simp; omega
        rw [if_neg h1, if_neg h2, homeByte_homePut_ne _ _ h0]

/-- What the pool reads after a sorted list of bytes has been written to it. -/
theorem pool_poolFold {m : Mem} {lo : Nat} {c : Cells Byte} (hc : Cells.rising lo c = true) (pa : Nat) :
    (c.foldl (fun m e => poolPut m e.1 e.2) m).pool.get 0 pa = (c.find pa).getD (m.pool.get 0 pa) := by
  induction c generalizing m lo with
  | nil => rfl
  | cons e r ih =>
    obtain ⟨k, v⟩ := e
    simp only [Cells.rising, Bool.and_eq_true, decide_eq_true_eq] at hc
    rw [List.foldl_cons, ih hc.2, Cells.find]
    by_cases h : pa = k
    · subst h
      simp [Cells.find_below (Nat.lt_succ_self pa) hc.2, poolPut]
    · rw [if_neg h]
      rw [poolPut, Cells.get_set_ne 0 _ _ h]

theorem poolFold_caches (c : Cells Byte) (m : Mem) :
    (c.foldl (fun m e => poolPut m e.1 e.2) m).llc = m.llc ∧ (c.foldl (fun m e => poolPut m e.1 e.2) m).loc = m.loc :=
  foldl_keeps (p := fun t : Mem => t.llc = m.llc ∧ t.loc = m.loc) (f := fun m (e : Nat × Byte) => poolPut m e.1 e.2)
    (fun _ _ h => h) c ⟨rfl, rfl⟩

/-- A line sent on to the pool reads there as its home gave it. -/
theorem homeByte_lineToPool {m : Mem} (line : Nat) (h : memWf m = true) (pa : Nat) :
    homeByte (lineToPool m line) pa = homeByte m pa := by
  have h' := memWf_iff.1 h
  unfold homeByte lineToPool
  simp only [(poolFold_caches _ _).1, (poolFold_caches _ _).2, pool_poolFold (Cells.rising_filter _ h'.2.1),
    pool_poolFold (Cells.rising_filter _ h'.2.2)]
  by_cases hl : pa / 64 = line
  · rw [Cells.find_filter_drop _ (by simp [hl]), Cells.find_filter_drop _ (by simp [hl]),
      Cells.find_filter_keep _ (by simp [hl]), Cells.find_filter_keep _ (by simp [hl])]
    cases m.llc.find pa <;> cases m.loc.find pa <;> rfl
  · rw [Cells.find_filter_keep _ (by simp [hl]), Cells.find_filter_keep _ (by simp [hl]),
      Cells.find_filter_drop _ (by simp [hl]), Cells.find_filter_drop _ (by simp [hl])]
    rfl

theorem homeByte_sendHome {s : State} (line : Nat) (h : memWf s.mem = true) (pa : Nat) :
    homeByte (sendHome s line).mem pa = homeByte s.mem pa := by
  unfold sendHome
  split
  · exact homeByte_lineToPool line h pa
  · rfl

/-- What has been written in a line is read back at its home. -/
theorem homeByte_writeLine (s : State) (w : Writer) (pa : Nat) (bs : List Byte) (k : Nat) (hk : k < bs.length)
    (h : memWf s.mem = true) : homeByte (writeLine s w pa bs).mem (pa + k) = bs.getD k 0 := by
  rw [writeLine_mem]
  unfold homeStore
  dsimp only
  have h' := memWf_homePuts pa bs (foldl_keeps (p := fun s : State => memWf s.mem = true)
    (fun _ l hs => memWf_recallBy w l (memWf_touchSector l hs)) (linesOf pa bs.length) h)
  rw [homeByte_sendHome _ h', homeByte_homePuts, if_pos ⟨by omega, by omega⟩]
  congr 1
  omega

/-! ## The scratchpad -/

theorem wf_spadPuts {c : Cells Byte} (k : Nat) (bs : List Byte) (h : Cells.wf 0 c = true) :
    Cells.wf 0 (spadPuts c k bs) = true := by
  induction bs generalizing c k with
  | nil => exact h
  | cons b r ih => exact ih _ (Cells.wf_set _ _ h)

theorem get_spadPuts (c : Cells Byte) (k : Nat) (bs : List Byte) (n : Nat) :
    Cells.get 0 (spadPuts c k bs) n = if k ≤ n ∧ n < k + bs.length then bs.getD (n - k) 0 else Cells.get 0 c n := by
  induction bs generalizing c k with
  | nil => simp [spadPuts]
  | cons b r ih =>
    rw [spadPuts, ih]
    by_cases h0 : n = k
    · subst h0; simp
    · by_cases h1 : k + 1 ≤ n ∧ n < k + 1 + r.length
      · have h2 : k ≤ n ∧ n < k + (b :: r).length := by simp; omega
        rw [if_pos h1, if_pos h2]
        have : n - k = (n - (k + 1)) + 1 := by omega
        rw [this, List.getD_cons_succ]
      · have h2 : ¬ (k ≤ n ∧ n < k + (b :: r).length) := by simp; omega
        rw [if_neg h1, if_neg h2, Cells.get_set_ne 0 c b h0]

end Sys2Proof.Machine
end

