-- ==== Sys2Proof/Laws/PerInstr.lean ====
section
/-! SUPPORT. Statements about every instruction as syntax, one lemma per constructor: an instruction has a word in at
most one of the three instruction streams, and an event has none (R60, R62, R70, R74). -/

namespace Sys2Proof.Laws.OneStream

/-- In how many streams an instruction has a word. -/
def streams (i : Instr) : Nat := (encodeLane i).isSome.toNat + (encodeScalar i).isSome.toNat + (encodeMicro i).isSome.toNat

/-- An instruction has a word in at most one stream. -/
def Statement (i : Instr) : Prop := streams i ≤ 1

theorem packageReset (umap : BitVec 1024) (frames : Nat) (body sig : List Byte) : Statement (.packageReset umap frames body sig) := Nat.zero_le 1
theorem podTimeAligned (podTime : Dword) : Statement (.podTimeAligned podTime) := Nat.zero_le 1
theorem governorPeriodBoundary (budgets : List Budget) (energy : List (Nat × Nat)) : Statement (.governorPeriodBoundary budgets energy) := Nat.zero_le 1
theorem governedRequestAdmit (id : Nat) : Statement (.governedRequestAdmit id) := Nat.zero_le 1
theorem dieEnergyExhausted (die : Nat) : Statement (.dieEnergyExhausted die) := Nat.zero_le 1
theorem powerLimitExceeded : Statement (.powerLimitExceeded) := Nat.zero_le 1
theorem groupBind (core part : Nat) : Statement (.groupBind core part) := Nat.zero_le 1
theorem laneQueueEnqueue (gid : Nat) : Statement (.laneQueueEnqueue gid) := Nat.zero_le 1
theorem resultReturn (gid id : Nat) : Statement (.resultReturn gid id) := Nat.zero_le 1
theorem icacheFillReturn (gid : Nat) (lane : Bool) : Statement (.icacheFillReturn gid lane) := Nat.zero_le 1
theorem waitCycleProbe (gid : Nat) : Statement (.waitCycleProbe gid) := Nat.zero_le 1
theorem probeForward (id : Nat) : Statement (.probeForward id) := Nat.zero_le 1
theorem crewPlace (grid : Nat) (p : Placement) : Statement (.crewPlace grid p) := Nat.zero_le 1
theorem pendingLaunchDrain (gid : Nat) : Statement (.pendingLaunchDrain gid) := Nat.zero_le 1
theorem crewExitComplete (grid crew : Nat) : Statement (.crewExitComplete grid crew) := Nat.zero_le 1
theorem sowerDeliver (die : Nat) : Statement (.sowerDeliver die) := Nat.zero_le 1
theorem memoryRequestAtHome (id : Nat) : Statement (.memoryRequestAtHome id) := Nat.zero_le 1
theorem lineRecall (id : Nat) : Statement (.lineRecall id) := Nat.zero_le 1
theorem requestReturn (id : Nat) : Statement (.requestReturn id) := Nat.zero_le 1
theorem accessCounterHalve : Statement (.accessCounterHalve) := Nat.zero_le 1
theorem stackCacheFillSpill (gid row : Nat) : Statement (.stackCacheFillSpill gid row) := Nat.zero_le 1
theorem winnowerClean (frame : Bool) (unit : Nat) : Statement (.winnowerClean frame unit) := Nat.zero_le 1
theorem precisionMessageQuad (id : Nat) : Statement (.precisionMessageQuad id) := Nat.zero_le 1
theorem precisionMessageCore (id core : Nat) : Statement (.precisionMessageCore id core) := Nat.zero_le 1
theorem copyTransferStep (id : Nat) : Statement (.copyTransferStep id) := Nat.zero_le 1
theorem copyRetire (id : Nat) : Statement (.copyRetire id) := Nat.zero_le 1
theorem copyCmdCopy (id : Nat) : Statement (.copyCmdCopy id) := Nat.zero_le 1
theorem copyCmdFill (id : Nat) : Statement (.copyCmdFill id) := Nat.zero_le 1
theorem copyCmdSignal (id : Nat) : Statement (.copyCmdSignal id) := Nat.zero_le 1
theorem tryWaitHintExpiry (gid id : Nat) : Statement (.tryWaitHintExpiry gid id) := Nat.zero_le 1
theorem gleanerHint (id : Nat) : Statement (.gleanerHint id) := Nat.zero_le 1
theorem tload (core task : Nat) : Statement (.tload core task) := Nat.zero_le 1
theorem tstore (core task : Nat) : Statement (.tstore core task) := Nat.zero_le 1
theorem tmma (core task : Nat) : Statement (.tmma core task) := Nat.zero_le 1
theorem thad (core task : Nat) : Statement (.thad core task) := Nat.zero_le 1
theorem tzero (core task : Nat) : Statement (.tzero core task) := Nat.zero_le 1
theorem tcvt (core task : Nat) : Statement (.tcvt core task) := Nat.zero_le 1
theorem tjoin (core task : Nat) : Statement (.tjoin core task) := Nat.zero_le 1
theorem matrixTaskRetire (core task : Nat) : Statement (.matrixTaskRetire core task) := Nat.zero_le 1
theorem tmaskPairWriteResume (gid : Nat) : Statement (.tmaskPairWriteResume gid) := Nat.zero_le 1
theorem rayResume (ray core : Nat) : Statement (.rayResume ray core) := Nat.zero_le 1
theorem rayStepBudgetExhausted (ray : Nat) : Statement (.rayStepBudgetExhausted ray) := Nat.zero_le 1
theorem fragmentArrival (die id : Nat) : Statement (.fragmentArrival die id) := Nat.zero_le 1
theorem streamClose (die id : Nat) : Statement (.streamClose die id) := Nat.zero_le 1
theorem samplerResume (gid : Nat) : Statement (.samplerResume gid) := Nat.zero_le 1
theorem residencyFault (id : Nat) : Statement (.residencyFault id) := Nat.zero_le 1
theorem gleanerBatchClose (gleaner : Nat) (frames : List (Nat × Nat)) : Statement (.gleanerBatchClose gleaner frames) := Nat.zero_le 1
theorem gleanerFrameEligible (gleaner page frame : Nat) : Statement (.gleanerFrameEligible gleaner page frame) := Nat.zero_le 1
theorem gleanerEvict (gleaner page : Nat) : Statement (.gleanerEvict gleaner page) := Nat.zero_le 1
theorem gleanerFetch (gleaner page : Nat) : Statement (.gleanerFetch gleaner page) := Nat.zero_le 1
theorem pageResident (gleaner page : Nat) : Statement (.pageResident gleaner page) := Nat.zero_le 1
theorem handlerGroupLaunch (die grid : Nat) : Statement (.handlerGroupLaunch die grid) := Nat.zero_le 1
theorem timeSliceExpiry (queue : Nat) : Statement (.timeSliceExpiry queue) := Nat.zero_le 1
theorem drainTimeout (grid crew : Nat) : Statement (.drainTimeout grid crew) := Nat.zero_le 1
theorem crewSave (grid crew : Nat) : Statement (.crewSave grid crew) := Nat.zero_le 1
theorem crewRestore (grid crew : Nat) (p : Placement) : Statement (.crewRestore grid crew p) := Nat.zero_le 1
theorem softError (target : ErrTarget) : Statement (.softError target) := Nat.zero_le 1
theorem doorbell (queue : Nat) : Statement (.doorbell queue) := Nat.zero_le 1
theorem fqheadWrite (value : Dword) : Statement (.fqheadWrite value) := Nat.zero_le 1
theorem registerWrite (off : Nat) (value : Dword) : Statement (.registerWrite off value) := Nat.zero_le 1
theorem qcreate : Statement (.qcreate) := Nat.zero_le 1
theorem qdestroy : Statement (.qdestroy) := Nat.zero_le 1
theorem shootdown : Statement (.shootdown) := Nat.zero_le 1
theorem shootdownComplete (id : Nat) : Statement (.shootdownComplete id) := Nat.zero_le 1
theorem faultans : Statement (.faultans) := Nat.zero_le 1
theorem update : Statement (.update) := Nat.zero_le 1
theorem liveUpdateSwitch : Statement (.liveUpdateSwitch) := Nat.zero_le 1
theorem attest : Statement (.attest) := Nat.zero_le 1
theorem podjoin : Statement (.podjoin) := Nat.zero_le 1
theorem packetDispatch (queue : Nat) : Statement (.packetDispatch queue) := Nat.zero_le 1
theorem packetPersist (queue : Nat) : Statement (.packetPersist queue) := Nat.zero_le 1
theorem packetCopy (queue : Nat) : Statement (.packetCopy queue) := Nat.zero_le 1
theorem packetSignal (queue : Nat) : Statement (.packetSignal queue) := Nat.zero_le 1
theorem writesignal (queue : Nat) : Statement (.writesignal queue) := Nat.zero_le 1
theorem waittl (queue : Nat) : Statement (.waittl queue) := Nat.zero_le 1
theorem packetNop (queue : Nat) : Statement (.packetNop queue) := Nat.zero_le 1
theorem priorityAging (queue : Nat) : Statement (.priorityAging queue) := Nat.zero_le 1
theorem firmwareFailover : Statement (.firmwareFailover) := Nat.zero_le 1
theorem schedulerFailover (die : Nat) : Statement (.schedulerFailover die) := Nat.zero_le 1
theorem hostSnoop (line : Nat) : Statement (.hostSnoop line) := Nat.zero_le 1
theorem backInvalidateSnoop (line : Nat) : Statement (.backInvalidateSnoop line) := Nat.zero_le 1
theorem cxlPortFailure (port : Nat) : Statement (.cxlPortFailure port) := Nat.zero_le 1
theorem podLinkReroute (dest link : Nat) : Statement (.podLinkReroute dest link) := Nat.zero_le 1
theorem iadd (f : LaneForm) (sat : Bool) : Statement (.iadd f sat) := Nat.le_refl 1
theorem isub (f : LaneForm) (sat : Bool) : Statement (.isub f sat) := Nat.le_refl 1
theorem imul (f : LaneForm) (sat : Bool) : Statement (.imul f sat) := Nat.le_refl 1
theorem imulh (f : LaneForm) : Statement (.imulh f) := Nat.le_refl 1
theorem imad (f : LaneForm) (sat : Bool) : Statement (.imad f sat) := Nat.le_refl 1
theorem imin (f : LaneForm) : Statement (.imin f) := Nat.le_refl 1
theorem imax (f : LaneForm) : Statement (.imax f) := Nat.le_refl 1
theorem iabs (f : LaneForm) (sat : Bool) : Statement (.iabs f sat) := Nat.le_refl 1
theorem iaddx (f : LaneForm) (cbit : BitVec 6) : Statement (.iaddx f cbit) := Nat.le_refl 1
theorem idp4 (f : LaneForm) (sat : Bool) : Statement (.idp4 f sat) := Nat.le_refl 1
theorem lop3 (f : LaneForm) (lut : BitVec 8) : Statement (.lop3 f lut) := Nat.le_refl 1
theorem shl (f : LaneForm) : Statement (.shl f) := Nat.le_refl 1
theorem shr (f : LaneForm) : Statement (.shr f) := Nat.le_refl 1
theorem sra (f : LaneForm) : Statement (.sra f) := Nat.le_refl 1
theorem fshl (f : LaneForm) : Statement (.fshl f) := Nat.le_refl 1
theorem fshr (f : LaneForm) : Statement (.fshr f) := Nat.le_refl 1
theorem brev (f : LaneForm) : Statement (.brev f) := Nat.le_refl 1
theorem popc (f : LaneForm) : Statement (.popc f) := Nat.le_refl 1
theorem clz (f : LaneForm) : Statement (.clz f) := Nat.le_refl 1
theorem bfe (f : LaneForm) : Statement (.bfe f) := Nat.le_refl 1
theorem bfi (f : LaneForm) : Statement (.bfi f) := Nat.le_refl 1
theorem bperm (f : LaneForm) : Statement (.bperm f) := Nat.le_refl 1
theorem icmp (f : LaneForm) (cond : ICond) : Statement (.icmp f cond) := Nat.le_refl 1
theorem fcmp (f : LaneForm) (cond : FCond) : Statement (.fcmp f cond) := Nat.le_refl 1
theorem sel (f : LaneForm) (k : BitVec 6) : Statement (.sel f k) := Nat.le_refl 1
theorem mov (f : LaneForm) : Statement (.mov f) := Nat.le_refl 1
theorem movi (f : LaneForm) (imm : Word) : Statement (.movi f imm) := Nat.le_refl 1
theorem cvt (f : LaneForm) (m : CvtMod) : Statement (.cvt f m) := Nat.le_refl 1
theorem pack (f : LaneForm) (mode : PackMode) : Statement (.pack f mode) := Nat.le_refl 1
theorem unpk (f : LaneForm) (hi : Bool) : Statement (.unpk f hi) := Nat.le_refl 1
theorem sreg (f : LaneForm) (sel : SregSel) : Statement (.sreg f sel) := Nat.le_refl 1
theorem fadd (f : LaneForm) : Statement (.fadd f) := Nat.le_refl 1
theorem fsub (f : LaneForm) : Statement (.fsub f) := Nat.le_refl 1
theorem fmul (f : LaneForm) : Statement (.fmul f) := Nat.le_refl 1
theorem ffma (f : LaneForm) : Statement (.ffma f) := Nat.le_refl 1
theorem fmin (f : LaneForm) : Statement (.fmin f) := Nat.le_refl 1
theorem fmax (f : LaneForm) : Statement (.fmax f) := Nat.le_refl 1
theorem frnd (f : LaneForm) : Statement (.frnd f) := Nat.le_refl 1
theorem fdot2 (f : LaneForm) : Statement (.fdot2 f) := Nat.le_refl 1
theorem frcpe (f : LaneForm) : Statement (.frcpe f) := Nat.le_refl 1
theorem frsqe (f : LaneForm) : Statement (.frsqe f) := Nat.le_refl 1
theorem fex2 (f : LaneForm) : Statement (.fex2 f) := Nat.le_refl 1
theorem flg2 (f : LaneForm) : Statement (.flg2 f) := Nat.le_refl 1
theorem fsin (f : LaneForm) : Statement (.fsin f) := Nat.le_refl 1
theorem fcos (f : LaneForm) : Statement (.fcos f) := Nat.le_refl 1
theorem mmac (f : LaneForm) (freg : LReg) : Statement (.mmac f freg) := Nat.le_refl 1
theorem xget (f : LaneForm) : Statement (.xget f) := Nat.le_refl 1
theorem xput (f : LaneForm) : Statement (.xput f) := Nat.le_refl 1
theorem xbcast (f : LaneForm) : Statement (.xbcast f) := Nat.le_refl 1
theorem xred (f : LaneForm) (op : ROp) : Statement (.xred f op) := Nat.le_refl 1
theorem xscan (f : LaneForm) (op : ROp) (excl : Bool) : Statement (.xscan f op excl) := Nat.le_refl 1
theorem xvote (f : LaneForm) (mode : VoteMode) (k : BitVec 6) : Statement (.xvote f mode k) := Nat.le_refl 1
theorem ld (f : LaneForm) (m : MemMod) : Statement (.ld f m) := Nat.le_refl 1
theorem st (f : LaneForm) (m : MemMod) : Statement (.st f m) := Nat.le_refl 1
theorem lds (f : LaneForm) (m : MemMod) : Statement (.lds f m) := Nat.le_refl 1
theorem sts (f : LaneForm) (m : MemMod) : Statement (.sts f m) := Nat.le_refl 1
theorem atom (f : LaneForm) (m : AtomMod) : Statement (.atom f m) := Nat.le_refl 1
theorem red (f : LaneForm) (m : AtomMod) : Statement (.red f m) := Nat.le_refl 1
theorem pref (f : LaneForm) (lvl : PrefLvl) (rq : ReqTy) : Statement (.pref f lvl rq) := Nat.le_refl 1
theorem sdesc (f : LaneForm) (kind : DescKind) (del : Bool) : Statement (.sdesc f kind del) := Nat.le_refl 1
theorem subp (f : LaneForm) : Statement (.subp f) := Nat.le_refl 1
theorem unsp (f : LaneForm) : Statement (.unsp f) := Nat.le_refl 1
theorem upgp (f : LaneForm) : Statement (.upgp f) := Nat.le_refl 1
theorem cinv (f : LaneForm) (scope : Scope) : Statement (.cinv f scope) := Nat.le_refl 1
theorem cwb (f : LaneForm) (scope : Scope) : Statement (.cwb f scope) := Nat.le_refl 1
theorem cdisc (f : LaneForm) (scope : Scope) : Statement (.cdisc f scope) := Nat.le_refl 1
theorem fence (f : LaneForm) (m : FenceMod) : Statement (.fence f m) := Nat.le_refl 1
theorem bara (f : LaneForm) (m : BarMod) : Statement (.bara f m) := Nat.le_refl 1
theorem barw (f : LaneForm) (net : Bool) : Statement (.barw f net) := Nat.le_refl 1
theorem bartw (f : LaneForm) (net : Bool) : Statement (.bartw f net) := Nat.le_refl 1
theorem qpush (f : LaneForm) : Statement (.qpush f) := Nat.le_refl 1
theorem qpop (f : LaneForm) : Statement (.qpop f) := Nat.le_refl 1
theorem twait (f : LaneForm) (cond : WCond) (w32 : Bool) (scope : Scope) : Statement (.twait f cond w32 scope) := Nat.le_refl 1
theorem waitt (f : LaneForm) (scope : Scope) : Statement (.waitt f scope) := Nat.le_refl 1
theorem rast (f : LaneForm) : Statement (.rast f) := Nat.le_refl 1
theorem samp (f : LaneForm) : Statement (.samp f) := Nat.le_refl 1
theorem sampg (f : LaneForm) : Statement (.sampg f) := Nat.le_refl 1
theorem trace (f : LaneForm) : Statement (.trace f) := Nat.le_refl 1
theorem omrg (f : LaneForm) (seq : SReg) (close : Bool) : Statement (.omrg f seq close) := Nat.le_refl 1
theorem ckacc (f : LaneForm) (flt : Bool) : Statement (.ckacc f flt) := Nat.le_refl 1
theorem cktest (f : LaneForm) (flt : Bool) : Statement (.cktest f flt) := Nat.le_refl 1
theorem idem (f : LaneForm) (fin : Bool) : Statement (.idem f fin) := Nat.le_refl 1
theorem trapl (f : LaneForm) : Statement (.trapl f) := Nat.le_refl 1
theorem nop (f : LaneForm) : Statement (.nop f) := Nat.le_refl 1
theorem scAdd (d a b : SReg) : Statement (.scAdd d a b) := Nat.le_refl 1
theorem scAddImm (d a : SReg) (imm : BitVec 13) : Statement (.scAddImm d a imm) := Nat.le_refl 1
theorem scSub (d a b : SReg) : Statement (.scSub d a b) := Nat.le_refl 1
theorem scSubImm (d a : SReg) (imm : BitVec 13) : Statement (.scSubImm d a imm) := Nat.le_refl 1
theorem scMul (d a b : SReg) : Statement (.scMul d a b) := Nat.le_refl 1
theorem scMulImm (d a : SReg) (imm : BitVec 13) : Statement (.scMulImm d a imm) := Nat.le_refl 1
theorem scMulh (d a b : SReg) : Statement (.scMulh d a b) := Nat.le_refl 1
theorem scMulhImm (d a : SReg) (imm : BitVec 13) : Statement (.scMulhImm d a imm) := Nat.le_refl 1
theorem scDiv (d a b : SReg) : Statement (.scDiv d a b) := Nat.le_refl 1
theorem scDivImm (d a : SReg) (imm : BitVec 13) : Statement (.scDivImm d a imm) := Nat.le_refl 1
theorem scRem (d a b : SReg) : Statement (.scRem d a b) := Nat.le_refl 1
theorem scRemImm (d a : SReg) (imm : BitVec 13) : Statement (.scRemImm d a imm) := Nat.le_refl 1
theorem scAnd (d a b : SReg) : Statement (.scAnd d a b) := Nat.le_refl 1
theorem scAndImm (d a : SReg) (imm : BitVec 13) : Statement (.scAndImm d a imm) := Nat.le_refl 1
theorem scOr (d a b : SReg) : Statement (.scOr d a b) := Nat.le_refl 1
theorem scOrImm (d a : SReg) (imm : BitVec 13) : Statement (.scOrImm d a imm) := Nat.le_refl 1
theorem scXor (d a b : SReg) : Statement (.scXor d a b) := Nat.le_refl 1
theorem scXorImm (d a : SReg) (imm : BitVec 13) : Statement (.scXorImm d a imm) := Nat.le_refl 1
theorem scShl (d a b : SReg) : Statement (.scShl d a b) := Nat.le_refl 1
theorem scShlImm (d a : SReg) (imm : BitVec 13) : Statement (.scShlImm d a imm) := Nat.le_refl 1
theorem scShr (d a b : SReg) : Statement (.scShr d a b) := Nat.le_refl 1
theorem scShrImm (d a : SReg) (imm : BitVec 13) : Statement (.scShrImm d a imm) := Nat.le_refl 1
theorem scSra (d a b : SReg) : Statement (.scSra d a b) := Nat.le_refl 1
theorem scSraImm (d a : SReg) (imm : BitVec 13) : Statement (.scSraImm d a imm) := Nat.le_refl 1
theorem scBitc (d a : SReg) (cnt : BitCount) : Statement (.scBitc d a cnt) := Nat.le_refl 1
theorem scSet (d a b : SReg) (cond : SCond) : Statement (.scSet d a b cond) := Nat.le_refl 1
theorem scSel (d a b sel : SReg) : Statement (.scSel d a b sel) := Nat.le_refl 1
theorem scMov (d a : SReg) : Statement (.scMov d a) := Nat.le_refl 1
theorem scLimm (d : SReg) (chunk : BitVec 3) (ins : Bool) (imm : BitVec 13) : Statement (.scLimm d chunk ins imm) := Nat.le_refl 1
theorem scBr (r : SReg) (bit : BitVec 6) (sense : Bool) (off : BitVec 12) : Statement (.scBr r bit sense off) := Nat.le_refl 1
theorem scJmp (off : BitVec 25) : Statement (.scJmp off) := Nat.le_refl 1
theorem scCall (off : BitVec 25) : Statement (.scCall off) := Nat.le_refl 1
theorem scRet : Statement (.scRet) := Nat.le_refl 1
theorem scLd (d a : SReg) (off : BitVec 8) (ord : MOrd) (scope : Scope) : Statement (.scLd d a off ord scope) := Nat.le_refl 1
theorem scSt (d a : SReg) (off : BitVec 8) (ord : MOrd) (scope : Scope) : Statement (.scSt d a off ord scope) := Nat.le_refl 1
theorem scAtom (d a b : SReg) (aop : AOp) (scope : Scope) : Statement (.scAtom d a b aop scope) := Nat.le_refl 1
theorem scFence (m : FenceMod) : Statement (.scFence m) := Nat.le_refl 1
theorem scLrun (cnt : BitVec 5) : Statement (.scLrun cnt) := Nat.le_refl 1
theorem scLset (off : BitVec 19) (pf : Bool) (cnt : BitVec 5) : Statement (.scLset off pf cnt) := Nat.le_refl 1
theorem scLwait : Statement (.scLwait) := Nat.le_refl 1
theorem scPush (d a : SReg) (q : BitVec 2) : Statement (.scPush d a q) := Nat.le_refl 1
theorem scFetch (d a : SReg) : Statement (.scFetch d a) := Nat.le_refl 1
theorem scYield : Statement (.scYield) := Nat.le_refl 1
theorem scExit : Statement (.scExit) := Nat.le_refl 1
theorem scCsrr (d : SReg) (num : BitVec 13) : Statement (.scCsrr d num) := Nat.le_refl 1
theorem scCsrw (a : SReg) (num : BitVec 13) : Statement (.scCsrw a num) := Nat.le_refl 1
theorem scTrap (code : BitVec 13) : Statement (.scTrap code) := Nat.le_refl 1
theorem scTrapReturn : Statement (.scTrapReturn) := Nat.le_refl 1
theorem scNop : Statement (.scNop) := Nat.le_refl 1
theorem trLdn (mi : MReg) (win : BitVec 2) (lay : Bool) : Statement (.trLdn mi win lay) := Nat.le_refl 1
theorem trBox (md : MReg) : Statement (.trBox md) := Nat.le_refl 1
theorem trTri (cb : BitVec 3) (mt : MReg) (off4 : BitVec 3) (cf : Bool) : Statement (.trTri cb mt off4 cf) := Nat.le_refl 1
theorem trXfm (off16 : Bool) (back : Bool) : Statement (.trXfm off16 back) := Nat.le_refl 1
theorem trDec (md : MReg) (boff : BitVec 6) (sz : DecSz) : Statement (.trDec md boff sz) := Nat.le_refl 1
theorem trPush (ma mb : MReg) : Statement (.trPush ma mb) := Nat.le_refl 1
theorem trPop (mi mt : MReg) (cb : BitVec 3) (cull : Bool) : Statement (.trPop mi mt cb cull) := Nat.le_refl 1
theorem trSort (md mn : MReg) : Statement (.trSort md mn) := Nat.le_refl 1
theorem trHit (mt mp mi mu : MReg) : Statement (.trHit mt mp mi mu) := Nat.le_refl 1
theorem trAny (mt mp mi mu : MReg) : Statement (.trAny mt mp mi mu) := Nat.le_refl 1
theorem trBr (cb : BitVec 3) (sense : Bool) (target : Byte) : Statement (.trBr cb sense target) := Nat.le_refl 1
theorem trJmp (target : Byte) : Statement (.trJmp target) := Nat.le_refl 1
theorem trAlu (md ma mb : MReg) (fn : MFn) : Statement (.trAlu md ma mb fn) := Nat.le_refl 1
theorem trLdi (md : MReg) (hi : Bool) (imm : BitVec 16) : Statement (.trLdi md hi imm) := Nat.le_refl 1
theorem trBnd (cb : BitVec 3) (mi : MReg) (lay : Bool) : Statement (.trBnd cb mi lay) := Nat.le_refl 1
theorem trEnd : Statement (.trEnd) := Nat.le_refl 1
theorem rootPointerInstall (asid : BitVec 12) (root : Nat) : Statement (.rootPointerInstall asid root) := Nat.zero_le 1
theorem deviceBiasSet (region : Nat) : Statement (.deviceBiasSet region) := Nat.zero_le 1
theorem illegalScalarWord (w : Word) : Statement (.illegalScalarWord w) := Nat.zero_le 1
theorem undefinedMicroOpcode (w : Word) : Statement (.undefinedMicroOpcode w) := Nat.zero_le 1
theorem scalarFetchFault : Statement (.scalarFetchFault) := Nat.zero_le 1

end Sys2Proof.Laws.OneStream
end

