-- ==== Sys2Proof/Laws/Reqs.lean ====
section
/-! SUPPORT. What a reach of lines does, once for each of its uses (R23, R27 to R31): it keeps memory in its canonical form. -/

namespace Sys2Proof.Machine

/-- An access at the home writes dirty copies back there. -/
theorem memWf_atHome {s : State} (line : Nat) (h : memWf s.mem = true) : memWf (atHome s line).mem = true := by
  unfold atHome
  dsimp only
  split
  · exact memWf_atSlice line h
  · exact memWf_cleanLine line (memWf_atSlice line h)

/-- The write-backs that accesses make change the governor's state, and memory by cleaning lines. -/
theorem memWf_recallsPaid {s : State} (who : Asker) (lines : List Nat) (h : memWf s.mem = true) :
    memWf (recallsPaid s who lines).1.mem = true := by
  unfold recallsPaid
  generalize (lines.flatMap fun l => (List.replicate (dirtyCount s noCore l) (wbResources s l)).flatten) = rs
  split
  · exact h
  · have hc : memWf (claim s who clsDemand 64 rs).1.mem = true := by rw [claim_mem]; exact h
    dsimp only
    split
    · refine foldl_keeps (p := fun s : State => memWf s.mem = true) (fun s l hs => ?_) lines hc
      split
      · exact hs
      · exact memWf_cleanLine l hs
    · exact hc

/-- A reach as demand traffic that succeeds was sendable, and was charged to its class. -/
theorem reach_true {s t : State} {who : Asker} {lines : List Nat} (h : reach s who clsDemand lines = (t, true)) :
    sendable s lines = true ∧ ∃ c, chargeAll s clsDemand 64 (lines.flatMap (accessResources s noCore)) = some c ∧
      t = lines.foldl atHome (leaveWait c who) := by
  unfold reach at h
  cases hs : sendable s lines with
  | false => simp [hs] at h
  | true =>
    rcases claim_cases s who clsDemand 64 (lines.flatMap (accessResources s noCore)) with ⟨c, -, hc, hk⟩ | hk
    · refine ⟨rfl, c, hc, ?_⟩
      simp only [hs, hk, Bool.not_true, Bool.false_eq_true, if_false, if_true, Prod.mk.injEq, and_true] at h
      exact h.symm
    · simp [hs, hk] at h

theorem memWf_reach {s : State} (who : Asker) (cls : Nat) (lines : List Nat) (h : memWf s.mem = true) :
    memWf (reach s who cls lines).1.mem = true := by
  have hw : memWf (if cls = clsDemand then (s, true) else recallsPaid s who lines).1.mem = true := by
    split
    · exact h
    · exact memWf_recallsPaid who lines h
  unfold reach
  dsimp only
  generalize (if cls = clsDemand then (s, true) else recallsPaid s who lines) = w at hw ⊢
  have hc : memWf (claim w.1 who cls 64 (lines.flatMap (accessResources w.1 noCore))).1.mem = true := by
    rw [claim_mem]; exact hw
  split
  · exact h
  · split
    · exact hw
    · split
      · exact foldl_keeps (p := fun s : State => memWf s.mem = true) (fun _ l hs => memWf_atHome l hs) lines hc
      · exact hc

theorem memWf_reachCore {s : State} (core : Nat) (who : Asker) (cls : Nat) (lines : List Nat) (h : memWf s.mem = true) :
    memWf (reachCore s core who cls lines).1.mem = true := by
  unfold reachCore
  split
  · exact memWf_reach who cls lines h
  · exact h

/-- A stash is written back line by line, and memory keeps its form whether or not all of it could be. -/
theorem memWf_drainLines {s : State} (core : Nat) (who : Asker) (fs : List (Nat × Nat)) (h : memWf s.mem = true) :
    memWf (drainLines s core who fs).1.mem = true := by
  induction fs generalizing s with
  | nil => exact h
  | cons f r ih =>
    have hx := memWf_reachCore core who clsDemand [f.2] h
    unfold drainLines
    dsimp only
    split
    · exact ih hx
    · exact hx

end Sys2Proof.Machine
end

