-- ==== Sys2Proof/Tests/Slice0.lean ====
section
/-! SUPPORT. Tests: words written out from the spec's encodings, ill-formed terms, worked examples of the spec, and for the
statements of Certificates/Slice0/Obligations.lean states that meet their hypotheses. -/

namespace Sys2Proof.Tests

open Sys2Proof.Machine

/-! ## Words -/

/-- A lane word from the fields of R62: opcode, d, a, the class and the field of b and of c, the type's code, and mod. -/
def lw (op d a bcls b ccls c ty m : Nat) : LaneBits :=
  BitVec.ofNat 96 (op + d * 2 ^ 12 + a * 2 ^ 23 + b * 2 ^ 34 + c * 2 ^ 45 + ty * 2 ^ 75 + bcls * 2 ^ 79 + ccls * 2 ^ 81 + m * 2 ^ 83)

/-- A form with no prefix and no guard. -/
def fm (ty : Ty) (d a : LReg) (b c : Opd) : LaneForm := ⟨none, ty, none, a, b, c, d, false, false⟩

/-- A guard of v3 bit 5 inverted, `.uni` and the marker; and a prefix with zeroing, RTZ and mask s9 (R62, R67, R68). -/
theorem test_decode_guard_uniform_marker :
    decodeLane none (lw 0x0C0 10 1 0 2 0 0 4 0 + BitVec.ofNat 96 (2 ^ 10 + 2 ^ 11 + 3 * 2 ^ 56 + 5 * 2 ^ 67 + 2 ^ 73 + 2 ^ 74)) =
      some (.fadd ⟨none, .f32, some ⟨3, 5, true⟩, 1, .lane 2, .lane 0, 10, true, true⟩) := by decide
theorem test_decode_prefix :
    decodeLane (some (BitVec.ofNat 32 (0x3FF + 9 * 2 ^ 10 + 1 * 2 ^ 16 + 2 ^ 30))) (lw 0x0C0 10 1 0 2 0 0 4 0) =
      some (.fadd ⟨some ⟨true, 0, .rtz, 9⟩, .f32, none, 1, .lane 2, .lane 0, 10, false, false⟩) := by decide

theorem test_decode_iadd : decodeLane none (lw 0x000 10 1 0 2 0 0 0 1) =
    some (.iadd (fm .s32 10 1 (.lane 2) (.lane 0)) true) := by decide
theorem test_decode_isub : decodeLane none (lw 0x001 10 1 2 3 0 0 3 0) =
    some (.isub (fm .n64 10 1 (.imm 3) (.lane 0)) false) := by decide
theorem test_decode_imul : decodeLane none (lw 0x002 10 1 1 2 0 0 9 0) =
    some (.imul (fm .s16x4 10 1 (.scal 2) (.lane 0)) false) := by decide
theorem test_decode_imulh : decodeLane none (lw 0x003 10 1 0 2 0 0 1 0) =
    some (.imulh (fm .n32 10 1 (.lane 2) (.lane 0))) := by decide
theorem test_decode_imad : decodeLane none (lw 0x004 10 1 0 2 0 3 2 1) =
    some (.imad (fm .s64 10 1 (.lane 2) (.lane 3)) true) := by decide
theorem test_decode_imin : decodeLane none (lw 0x005 10 1 0 2 0 0 11 0) =
    some (.imin (fm .n8x8 10 1 (.lane 2) (.lane 0))) := by decide
theorem test_decode_imax : decodeLane none (lw 0x006 10 1 0 2 0 0 10 0) =
    some (.imax (fm .s8x8 10 1 (.lane 2) (.lane 0))) := by decide
theorem test_decode_iabs : decodeLane none (lw 0x007 10 1 0 0 0 0 0 1) =
    some (.iabs (fm .s32 10 1 (.lane 0) (.lane 0)) true) := by decide
theorem test_decode_iaddx : decodeLane none (lw 0x008 10 1 0 2 0 3 3 5) =
    some (.iaddx (fm .n64 10 1 (.lane 2) (.lane 3)) 5) := by decide
theorem test_decode_idp4 : decodeLane none (lw 0x009 10 1 0 2 0 3 10 1) =
    some (.idp4 (fm .s8x8 10 1 (.lane 2) (.lane 3)) true) := by decide
theorem test_decode_lop3 : decodeLane none (lw 0x040 10 1 0 2 0 3 3 150) =
    some (.lop3 (fm .n64 10 1 (.lane 2) (.lane 3)) 0x96) := by decide
theorem test_decode_shl : decodeLane none (lw 0x041 10 1 2 4 0 0 1 0) =
    some (.shl (fm .n32 10 1 (.imm 4) (.lane 0))) := by decide
theorem test_decode_shr : decodeLane none (lw 0x042 10 1 2 4 0 0 1 0) =
    some (.shr (fm .n32 10 1 (.imm 4) (.lane 0))) := by decide
theorem test_decode_sra : decodeLane none (lw 0x043 10 1 2 4 0 0 0 0) =
    some (.sra (fm .s32 10 1 (.imm 4) (.lane 0))) := by decide
theorem test_decode_fshl : decodeLane none (lw 0x044 10 1 0 2 2 4 1 0) =
    some (.fshl (fm .n32 10 1 (.lane 2) (.imm 4))) := by decide
theorem test_decode_fshr : decodeLane none (lw 0x045 10 1 0 2 1 4 3 0) =
    some (.fshr (fm .n64 10 1 (.lane 2) (.scal 4))) := by decide
theorem test_decode_brev : decodeLane none (lw 0x046 10 1 0 0 0 0 1 0) =
    some (.brev (fm .n32 10 1 (.lane 0) (.lane 0))) := by decide
theorem test_decode_popc : decodeLane none (lw 0x047 10 1 0 0 0 0 3 0) =
    some (.popc (fm .n64 10 1 (.lane 0) (.lane 0))) := by decide
theorem test_decode_clz : decodeLane none (lw 0x048 10 1 0 0 0 0 2 0) =
    some (.clz (fm .s64 10 1 (.lane 0) (.lane 0))) := by decide
theorem test_decode_bfe : decodeLane none (lw 0x049 10 1 2 4 2 8 0 0) =
    some (.bfe (fm .s32 10 1 (.imm 4) (.imm 8))) := by decide
theorem test_decode_bfi : decodeLane none (lw 0x04A 10 1 0 2 0 3 1 0) =
    some (.bfi (fm .n32 10 1 (.lane 2) (.lane 3))) := by decide
theorem test_decode_bperm : decodeLane none (lw 0x04B 10 1 0 2 0 3 3 0) =
    some (.bperm (fm .n64 10 1 (.lane 2) (.lane 3))) := by decide
theorem test_decode_icmp : decodeLane none (lw 0x080 10 1 0 2 0 0 0 2) =
    some (.icmp (fm .s32 10 1 (.lane 2) (.lane 0)) .lt) := by decide
theorem test_decode_fcmp : decodeLane none (lw 0x081 10 1 0 2 0 0 4 7) =
    some (.fcmp (fm .f32 10 1 (.lane 2) (.lane 0)) .unord) := by decide
theorem test_decode_sel : decodeLane none (lw 0x082 10 1 0 2 0 3 6 9) =
    some (.sel (fm .f16x4 10 1 (.lane 2) (.lane 3)) 9) := by decide
theorem test_decode_mov : decodeLane none (lw 0x083 10 0 1 7 0 0 5 0) =
    some (.mov (fm .f64 10 0 (.scal 7) (.lane 0))) := by decide
theorem test_decode_movi : decodeLane none (lw 0x084 10 0 0 2047 0 2047 0 1023) =
    some (.movi (fm .s32 10 0 (.lane 0) (.lane 0)) 0xFFFFFFFF) := by decide
theorem test_decode_cvt : decodeLane none (lw 0x085 10 1 0 0 0 0 8 70) =
    some (.cvt (fm .f32x2 10 1 (.lane 0) (.lane 0)) ⟨1, false, false, .f16x4⟩) := by decide
theorem test_decode_pack : decodeLane none (lw 0x086 10 1 0 2 0 0 10 3) =
    some (.pack (fm .s8x8 10 1 (.lane 2) (.lane 0)) .odd) := by decide
theorem test_decode_unpk : decodeLane none (lw 0x087 10 1 0 2 0 0 10 1) =
    some (.unpk (fm .s8x8 10 1 (.lane 2) (.lane 0)) true) := by decide
theorem test_decode_sreg : decodeLane none (lw 0x088 10 0 0 0 0 0 3 6) =
    some (.sreg (fm .n64 10 0 (.lane 0) (.lane 0)) .mask) := by decide
theorem test_decode_fadd : decodeLane none (lw 0x0C0 10 1 0 2 0 0 4 0) =
    some (.fadd (fm .f32 10 1 (.lane 2) (.lane 0))) := by decide
theorem test_decode_fsub : decodeLane none (lw 0x0C1 10 1 0 2 0 0 4 0) =
    some (.fsub (fm .f32 10 1 (.lane 2) (.lane 0))) := by decide
theorem test_decode_fmul : decodeLane none (lw 0x0C2 10 1 0 2 0 0 4 0) =
    some (.fmul (fm .f32 10 1 (.lane 2) (.lane 0))) := by decide
theorem test_decode_ffma : decodeLane none (lw 0x0C3 10 1 0 2 0 3 5 0) =
    some (.ffma (fm .f64 10 1 (.lane 2) (.lane 3))) := by decide
theorem test_decode_fmin : decodeLane none (lw 0x0C4 10 1 0 2 0 0 7 0) =
    some (.fmin (fm .bf16x4 10 1 (.lane 2) (.lane 0))) := by decide
theorem test_decode_fmax : decodeLane none (lw 0x0C5 10 1 0 2 0 0 8 0) =
    some (.fmax (fm .f32x2 10 1 (.lane 2) (.lane 0))) := by decide
theorem test_decode_frnd : decodeLane none (lw 0x0C6 10 1 0 0 0 0 5 0) =
    some (.frnd (fm .f64 10 1 (.lane 0) (.lane 0))) := by decide
theorem test_decode_fdot2 : decodeLane none (lw 0x0C7 10 1 0 2 0 3 6 0) =
    some (.fdot2 (fm .f16x4 10 1 (.lane 2) (.lane 3))) := by decide
theorem test_decode_frcpe : decodeLane none (lw 0x100 10 1 0 0 0 0 4 0) =
    some (.frcpe (fm .f32 10 1 (.lane 0) (.lane 0))) := by decide
theorem test_decode_frsqe : decodeLane none (lw 0x101 10 1 0 0 0 0 4 0) =
    some (.frsqe (fm .f32 10 1 (.lane 0) (.lane 0))) := by decide
theorem test_decode_fex2 : decodeLane none (lw 0x102 10 1 0 0 0 0 4 0) =
    some (.fex2 (fm .f32 10 1 (.lane 0) (.lane 0))) := by decide
theorem test_decode_flg2 : decodeLane none (lw 0x103 10 1 0 0 0 0 4 0) =
    some (.flg2 (fm .f32 10 1 (.lane 0) (.lane 0))) := by decide
theorem test_decode_fsin : decodeLane none (lw 0x104 10 1 0 0 0 0 4 0) =
    some (.fsin (fm .f32 10 1 (.lane 0) (.lane 0))) := by decide
theorem test_decode_fcos : decodeLane none (lw 0x105 10 1 0 0 0 0 4 0) =
    some (.fcos (fm .f32 10 1 (.lane 0) (.lane 0))) := by decide
theorem test_decode_mmac : decodeLane none (lw 0x110 12 0 0 4 0 8 0 20) =
    some (.mmac (fm .s32 12 0 (.lane 4) (.lane 8)) 20) := by decide
theorem test_decode_xget : decodeLane none (lw 0x140 10 1 0 2 0 0 15 0) =
    some (.xget (fm .tf6x10 10 1 (.lane 2) (.lane 0))) := by decide
theorem test_decode_xput : decodeLane none (lw 0x141 10 1 0 2 0 0 3 0) =
    some (.xput (fm .n64 10 1 (.lane 2) (.lane 0))) := by decide
theorem test_decode_xbcast : decodeLane none (lw 0x142 10 1 2 5 0 0 4 0) =
    some (.xbcast (fm .f32 10 1 (.imm 5) (.lane 0))) := by decide
theorem test_decode_xred : decodeLane none (lw 0x143 10 1 0 0 0 0 0 1) =
    some (.xred (fm .s32 10 1 (.lane 0) (.lane 0)) .min) := by decide
theorem test_decode_xscan : decodeLane none (lw 0x144 10 1 0 0 0 0 3 13) =
    some (.xscan (fm .n64 10 1 (.lane 0) (.lane 0)) .xor true) := by decide
theorem test_decode_xvote : decodeLane none (lw 0x145 10 1 0 0 0 0 0 22) =
    some (.xvote (fm .s32 10 1 (.lane 0) (.lane 0)) .ballot 5) := by decide
theorem test_decode_ld : decodeLane none (lw 0x180 10 1 2 8 0 0 0 203) =
    some (.ld (fm .s32 10 1 (.imm 8) (.lane 0)) ⟨.b8, .si, .sync, .quad⟩) := by decide
theorem test_decode_st : decodeLane none (lw 0x181 0 1 2 8 0 3 3 54) =
    some (.st (fm .n64 0 1 (.imm 8) (.lane 3)) ⟨.full, .wt, .sync, .sys⟩) := by decide
theorem test_decode_lds : decodeLane none (lw 0x182 10 1 2 8 0 0 5 2) =
    some (.lds (fm .f64 10 1 (.imm 8) (.lane 0)) ⟨.full, .own, .plain, .core⟩) := by decide
theorem test_decode_sts : decodeLane none (lw 0x183 0 1 2 8 0 3 1 257) =
    some (.sts (fm .n32 0 1 (.imm 8) (.lane 3)) ⟨.b16, .own, .plain, .group⟩) := by decide
theorem test_decode_atom : decodeLane none (lw 0x184 10 1 0 2 0 3 0 1796) =
    some (.atom (fm .s32 10 1 (.lane 2) (.lane 3)) ⟨.cas, false, .own, .die⟩) := by decide
theorem test_decode_red : decodeLane none (lw 0x185 0 1 0 2 0 0 4 130) =
    some (.red (fm .f32 0 1 (.lane 2) (.lane 0)) ⟨.add, true, .own, .core⟩) := by decide
theorem test_decode_pref : decodeLane none (lw 0x186 0 1 2 0 0 0 0 4) =
    some (.pref (fm .s32 0 1 (.imm 0) (.lane 0)) .l1 .wt) := by decide
theorem test_decode_sdesc : decodeLane none (lw 0x187 10 1 2 3 0 0 0 1) =
    some (.sdesc (fm .s32 10 1 (.imm 3) (.lane 0)) .stash false) := by decide
theorem test_decode_subp : decodeLane none (lw 0x188 10 1 0 0 0 0 0 0) =
    some (.subp (fm .s32 10 1 (.lane 0) (.lane 0))) := by decide
theorem test_decode_unsp : decodeLane none (lw 0x189 10 1 0 0 0 0 0 0) =
    some (.unsp (fm .s32 10 1 (.lane 0) (.lane 0))) := by decide
theorem test_decode_upgp : decodeLane none (lw 0x18A 10 1 0 0 0 0 0 0) =
    some (.upgp (fm .s32 10 1 (.lane 0) (.lane 0))) := by decide
theorem test_decode_cinv : decodeLane none (lw 0x18B 0 1 2 64 0 0 0 5) =
    some (.cinv (fm .s32 0 1 (.imm 64) (.lane 0)) .pod) := by decide
theorem test_decode_cwb : decodeLane none (lw 0x18C 0 1 2 64 0 0 0 0) =
    some (.cwb (fm .s32 0 1 (.imm 64) (.lane 0)) .pkg) := by decide
theorem test_decode_cdisc : decodeLane none (lw 0x18D 9 1 2 64 0 0 0 4) =
    some (.cdisc (fm .s32 9 1 (.imm 64) (.lane 0)) .die) := by decide
theorem test_decode_fence : decodeLane none (lw 0x18E 0 0 0 0 0 0 0 54) =
    some (.fence (fm .s32 0 0 (.lane 0) (.lane 0)) ⟨true, .rel, .sys⟩) := by decide
theorem test_decode_bara : decodeLane none (lw 0x1C0 9 1 2 16 0 0 0 2) =
    some (.bara (fm .s32 9 1 (.imm 16) (.lane 0)) ⟨false, true, false⟩) := by decide
theorem test_decode_barw : decodeLane none (lw 0x1C1 0 0 2 16 1 3 0 0) =
    some (.barw (fm .s32 0 0 (.imm 16) (.scal 3)) false) := by decide
theorem test_decode_bartw : decodeLane none (lw 0x1C2 9 1 1 2 1 3 0 1) =
    some (.bartw (fm .s32 9 1 (.scal 2) (.scal 3)) true) := by decide
theorem test_decode_qpush : decodeLane none (lw 0x1C3 0 1 2 2 0 0 0 0) =
    some (.qpush (fm .s32 0 1 (.imm 2) (.lane 0))) := by decide
theorem test_decode_qpop : decodeLane none (lw 0x1C4 10 0 2 2 0 0 0 0) =
    some (.qpop (fm .s32 10 0 (.imm 2) (.lane 0))) := by decide
theorem test_decode_twait : decodeLane none (lw 0x1C5 9 1 1 2 2 5 0 106) =
    some (.twait (fm .s32 9 1 (.scal 2) (.imm 5)) .geu true .sys) := by decide
theorem test_decode_waitt : decodeLane none (lw 0x1C6 0 0 0 2 0 3 0 0) =
    some (.waitt (fm .s32 0 0 (.lane 2) (.lane 3)) .pkg) := by decide
theorem test_decode_rast : decodeLane none (lw 0x200 10 0 1 8 1 20 0 0) =
    some (.rast (fm .s32 10 0 (.scal 8) (.scal 20))) := by decide
theorem test_decode_samp : decodeLane none (lw 0x201 10 1 0 0 1 20 0 0) =
    some (.samp (fm .s32 10 1 (.lane 0) (.scal 20))) := by decide
theorem test_decode_sampg : decodeLane none (lw 0x202 10 1 0 0 1 20 0 0) =
    some (.sampg (fm .s32 10 1 (.lane 0) (.scal 20))) := by decide
theorem test_decode_trace : decodeLane none (lw 0x203 10 1 0 0 1 20 0 0) =
    some (.trace (fm .s32 10 1 (.lane 0) (.scal 20))) := by decide
theorem test_decode_omrg : decodeLane none (lw 0x204 0 1 0 2 1 20 0 85) =
    some (.omrg (fm .s32 0 1 (.lane 2) (.scal 20)) 21 true) := by decide
theorem test_decode_ckacc : decodeLane none (lw 0x240 10 1 0 0 0 0 5 1) =
    some (.ckacc (fm .f64 10 1 (.lane 0) (.lane 0)) true) := by decide
theorem test_decode_cktest : decodeLane none (lw 0x241 0 1 0 2 0 3 5 1) =
    some (.cktest (fm .f64 0 1 (.lane 2) (.lane 3)) true) := by decide
theorem test_decode_idem : decodeLane none (lw 0x242 0 0 1 2 1 3 0 0) =
    some (.idem (fm .s32 0 0 (.scal 2) (.scal 3)) false) := by decide
theorem test_decode_trapl : decodeLane none (lw 0x243 0 1 0 0 0 0 0 0) =
    some (.trapl (fm .s32 0 1 (.lane 0) (.lane 0))) := by decide
theorem test_decode_nop : decodeLane none (lw 0x27F 0 0 0 0 0 0 0 0) =
    some (.nop (fm .s32 0 0 (.lane 0) (.lane 0))) := by decide
theorem test_decode_scAdd : decodeScalar (BitVec.ofNat 32 (0x1 + 4 * 2 ^ 7 + 5 * 2 ^ 13 + 6 * 2 ^ 19)) = some (.scAdd 4 5 6) := by decide
theorem test_decode_scAddImm : decodeScalar (BitVec.ofNat 32 (0x61 + 4 * 2 ^ 7 + 5 * 2 ^ 13 + 12 * 2 ^ 19)) = some (.scAddImm 4 5 12) := by decide
theorem test_decode_scSub : decodeScalar (BitVec.ofNat 32 (0x2 + 4 * 2 ^ 7 + 5 * 2 ^ 13 + 6 * 2 ^ 19)) = some (.scSub 4 5 6) := by decide
theorem test_decode_scSubImm : decodeScalar (BitVec.ofNat 32 (0x62 + 4 * 2 ^ 7 + 5 * 2 ^ 13 + 13 * 2 ^ 19)) = some (.scSubImm 4 5 13) := by decide
theorem test_decode_scMul : decodeScalar (BitVec.ofNat 32 (0x3 + 4 * 2 ^ 7 + 5 * 2 ^ 13 + 6 * 2 ^ 19)) = some (.scMul 4 5 6) := by decide
theorem test_decode_scMulImm : decodeScalar (BitVec.ofNat 32 (0x63 + 4 * 2 ^ 7 + 5 * 2 ^ 13 + 14 * 2 ^ 19)) = some (.scMulImm 4 5 14) := by decide
theorem test_decode_scMulh : decodeScalar (BitVec.ofNat 32 (0x4 + 4 * 2 ^ 7 + 5 * 2 ^ 13 + 6 * 2 ^ 19)) = some (.scMulh 4 5 6) := by decide
theorem test_decode_scMulhImm : decodeScalar (BitVec.ofNat 32 (0x64 + 4 * 2 ^ 7 + 5 * 2 ^ 13 + 15 * 2 ^ 19)) = some (.scMulhImm 4 5 15) := by decide
theorem test_decode_scDiv : decodeScalar (BitVec.ofNat 32 (0x5 + 4 * 2 ^ 7 + 5 * 2 ^ 13 + 6 * 2 ^ 19)) = some (.scDiv 4 5 6) := by decide
theorem test_decode_scDivImm : decodeScalar (BitVec.ofNat 32 (0x65 + 4 * 2 ^ 7 + 5 * 2 ^ 13 + 16 * 2 ^ 19)) = some (.scDivImm 4 5 16) := by decide
theorem test_decode_scRem : decodeScalar (BitVec.ofNat 32 (0x6 + 4 * 2 ^ 7 + 5 * 2 ^ 13 + 6 * 2 ^ 19)) = some (.scRem 4 5 6) := by decide
theorem test_decode_scRemImm : decodeScalar (BitVec.ofNat 32 (0x66 + 4 * 2 ^ 7 + 5 * 2 ^ 13 + 17 * 2 ^ 19)) = some (.scRemImm 4 5 17) := by decide
theorem test_decode_scAnd : decodeScalar (BitVec.ofNat 32 (0x7 + 4 * 2 ^ 7 + 5 * 2 ^ 13 + 6 * 2 ^ 19)) = some (.scAnd 4 5 6) := by decide
theorem test_decode_scAndImm : decodeScalar (BitVec.ofNat 32 (0x67 + 4 * 2 ^ 7 + 5 * 2 ^ 13 + 18 * 2 ^ 19)) = some (.scAndImm 4 5 18) := by decide
theorem test_decode_scOr : decodeScalar (BitVec.ofNat 32 (0x8 + 4 * 2 ^ 7 + 5 * 2 ^ 13 + 6 * 2 ^ 19)) = some (.scOr 4 5 6) := by decide
theorem test_decode_scOrImm : decodeScalar (BitVec.ofNat 32 (0x68 + 4 * 2 ^ 7 + 5 * 2 ^ 13 + 19 * 2 ^ 19)) = some (.scOrImm 4 5 19) := by decide
theorem test_decode_scXor : decodeScalar (BitVec.ofNat 32 (0x9 + 4 * 2 ^ 7 + 5 * 2 ^ 13 + 6 * 2 ^ 19)) = some (.scXor 4 5 6) := by decide
theorem test_decode_scXorImm : decodeScalar (BitVec.ofNat 32 (0x69 + 4 * 2 ^ 7 + 5 * 2 ^ 13 + 20 * 2 ^ 19)) = some (.scXorImm 4 5 20) := by decide
theorem test_decode_scShl : decodeScalar (BitVec.ofNat 32 (0xA + 4 * 2 ^ 7 + 5 * 2 ^ 13 + 6 * 2 ^ 19)) = some (.scShl 4 5 6) := by decide
theorem test_decode_scShlImm : decodeScalar (BitVec.ofNat 32 (0x6A + 4 * 2 ^ 7 + 5 * 2 ^ 13 + 21 * 2 ^ 19)) = some (.scShlImm 4 5 21) := by decide
theorem test_decode_scShr : decodeScalar (BitVec.ofNat 32 (0xB + 4 * 2 ^ 7 + 5 * 2 ^ 13 + 6 * 2 ^ 19)) = some (.scShr 4 5 6) := by decide
theorem test_decode_scShrImm : decodeScalar (BitVec.ofNat 32 (0x6B + 4 * 2 ^ 7 + 5 * 2 ^ 13 + 22 * 2 ^ 19)) = some (.scShrImm 4 5 22) := by decide
theorem test_decode_scSra : decodeScalar (BitVec.ofNat 32 (0xC + 4 * 2 ^ 7 + 5 * 2 ^ 13 + 6 * 2 ^ 19)) = some (.scSra 4 5 6) := by decide
theorem test_decode_scSraImm : decodeScalar (BitVec.ofNat 32 (0x6C + 4 * 2 ^ 7 + 5 * 2 ^ 13 + 23 * 2 ^ 19)) = some (.scSraImm 4 5 23) := by decide
theorem test_decode_scBitc : decodeScalar (BitVec.ofNat 32 (0xD + 4 * 2 ^ 7 + 5 * 2 ^ 13 + 2 * 2 ^ 25)) = some (.scBitc 4 5 .ctz) := by decide
theorem test_decode_scSet : decodeScalar (BitVec.ofNat 32 (0xE + 4 * 2 ^ 7 + 5 * 2 ^ 13 + 6 * 2 ^ 19 + 4 * 2 ^ 25)) = some (.scSet 4 5 6 .ltu) := by decide
theorem test_decode_scSel : decodeScalar (BitVec.ofNat 32 (0xF + 4 * 2 ^ 7 + 5 * 2 ^ 13 + 6 * 2 ^ 19 + 9 * 2 ^ 25)) = some (.scSel 4 5 6 9) := by decide
theorem test_decode_scMov : decodeScalar (BitVec.ofNat 32 (0x10 + 4 * 2 ^ 7 + 5 * 2 ^ 13)) = some (.scMov 4 5) := by decide
theorem test_decode_scLimm : decodeScalar (BitVec.ofNat 32 (0x11 + 4 * 2 ^ 7 + 1 * 2 ^ 15 + 2 * 2 ^ 16 + 100 * 2 ^ 19)) = some (.scLimm 4 2 true 100) := by decide
theorem test_decode_scBr : decodeScalar (BitVec.ofNat 32 (0x20 + 7 * 2 ^ 7 + 3 * 2 ^ 13 + 1 * 2 ^ 19 + 4088 * 2 ^ 20)) = some (.scBr 7 3 true 0xFF8) := by decide
theorem test_decode_scJmp : decodeScalar (BitVec.ofNat 32 (0x21 + 33554431 * 2 ^ 7)) = some (.scJmp 0x1FFFFFF) := by decide
theorem test_decode_scCall : decodeScalar (BitVec.ofNat 32 (0x22 + 2 * 2 ^ 7)) = some (.scCall 2) := by decide
theorem test_decode_scRet : decodeScalar (BitVec.ofNat 32 (0x23)) = some (.scRet) := by decide
theorem test_decode_scLd : decodeScalar (BitVec.ofNat 32 (0x30 + 4 * 2 ^ 7 + 5 * 2 ^ 13 + 3 * 2 ^ 19 + 1 * 2 ^ 22 + 255 * 2 ^ 24)) = some (.scLd 4 5 0xFF .sync .quad) := by decide
theorem test_decode_scSt : decodeScalar (BitVec.ofNat 32 (0x31 + 4 * 2 ^ 7 + 5 * 2 ^ 13 + 6 * 2 ^ 19 + 2 * 2 ^ 22 + 2 * 2 ^ 24)) = some (.scSt 4 5 2 .sync .sys) := by decide
theorem test_decode_scAtom : decodeScalar (BitVec.ofNat 32 (0x32 + 4 * 2 ^ 7 + 5 * 2 ^ 13 + 6 * 2 ^ 19 + 4 * 2 ^ 25 + 10 * 2 ^ 28)) = some (.scAtom 4 5 6 .minu .die) := by decide
theorem test_decode_scFence : decodeScalar (BitVec.ofNat 32 (0x33 + 6 * 2 ^ 25 + 2 * 2 ^ 28 + 1 * 2 ^ 31)) = some (.scFence ⟨true, .rel, .sys⟩) := by decide
theorem test_decode_scLrun : decodeScalar (BitVec.ofNat 32 (0x40 + 4 * 2 ^ 7)) = some (.scLrun 4) := by decide
theorem test_decode_scLset : decodeScalar (BitVec.ofNat 32 (0x41 + 2 * 2 ^ 7 + 1 * 2 ^ 12 + 524287 * 2 ^ 13)) = some (.scLset 0x7FFFF true 2) := by decide
theorem test_decode_scLwait : decodeScalar (BitVec.ofNat 32 (0x42)) = some (.scLwait) := by decide
theorem test_decode_scPush : decodeScalar (BitVec.ofNat 32 (0x43 + 4 * 2 ^ 7 + 8 * 2 ^ 13 + 3 * 2 ^ 25)) = some (.scPush 4 8 3) := by decide
theorem test_decode_scFetch : decodeScalar (BitVec.ofNat 32 (0x44 + 4 * 2 ^ 7 + 5 * 2 ^ 13)) = some (.scFetch 4 5) := by decide
theorem test_decode_scYield : decodeScalar (BitVec.ofNat 32 (0x45)) = some (.scYield) := by decide
theorem test_decode_scExit : decodeScalar (BitVec.ofNat 32 (0x46)) = some (.scExit) := by decide
theorem test_decode_scCsrr : decodeScalar (BitVec.ofNat 32 (0x50 + 4 * 2 ^ 7 + 64 * 2 ^ 19)) = some (.scCsrr 4 0x40) := by decide
theorem test_decode_scCsrw : decodeScalar (BitVec.ofNat 32 (0x51 + 5 * 2 ^ 13 + 64 * 2 ^ 19)) = some (.scCsrw 5 0x40) := by decide
theorem test_decode_scTrap : decodeScalar (BitVec.ofNat 32 (0x52 + 7 * 2 ^ 19)) = some (.scTrap 7) := by decide
theorem test_decode_scTrapReturn : decodeScalar (BitVec.ofNat 32 (0x52 + 8191 * 2 ^ 19)) = some (.scTrapReturn) := by decide
theorem test_decode_scNop : decodeScalar (BitVec.ofNat 32 (0x7F)) = some (.scNop) := by decide
theorem test_decode_trLdn : decodeMicro (BitVec.ofNat 32 (0x1 + 3 * 2 ^ 5 + 2 * 2 ^ 9 + 1 * 2 ^ 11)) = some (.trLdn 3 2 true) := by decide
theorem test_decode_trBox : decodeMicro (BitVec.ofNat 32 (0x2 + 4 * 2 ^ 5)) = some (.trBox 4) := by decide
theorem test_decode_trTri : decodeMicro (BitVec.ofNat 32 (0x3 + 2 * 2 ^ 5 + 5 * 2 ^ 8 + 3 * 2 ^ 12 + 1 * 2 ^ 15)) = some (.trTri 2 5 3 true) := by decide
theorem test_decode_trXfm : decodeMicro (BitVec.ofNat 32 (0x4 + 1 * 2 ^ 6)) = some (.trXfm true false) := by decide
theorem test_decode_trDec : decodeMicro (BitVec.ofNat 32 (0x5 + 3 * 2 ^ 5 + 6 * 2 ^ 9 + 1 * 2 ^ 15)) = some (.trDec 3 6 .half) := by decide
theorem test_decode_trPush : decodeMicro (BitVec.ofNat 32 (0x6 + 3 * 2 ^ 5 + 4 * 2 ^ 9)) = some (.trPush 3 4) := by decide
theorem test_decode_trPop : decodeMicro (BitVec.ofNat 32 (0x7 + 3 * 2 ^ 5 + 4 * 2 ^ 9 + 2 * 2 ^ 13 + 1 * 2 ^ 16)) = some (.trPop 3 4 2 true) := by decide
theorem test_decode_trSort : decodeMicro (BitVec.ofNat 32 (0x8 + 3 * 2 ^ 5 + 4 * 2 ^ 9)) = some (.trSort 3 4) := by decide
theorem test_decode_trHit : decodeMicro (BitVec.ofNat 32 (0x9 + 1 * 2 ^ 5 + 2 * 2 ^ 9 + 3 * 2 ^ 13 + 4 * 2 ^ 17)) = some (.trHit 1 2 3 4) := by decide
theorem test_decode_trAny : decodeMicro (BitVec.ofNat 32 (0xA + 1 * 2 ^ 5 + 2 * 2 ^ 9 + 3 * 2 ^ 13 + 4 * 2 ^ 17)) = some (.trAny 1 2 3 4) := by decide
theorem test_decode_trBr : decodeMicro (BitVec.ofNat 32 (0xB + 2 * 2 ^ 5 + 1 * 2 ^ 8 + 200 * 2 ^ 9)) = some (.trBr 2 true 200) := by decide
theorem test_decode_trJmp : decodeMicro (BitVec.ofNat 32 (0xC + 200 * 2 ^ 5)) = some (.trJmp 200) := by decide
theorem test_decode_trAlu : decodeMicro (BitVec.ofNat 32 (0xD + 1 * 2 ^ 5 + 2 * 2 ^ 9 + 3 * 2 ^ 13 + 14 * 2 ^ 17)) = some (.trAlu 1 2 3 .flt) := by decide
theorem test_decode_trLdi : decodeMicro (BitVec.ofNat 32 (0xE + 3 * 2 ^ 5 + 1 * 2 ^ 9 + 48879 * 2 ^ 16)) = some (.trLdi 3 true 0xBEEF) := by decide
theorem test_decode_trBnd : decodeMicro (BitVec.ofNat 32 (0xF + 2 * 2 ^ 5 + 3 * 2 ^ 8 + 1 * 2 ^ 12)) = some (.trBnd 2 3 true) := by decide
theorem test_decode_trEnd : decodeMicro (BitVec.ofNat 32 (0x10)) = some (.trEnd) := by decide

/-- The three words of the worked example after R73. -/
theorem test_example_scalar_words :
    decodeScalar 0x0060A261 = some (.scAddImm 4 5 12) ∧ decodeScalar 0xFF8003A0 = some (.scBr 7 0 false 0xFF8) ∧
      decodeScalar 0x00000240 = some (.scLrun 4) := by decide

/-! ## Ill-formed terms, one for each check of WellFormed.lean -/

theorem test_ill_type : (Instr.fadd (fm .s32 10 1 (.lane 2) (.lane 0))).wf = false := by decide
theorem test_ill_class_b : (Instr.mmac (fm .s32 12 0 (.imm 4) (.lane 8)) 20).wf = false := by decide
theorem test_ill_class_c : (Instr.iaddx (fm .n64 10 1 (.lane 2) (.imm 3)) 5).wf = false := by decide
theorem test_ill_unused_b : (Instr.popc (fm .n64 10 1 (.lane 2) (.lane 0))).wf = false := by decide
theorem test_ill_unused_c : (Instr.iadd (fm .s32 10 1 (.lane 2) (.lane 3)) false).wf = false := by decide
theorem test_ill_unused_a : (Instr.mov (fm .f64 10 1 (.scal 7) (.lane 0))).wf = false := by decide
theorem test_ill_unused_d : (Instr.st (fm .n64 1 1 (.imm 8) (.lane 3)) ⟨.full, .own, .plain, .pkg⟩).wf = false := by decide
theorem test_ill_scalar_d : (Instr.cdisc (fm .s32 64 1 (.imm 64) (.lane 0)) .die).wf = false := by decide
theorem test_ill_uniform : (Instr.xget { fm .s32 10 1 (.lane 2) (.lane 0) with uni := true }).wf = false := by decide
theorem test_ill_prefix_e :
    (Instr.fadd { fm .f32 10 1 (.lane 2) (.lane 0) with pfx := some ⟨false, 1, .rne, 0⟩ }).wf = false := by decide
theorem test_ill_prefix_rm :
    (Instr.iadd { fm .s32 10 1 (.lane 2) (.lane 0) with pfx := some ⟨false, 0, .rtz, 0⟩ } false).wf = false := by decide
theorem test_ill_cvt_part : (Instr.cvt (fm .f32x2 10 1 (.lane 0) (.lane 0)) ⟨2, false, false, .f16x4⟩).wf = false := by decide
theorem test_ill_cvt_nsat : (Instr.cvt (fm .f32 10 1 (.lane 0) (.lane 0)) ⟨0, true, false, .f64⟩).wf = false := by decide
theorem test_ill_cvt_sat : (Instr.cvt (fm .f32 10 1 (.lane 0) (.lane 0)) ⟨0, false, true, .f64⟩).wf = false := by decide
theorem test_ill_rast_count : (Instr.rast (fm .s32 10 0 (.scal 9) (.scal 20))).wf = false := by decide
theorem test_ill_rast_token : (Instr.rast (fm .s32 10 0 (.scal 8) (.scal 0))).wf = false := by decide
theorem test_ill_reduce_bits : (Instr.xred (fm .f32 10 1 (.lane 0) (.lane 0)) .and).wf = false := by decide
theorem test_ill_scan_rounding :
    (Instr.xscan { fm .f32 10 1 (.lane 0) (.lane 0) with pfx := some ⟨false, 0, .rup, 0⟩ } .min false).wf = false := by decide
theorem test_ill_vote_eq : (Instr.xvote (fm .s32 10 1 (.lane 0) (.lane 0)) .eq 1).wf = false := by decide
theorem test_ill_mem_width : (Instr.ld (fm .f32 10 1 (.imm 8) (.lane 0)) ⟨.b8, .own, .plain, .pkg⟩).wf = false := by decide
theorem test_ill_spad_request : (Instr.lds (fm .s32 10 1 (.imm 8) (.lane 0)) ⟨.full, .wt, .plain, .pkg⟩).wf = false := by decide
theorem test_ill_spad_scope : (Instr.sts (fm .s32 0 1 (.imm 8) (.lane 2)) ⟨.full, .own, .plain, .quad⟩).wf = false := by decide
theorem test_ill_atomic_type : (Instr.atom (fm .f32 10 1 (.lane 2) (.lane 0)) ⟨.min, false, .own, .pkg⟩).wf = false := by decide
theorem test_ill_atomic_spad : (Instr.red (fm .s32 0 1 (.lane 2) (.lane 0)) ⟨.add, true, .nc, .core⟩).wf = false := by decide
theorem test_ill_atomic_c : (Instr.atom (fm .s32 10 1 (.lane 2) (.lane 3)) ⟨.add, false, .own, .pkg⟩).wf = false := by decide
theorem test_ill_red_swap : (Instr.red (fm .s32 0 1 (.lane 2) (.lane 0)) ⟨.swap, false, .own, .pkg⟩).wf = false := by decide
theorem test_ill_pref_nc : (Instr.pref (fm .s32 0 1 (.imm 0) (.lane 0)) .l1 .nc).wf = false := by decide
theorem test_ill_pref_level : (Instr.pref (fm .s32 0 1 (.imm 0) (.lane 0)) .llc .wt).wf = false := by decide
theorem test_ill_sdesc_remove : (Instr.sdesc (fm .s32 10 1 (.imm 3) (.lane 0)) .stream true).wf = false := by decide
theorem test_ill_bara_a : (Instr.bara (fm .s32 9 1 (.imm 16) (.lane 0)) ⟨false, false, false⟩).wf = false := by decide
theorem test_ill_cktest_int : (Instr.cktest (fm .n64 0 1 (.lane 2) (.imm 3)) false).wf = false := by decide
theorem test_ill_ckacc_float : (Instr.ckacc (fm .n64 10 1 (.lane 0) (.lane 0)) true).wf = false := by decide
theorem test_ill_idem_end : (Instr.idem (fm .s32 0 0 (.scal 2) (.scal 3)) true).wf = false := by decide
theorem test_ill_nop_guard : (Instr.nop { fm .s32 0 0 (.lane 0) (.lane 0) with guard := some ⟨0, 0, false⟩ }).wf = false := by decide
theorem test_ill_limm_chunk : (Instr.scLimm 4 5 false 1).wf = false := by decide
theorem test_ill_limm_top : (Instr.scLimm 4 4 true 0x1000).wf = false := by decide
theorem test_ill_lset : (Instr.scLset 0 false 1).wf = false := by decide
theorem test_ill_push : (Instr.scPush 4 9 0).wf = false := by decide
theorem test_ill_trap : (Instr.scTrap 0x1000).wf = false := by decide
theorem test_ill_xfm : (Instr.trXfm true true).wf = false := by decide
theorem test_ill_dec : (Instr.trDec 3 5 .half).wf = false := by decide
theorem test_ill_alu_mov : (Instr.trAlu 1 2 3 .mov).wf = false := by decide
theorem test_ill_alu_cond : (Instr.trAlu 8 2 3 .eq).wf = false := by decide

/-- Words that no term stands for: operand class 11, a scalar field above 63, a guard sense with no guard, a mod bit that the
entry does not define, an unassigned opcode, a reserved prefix bit, and rounding mode 101 (R62 to R64, R68, R75). -/
theorem test_ill_words :
    decodeLane none (lw 0x000 10 1 3 2 0 0 0 0) = none ∧ decodeLane none (lw 0x000 10 1 1 64 0 0 0 0) = none ∧
    decodeLane none (lw 0x000 10 1 0 2 0 0 0 0 + BitVec.ofNat 96 (2 ^ 73)) = none ∧
    decodeLane none (lw 0x000 10 1 0 2 0 0 0 2) = none ∧ decodeLane none (lw 0x00A 10 1 0 2 0 0 0 0) = none ∧
    decodeLane (some 0x800003FF) (lw 0x0C0 10 1 0 2 0 0 4 0) = none ∧
    decodeLane (some (0x3FF + 5 * 0x10000)) (lw 0x0C0 10 1 0 2 0 0 4 0) = none := by decide

/-! ## Small states -/

/-- A mapping of a virtual page, readable, writable, executable and open to subscriptions, and a frame that holds a page. -/
def mapT (v p : Nat) : Tlb := { asid := 0, vpage := v, level := 0, page := p, pte := dw (2 ^ 61 + 2 ^ 58 + p * 4096 + 31) }
def frameT (n p : Nat) : Frame := { num := n, page := p, dirty := false, used := 0, gone := false }

/-- The group: near registers, and values in s2 to s5. -/
def g0 : Machine.Group :=
  { placeGroup 0 with sregs := [(2, 7), (3, 2), (4, 0x20008), (5, 0x20001), (6, 0xFFFFFFFFFFFFFFF9), (61, 0xFFFFFFFF)] }

/-- A package of one quad and one channel with room in every budget, one group whose turn it is, a code page at 0x10000 and a
data page at 0x20000, both mapped and resident. -/
def s0 : State :=
  let s := placeUnits State.reset
  { s with
    pkg := { s.pkg with quads := [0], chans := [0], ports := [0, 1], links := [0, 1], nframes := 16 }
    gov := { s.gov with periods := 1, left := [0, 4096, 8192, 8193, 8194, 8195].flatMap fun r => tab 6 fun k => (8 * r + k, 1000000) }
    xl := { s.xl with tlb := [mapT 0x10 0x40, mapT 0x20 0x41] }
    mem := { s.mem with frames := [frameT 0 0x40, frameT 1 0x41], icache := [{ quad := 0, line := 0x1000, here := true }] }
    groups := [g0] }
def r0 : Grid := { (default : Grid) with id := 1, k := placeKernel, placed := [0] }
def c0 : Crew := { (default : Crew) with grid := 1, num := 0, core := 0, gids := [0], size := 65536 }
/-- The leaf of the data page. -/
def pte0 : Nat := 2 ^ 61 + 2 ^ 58 + 0x41 * 4096 + 31

/-- The same state with another group. -/
def withG (g : Machine.Group) : State := { s0 with groups := [g] }

/-! ## States that meet the hypotheses: encodings and steps -/

theorem witness_LaneWordsRoundTrip : ∃ i p w, i.wf = true ∧ encodeLane i = some (p, w) ∧ w ≠ 0 ∧ decodeLane p w = some i :=
  ⟨.iadd (fm .s32 10 1 (.lane 2) (.lane 0)) false, none, lw 0x000 10 1 0 2 0 0 0 0, by decide⟩
theorem witness_LaneWordsRoundTrip_zero : ∃ i p, i.wf = true ∧ encodeLane i = some (p, 0) :=
  ⟨.iadd (fm .s32 0 0 (.lane 0) (.lane 0)) false, none, by decide⟩
theorem witness_ScalarAndMicroWordsRoundTrip :
    (∃ i w, i.wf = true ∧ encodeScalar i = some w) ∧ ∃ i w, i.wf = true ∧ encodeMicro i = some w :=
  ⟨⟨.scNop, 0x7F, by decide⟩, ⟨.trEnd, 0x10, by decide⟩⟩

/-- The state in which the next step fetches SC.NOP, an IADD, and TR.BND. -/
def stepS : State := State.reset.withFetchWord 32 0x7F
def stepL : State := State.reset.withFetchWord 96 (lw 0x000 10 1 0 2 0 0 0 0).toNat
def stepM : State := State.reset.withFetchWord 32 0x2F
def rayM : Ray := stepM.rays.headD default

theorem witness_StepRuns_scalar : ∃ g, stepS.agenda = [.scalar 0] ∧ findGroup stepS.groups 0 = some g ∧
    canIssue { stepS with agenda := [] } g = true ∧ g.park = .none ∧ g.run = [] ∧ g.frozenS = false ∧ g.frozenL = false ∧
    g.pairWait = none ∧ g.answer = none ∧
    passedOver { stepS with agenda := [] } g scalarCould = false ∧
    fetchUnit (offer { stepS with agenda := [] } 0 false) g.core g.asid g.spc.toNat = .word 0x7F ∧ decodeScalar 0x7F = some .scNop :=
  ⟨placeReady (placeGroup 0), by decide⟩
theorem witness_StepRuns_lane : ∃ g q, stepL.agenda = [.lane 0] ∧ findGroup stepL.groups 0 = some g ∧
    canIssue { stepL with agenda := [] } g = true ∧ g.park = .none ∧ g.pipe.isSome = true ∧ g.answer = none ∧
    g.queue.head? = some q ∧ entryInstr q = some (.iadd (fm .s32 10 1 (.lane 2) (.lane 0)) false) ∧
    passedOver { stepL with agenda := [] } g laneCould = false :=
  ⟨(findGroup stepL.groups 0).getD default, ((findGroup stepL.groups 0).getD default).queue.headD default, by decide⟩
theorem witness_StepRuns_micro : stepM.agenda = [.micro 0] ∧ findRay stepM 0 = some rayM ∧ rayM.stage = .slot 0 ∧
    rayMay { stepM with agenda := [] } rayM = true ∧ rayM.steps < rayM.budget ∧
    decodeMicro (microWord { stepM with agenda := [] } rayM 0) = some (.trBnd 1 0 false) := by decide
theorem witness_StepRuns_event : ∃ (s : State) (i : Instr), s.agenda = [.event i] :=
  ⟨{ s0 with agenda := [.event .accessCounterHalve] }, _, rfl⟩

theorem witness_StepKeepsMemoryCanonical : ∃ s t, memWf s.mem = true ∧ step s = .next t :=
  ⟨stepS, _, by decide, rfl⟩
/-- SC.NOP moves SPC by 4 (R410, R72). -/
theorem test_step_nop : ∃ t, step stepS = .next t ∧ (curG t).map (·.spc) = some 0x10004 := ⟨_, rfl, by decide⟩

/-! ## The scalar stream -/

theorem witness_ScalarArithmetic : ScalarReady s0 g0 [2, 3, 1] ∧ ScalarReady s0 g0 [2, 1] := by decide
theorem witness_ScalarSelects : ScalarReady s0 g0 [2, 1] ∧ ScalarReady s0 g0 [2, 3, 1] ∧ ScalarReady s0 g0 [2, 3, 4, 1] ∧
    ScalarReady s0 g0 [1] := by decide
theorem witness_ScalarTransfers : ScalarReady s0 g0 [2] ∧ ScalarReady s0 g0 [] ∧ ScalarReady s0 g0 [62] := by decide
/-- The rows of R392, with x in s2 or s6 and y in s3 or s0. -/
theorem test_example_div : ∃ t, exec (.scDiv 1 6 3) s0 = .next t ∧ (curG t).map (scal · 1) = some (BitVec.ofInt 64 (-3)) :=
  ⟨_, rfl, by decide⟩
theorem test_example_rem : ∃ t, exec (.scRem 1 6 3) s0 = .next t ∧ (curG t).map (scal · 1) = some (BitVec.ofInt 64 (-1)) :=
  ⟨_, rfl, by decide⟩
theorem test_example_div_zero : ∃ t, exec (.scDiv 1 2 0) s0 = .next t ∧ (curG t).map (scal · 1) = some 0xFFFFFFFFFFFFFFFF :=
  ⟨_, rfl, by decide⟩

/-- A group that has reserved s2. -/
def gResv : Machine.Group := { g0 with resv := 4 }
theorem witness_ScalarOperandTraps_hazard : computes (.scAdd 1 2 3) = some (1, [2, 3]) ∧ curG (withG gResv) = some gResv ∧
    ([2, 3] ++ [1] : List SReg).find? (fun x => reserved gResv x.toNat) = some 2 := by decide
theorem witness_ScalarOperandTraps_names : ∀ x ∈ [(Instr.scLd 1 2 0 .plain .pkg, [2, 1]), (.scSt 2 1 0 .plain .pkg, [1, 2]),
    (.scAtom 1 3 2 .add .pkg, [3, 2, 1]), (.scBr 2 0 true 0, [2]), (.scPush 2 8 1, tab 8 (fun k => 8 + BitVec.ofNat 6 k) ++ [2]),
    (.scFetch 1 2, [2, 1]), (.scCsrr 2 0x40, [2]), (.scCsrw 2 0x40, [2])],
    names x.1 = some x.2 ∧ x.2.find? (fun r => reserved gResv r.toNat) = some 2 := by decide
theorem witness_ScalarOperandTraps_link : ∀ i ∈ [Instr.scCall 0, .scRet], names i = some [62] ∧
    ([62] : List SReg).find? (fun r => reserved { g0 with resv := 2 ^ 62 } r.toNat) = some 62 := by decide +kernel
theorem witness_ScalarOperandTraps_align : ScalarReady s0 g0 [5, 1] ∧ ScalarReady s0 g0 [5, 2, 1] ∧
    (scal g0 5 + BitVec.ofInt 64 ((0 : BitVec 8).toInt * 8)).toNat % 8 ≠ 0 ∧ (scal g0 5).toNat % 8 ≠ 0 := by decide
/-- The data page absent, unmapped, without any right, a device-only part of a replay area, and quarantined. -/
def withT (pte : Nat) : State := { s0 with xl := { s0.xl with tlb := [mapT 0x10 0x40, { mapT 0x20 0x41 with pte := dw pte }] } }
def absS : State := { s0 with mem := { s0.mem with frames := [frameT 0 0x40] } }
def noT : State := { s0 with xl := { s0.xl with tlb := [mapT 0x10 0x40] } }
def bareP : Nat := 2 ^ 58 + 0x41 * 4096 + 17
def quaP : Nat := 2 ^ 63 + pte0
def devS : State :=
  { noT with xl := { noT.xl with firm := [{ grid := 1, crew := 0, asid := 0, vpage := 0x20, page := 0x42, write := false, read := false }] } }
theorem witness_Pages : ∀ n ∈ [needLoad, needStore, needAtomic], look absS 0 0x20008 n = .absent 0x41008 ∧
    look noT 0 0x20008 n = .xlate 5 0 ∧ look (withT bareP) 0 0x20008 n = .prot bareP ∧ look devS 0 0x20008 n = .devOnly ∧
    look (withT quaP) 0 0x20008 n = .quar 0x41008 := by decide
theorem witness_Pages_wait : (Hit.absent 0x41008).waits = true ∧ (Hit.xlate 5 0).waits = true ∧ (Hit.prot bareP).waits = true ∧
    Hit.devOnly.waits = false := by decide
theorem witness_ScalarOperandTraps_pages : ∀ s ∈ [absS, noT, withT bareP, devS, withT quaP],
    ScalarReady s g0 [4, 2, 1] ∧ (scal g0 4 + BitVec.ofInt 64 ((0 : BitVec 8).toInt * 8)).toNat = 0x20008 ∧ fenced s g0 true = false := by
  decide
theorem witness_ScalarFrame : computes (.scAdd 1 2 3) = some (1, [2, 3]) ∧ ScalarReady s0 g0 ([2, 3] ++ [1]) := by decide

/-- A group with a private stack at 0x20000 to 0x20800, whose stack pointer stands in it. -/
def gStk : Machine.Group := { g0 with stkbase := 0x20800, stklimit := 0x20000, sregs := g0.sregs ++ [(63, 0x20000)] }
theorem witness_ScalarLoad_stack : ScalarReady (withG gStk) gStk [4, 1] ∧ (0x20008 : Nat) % 8 = 0 ∧
    fenced (withG gStk) gStk true = false ∧ look (withG gStk) 0 0x20008 needLoad = .ok 0x41008 pte0 ∧
    stackServes gStk 0x20008 = true ∧ (let s1 := learnAll (withG gStk) 0 (asking needLoad [(0, 0x20008)])
      stackBusy s1 gStk { thr := 0, va := 0x20008, pa := 0x41008, ok := pteOk pte0 } false .pkg = false) := by decide
theorem witness_ScalarLoad_stack_fetch : ∃ s2, stackFetch (learnAll (withG gStk) 0 (asking needLoad [(0, 0x20008)])) gStk (scalarWho gStk) [0x20008] =
    (s2, true) ∧ stackPoison s2 gStk 0x20008 0x41008 8 = false := ⟨_, rfl, by decide⟩
def foundD : Found := { thr := 0, va := 0x20008, pa := 0x41008, ok := pteOk pte0 }
theorem witness_ScalarLoad : ∃ s2, ScalarReady s0 g0 [4, 1] ∧ fenced s0 g0 true = false ∧
    look s0 0 0x20008 needLoad = .ok 0x41008 pte0 ∧ stackServes g0 0x20008 = false ∧
    (let s1 := learnAll s0 0 (asking needLoad [(0, 0x20008)])
     scalarFree s1 g0 foundD = true ∧ (∀ m ∈ s1.coh.msgs, m.core = g0.core → m.about (0x41008 / 64) 0 (0x20008 / 64) = false) ∧
     scalarReach s1 g0 (scalarReq s1 g0 foundD .load .plain .pkg .add 0 0) = (s2, true) ∧ poisoned s2 0x41008 8 = false) :=
  ⟨_, by decide, by decide, by decide, by decide, by decide, by decide, rfl, by decide⟩
theorem witness_ScalarStore : ScalarReady s0 g0 [4, 1] ∧ fenced s0 g0 true = false ∧
    look s0 0 0x20008 needStore = .ok 0x41008 pte0 ∧ stackServes g0 0x20008 = false ∧
    slotsOk (learnAll s0 0 (asking needStore [(0, 0x20008)])) 0 [0x41008 / 64] = true := by decide
theorem witness_ScalarStore_release : ∃ s2, releasePaid s0 (scalarWho g0) (agentOf s0 g0 true 0) .pkg = (s2, true) := ⟨_, rfl⟩
theorem witness_ScalarStore_stack : ScalarReady (withG gStk) gStk [4, 1] ∧ fenced (withG gStk) gStk true = false ∧
    look (withG gStk) 0 0x20008 needStore = .ok 0x41008 pte0 ∧ stackServes gStk 0x20008 = true ∧
    stackBusy (learnAll (withG gStk) 0 (asking needStore [(0, 0x20008)])) gStk foundD true .pkg = false := by decide
theorem witness_ScalarStore_stack_fetch : ∃ s2 s3, stackFetch (learnAll (withG gStk) 0 (asking needStore [(0, 0x20008)])) gStk (scalarWho gStk) [0x20008] =
    (s2, true) ∧ releasePaid s2 (scalarWho gStk) (agentOf s2 gStk true 0) .pkg = (s3, true) := ⟨_, _, rfl, rfl⟩
theorem witness_ScalarAtomic : ∃ s2 s3 s4, ScalarReady s0 g0 [4, 2, 1] ∧ fenced s0 g0 true = false ∧
    look s0 0 0x20008 needAtomic = .ok 0x41008 pte0 ∧
    (let s1 := learnAll s0 0 (asking needAtomic [(0, 0x20008)])
     atomWaits s1 g0 foundD .pkg = false ∧ spillCharged s1 g0 (scalarWho g0) (fun va => va / 256 == 0x20008 / 256) = (s2, true) ∧
     atomRelease s2 g0 foundD .pkg = (s3, true) ∧
     scalarReach s3 g0 (scalarReq s1 g0 foundD .atomic .sc .pkg .add (scal g0 2) (scal g0 2)) = (s4, true) ∧
     poisoned s4 0x41008 8 = false) :=
  ⟨_, _, _, by decide, by decide, by decide, by decide, rfl, rfl, rfl, by decide⟩

theorem witness_ScalarStreamControl : ScalarReady s0 g0 [] ∧ gridOf s0 g0 = some r0 ∧ g0.queue = [] ∧ g0.infl = [] ∧
    g0.fetch = none ∧ ∀ r ∈ s0.rays, r.gid ≠ g0.gid := by decide
theorem witness_ScalarStreamControl_fence : ∃ s1, flushPaid s0 (scalarWho g0) 0 0 none = (s1, true) := ⟨_, rfl⟩
theorem witness_ScalarStreamControl_exit : s0.reqs = [] ∧ ∃ s1, spillCharged s0 g0 (scalarWho g0) (fun _ => true) = (s1, true) := ⟨by decide, _, rfl⟩

/-- Lane words at 0x10000: IADD, and an unassigned opcode; and the group whose LPC stands there. -/
def putBytes (s : State) (pa : Nat) (bs : List Byte) : State := { s with mem := placeBytes s.mem pa bs }
def gRun : Machine.Group := { g0 with lpc := 0x10000 }
def runS : State := putBytes (withG gRun) 0x40000 (laneBytes none (lw 0x000 10 1 0 2 0 0 0 0))
def runIll : State := putBytes (withG gRun) 0x40000 (laneBytes none (lw 0x00A 10 1 0 2 0 0 0 0))
def gHaz : Machine.Group := { gRun with resv := 4 }
def runHaz : State := putBytes (withG gHaz) 0x40000 (laneBytes none (lw 0x000 10 1 1 2 0 0 0 0))
theorem witness_LaneRun : ∃ es, ScalarReady runS gRun [] ∧ gridOf runS gRun = some r0 ∧ gRun.lrem = 0 ∧ gRun.lpc.toNat % 4 = 0 ∧
    checkRun runS (startG gRun) placeKernel 1 0x10000 (startG gRun).resv [] = .ok es ∧ queueFree gRun = true ∧ es ≠ [] :=
  ⟨_, by decide, by decide, by decide, by decide, rfl, by decide, by decide⟩
theorem witness_LaneRun_illegal : ScalarReady runIll gRun [] ∧ gridOf runIll gRun = some r0 ∧
    checkRun runIll (startG gRun) placeKernel 1 0x10000 (startG gRun).resv [] = .illegal 0x10000 := by decide
theorem witness_LaneRun_hazard : ScalarReady runHaz gHaz [] ∧ gridOf runHaz gHaz = some r0 ∧
    checkRun runHaz (startG gHaz) placeKernel 1 0x10000 (startG gHaz).resv [] = .hazard 2 0x10000 := by decide

theorem witness_PushAndFetch_push : ScalarReady s0 g0 (tab 8 (fun k => 8 + BitVec.ofNat 6 k) ++ [1]) ∧
    fenced s0 g0 true = false ∧ releaseWaits s0 g0 true 0 .pkg = false := by decide
/-- Persistent grids, and a group whose fetch is outstanding. -/
def rPer : Grid := { r0 with kind := .persist }
def gFet : Machine.Group := { g0 with fetch := some (0, 1) }
theorem witness_PushAndFetch_fetch : ScalarReady s0 g0 [0, 1] ∧ crewOf s0 g0 = some c0 ∧ gridOf s0 g0 = some r0 ∧
    (scal g0 0).toInt % 16 = 0 ∧ inAlloc c0 (scal g0 0).toInt 16 = true ∧ r0.kind ≠ .persist := by decide
theorem witness_PushAndFetch_persist : let s := { s0 with grids := [rPer] }
    ScalarReady s g0 [0, 1] ∧ crewOf s g0 = some c0 ∧ gridOf s g0 = some rPer ∧ rPer.kind = .persist ∧ g0.fetch = none := by decide
theorem witness_PushAndFetch_busy : let s := { withG gFet with grids := [rPer] }
    ScalarReady s gFet [0, 1] ∧ crewOf s gFet = some c0 ∧ gridOf s gFet = some rPer ∧ gFet.fetch.isSome = true := by decide

theorem witness_ControlRegisters : ScalarReady s0 g0 [1] ∧ csrValue s0 g0 0x009 = some 0 ∧ fenced s0 g0 true = false ∧ isEngineReg 0x009 = false ∧
    csrValue s0 g0 0xFFF = none ∧ ScalarReady s0 g0 [1, 2] ∧ csrReadOnly 0x000 = true ∧ (scal g0 2).toNat < 32 ∧
    32 ≤ (scal g0 4).toNat ∧ (scal g0 4).toNat < 2 ^ 32 := by decide
/-- Values too wide for cr.tmask, cr.fmtword, and no register but a shape register. -/
def gWide (v : Nat) : Machine.Group := { g0 with sregs := [(2, dw v)] }
theorem witness_ControlRegisters_wide : ScalarReady (withG (gWide (2 ^ 32))) (gWide (2 ^ 32)) [2] ∧ 2 ^ 32 ≤ (scal (gWide (2 ^ 32)) 2).toNat ∧
    4 ≤ (scal (gWide 8) 2).toNat ∧ (scal (gWide 8) 2).toNat < 2 ^ 16 ∧ engineFree (withG (gWide 8)) (gWide 8) = true ∧
    ScalarReady (withG (gWide 8)) (gWide 8) [2] := by decide
/-- Another crew holds the engine; and the crew's engine is busy with a task while cr.tmask.pair is to change. -/
def sHeld : State := { s0 with engines := [(0, { (default : Matrix) with holder := some (1, 7) })] }
theorem witness_ControlRegisters_held : ScalarReady sHeld g0 [1, 2] ∧ isEngineReg 0x105 = true ∧ engineFree sHeld g0 = false := by decide
def sBusy : State :=
  { withG (gWide 1) with
    engines := [(0, { (default : Matrix) with holder := some (1, 0), window := [{ (default : Task) with grid := 1, stage := .issued }] })] }
theorem witness_ControlRegisters_pair : ScalarReady sBusy (gWide 1) [2] ∧ engineFree sBusy (gWide 1) = true ∧
    (scal (gWide 1) 2).getLsbD 0 ≠ (engineFor sBusy (gWide 1)).tmask.getLsbD 0 ∧
    pairBusy (setEngine sBusy 0 (engineFor sBusy (gWide 1))) 0 = true ∧
    pairBusy (setEngine s0 0 (engineFor s0 g0)) 0 = false := by decide
theorem witness_ControlRegisters_engine : ∃ v, csrValue s0 g0 0x100 = some v ∧ isEngineReg 0x100 = true ∧ engineFree s0 g0 = true :=
  ⟨_, rfl, by decide, by decide⟩
/-- The code page is not executable. -/
def noX : State := { s0 with xl := { s0.xl with tlb := [{ mapT 0x10 0x40 with pte := dw (2 ^ 58 + 0x40 * 4096 + 7) }] } }
theorem witness_TrapsOfTheScalarStream : ∃ e, curG noX = some g0 ∧ decodeScalar 0 = none ∧ fetchUnit noX 0 0 0x10000 = .bad e :=
  ⟨2 ^ 58 + 0x40 * 4096 + 7, by decide⟩

/-- A group with a trap vector, one in handler mode, and the pages of its replay area. -/
def gVec : Machine.Group := { g0 with trapvec := 0x10100, replay := 0x30000 }
def gHan : Machine.Group := { gVec with handler := true }
theorem witness_TakingATrap : curG (withG gVec) = some gVec ∧ gVec.handler = false ∧ vector gVec ≠ 0 ∧ vector g0 = 0 := by decide
theorem witness_TakingATrap_abort : curG (withG gHan) = some gHan ∧ gHan.handler = true := by decide
theorem witness_DeviceWriteReadsBack_sent : (s0.mem.outbox = [] ∧ wayOpen s0 0x41008 8 = true) ∧ memWf s0.mem = true := by decide
theorem witness_DeviceWriteReadsBack_waits :
    ¬ (({ s0.mem with outbox := [(0x41008, [1])] } : Mem).outbox = []) := by decide
theorem witness_DeviceWriteReadsBack : (∀ l ∈ s0.mem.l1, l.kind ≠ .owned) ∧ (∀ c ∈ s0.crews, c.stash = []) ∧
    s0.mem.sectors.length + 256 < 8192 := by decide
def retS : State :=
  { withG gHan with xl := { s0.xl with firm := [{ grid := 1, crew := 0, asid := 0, vpage := 0x30, page := 0x42, write := true, read := true }] } }
theorem witness_TrapReturn_outside : curG s0 = some g0 ∧ g0.handler = false := by decide
theorem witness_TrapReturn : curG retS = some gHan ∧ gHan.handler = true ∧ gHan.queue = [] ∧ gHan.infl = [] ∧
    replayBusy retS gHan = false ∧ gridOf retS gHan = some r0 ∧
    (let s1 := (flushPaid retS (scalarWho gHan) 0 0 none).1
     let x := readReturn (noteReads s1 (returnLines s1 gHan)) gHan
     reachable s1 (returnLines s1 gHan) = true ∧ x.lrem = 0 ∧ x.qn ≤ 16 ∧ stackBad gHan (dw (x.ssave.getD 7 0)) = false ∧ checkImage r0.k x.entries 0 = none) := by decide

/-! ## Lane instructions -/

/-- An entry with mask 0b11, a form over v1, v2 and v10, and the group with it at the head of its queue; v1 holds the address
0x20008 in each thread. -/
def q0 : QEntry := { addr := 0x10000, pfx := 0, word := lw 0x000 10 1 0 2 0 0 0 0, caps := [0, 0, 3] }
def f0 (ty : Ty) : LaneForm := fm ty 10 1 (.lane 2) (.lane 3)
def gL : Machine.Group := { g0 with queue := [q0], lanes := [(32, 0x20008), (33, 0x20008)] }
def sL : State := withG gL

theorem witness_active : actives gL q0 (f0 .s32) = [0, 1] := by decide
theorem witness_LaneIntegers : ∀ i ∈ [Instr.iadd (f0 .s32) true, .isub (f0 .s32) false, .imul (f0 .s32) true, .imulh (f0 .s32),
    .imad (f0 .s32) false, .imin (f0 .s32), .imax (f0 .s32), .iabs (f0 .s32) true], LaneReady sL i gL q0 := by decide
theorem witness_LaneCarryAndDots : ∀ i ∈ [Instr.iaddx (f0 .n32) 0, .iaddx (f0 .n64) 63, .idp4 (f0 .s8x8) true],
    LaneReady sL i gL q0 := by decide
theorem witness_LaneBitOperations : ∀ i ∈ [Instr.lop3 (f0 .s32) 0x96, .shl (f0 .s32), .shr (f0 .s32), .sra (f0 .s32), .fshl (f0 .s32),
    .fshr (f0 .s32), .brev (f0 .s32), .popc (f0 .s32), .clz (f0 .s32), .bfe (f0 .s32), .bfi (f0 .s32), .bperm (f0 .n32)],
    LaneReady sL i gL q0 := by decide
theorem witness_LaneMovesAndCompares : ∀ i ∈ [Instr.icmp (f0 .s32) .lt, .sel (f0 .s32) 0, .mov (f0 .s32), .movi (f0 .s32) 1,
    .pack (f0 .s8x8) .odd, .unpk (f0 .s8x8) true, .sreg (f0 .n64) .tid], LaneReady sL i gL q0 := by decide
theorem witness_LaneFloats : ∀ i ∈ [Instr.fadd (f0 .f32), .fsub (f0 .f32), .fmul (f0 .f32), .ffma (f0 .f32), .fmin (f0 .f32),
    .fmax (f0 .f32), .frnd (f0 .f32), .fcmp (f0 .f32) .eq, .fdot2 (f0 .f32x2)], LaneReady sL i gL q0 := by decide
/-- Quiet and signalling NaNs, infinities of both signs, ∞ × 0, and zeros of both signs in binary32. -/
theorem witness_FloatSpecials : (dec .f32 0x7FC00000).isNan = true ∧ (dec .f32 0x7F800001).isSig = true ∧
    dec .f32 0x7F800000 = .inf false ∧ dec .f32 0xFF800000 = .inf true ∧ badProd (dec .f32 0x7F800000) (dec .f32 0) = true ∧
    (dec .f32 0x80000000).isZero = true ∧ (dec .f32 0x80000000).isNeg = true ∧ (dec .f32 0).isZero = true ∧
    (dec .f32 0).isNeg = false ∧ (dec .f32 0).isNan = false := by decide
/-- A product that is an infinity, with the other infinity as addend, and ∞ × 0 with a finite one. -/
theorem witness_FloatSpecials_ffma : (dec .f32 0x7F800000).isNan = false ∧ (dec .f32 0xBF800000).isNan = false ∧
    badProd (dec .f32 0x7F800000) (dec .f32 0xBF800000) = false ∧ (dec .f32 0x7F800000).isFin = false ∧
    ((dec .f32 0x7F800000).isNeg != (dec .f32 0xBF800000).isNeg) = true ∧ (dec .f32 0x3F800000).isNan = false := by decide
/-- Finite operands of binary16: 1.0, 1 + 2^-10, and 2^-11, at which 1.0 + 2^-11 lies midway between the first two (R93). -/
theorem witness_LaneFloats_rounds : Fmt.f16.tapered = false ∧ dec .f16 0x3C00 = .fin false ⟨16777216, 16777216⟩ ∧
    dec .f16 0x3C01 = .fin false ⟨16793600, 16777216⟩ ∧ dec .f16 0x1000 = .fin false ⟨8192, 16777216⟩ ∧ 0x3C01 ≤ Fmt.f16.maxBits := by decide
/-- That sum goes to the even neighbour, upward, and away from zero, each with nx; 1 + 1 is exact (R93, R95). -/
theorem test_round_tie : fadd .f16 .rne 0x3C00 0x1000 = (0x3C00, nxF) ∧ fadd .f16 .rne 0x3C01 0x1000 = (0x3C02, nxF) ∧
    fadd .f16 .rup 0x3C00 0x1000 = (0x3C01, nxF) ∧ fadd .f16 .rdn 0x3C00 0x1000 = (0x3C00, nxF) ∧
    fadd .f16 .rna 0x3C00 0x1000 = (0x3C01, nxF) ∧ fadd .f16 .rne 0x3C00 0x3C00 = (0x4000, 0) := by decide
theorem witness_LaneFloats_dot : dec .f16 0x3C00 = .fin false ⟨16777216, 16777216⟩ ∧ (dec .f32 0x3F800000).isFin = true := by decide
theorem witness_LaneEstimates : ∀ i ∈ [Instr.frcpe (f0 .f32), .frsqe (f0 .f32), .fex2 (f0 .f32), .flg2 (f0 .f32), .fsin (f0 .f32),
    .fcos (f0 .f32), .cvt (f0 .f32) ⟨0, false, false, .s32⟩, .ckacc (f0 .s32) false, .ckacc (f0 .f32) true],
    LaneReady sL i gL q0 := by decide
theorem witness_LaneCrossings : ∀ i ∈ [Instr.xget (f0 .s32), .xbcast (f0 .s32), .xscan (f0 .s32) .add true, .xvote (f0 .s32) .eq 0,
    .xput (f0 .s32)], LaneReady sL i gL q0 := by decide
theorem witness_LanePendingResults : LaneReady sL (.xred (f0 .s32) .add) gL q0 ∧ LaneReady sL (.mmac (f0 .s32) 20) gL q0 ∧
    (f0 .s32).b = .lane 2 ∧ (f0 .s32).c = .lane 3 ∧ actives gL q0 (f0 .s32) = 0 :: [1] := by decide
/-- The format word 0x00000477 of MMAC in v20: the threads agree, and do not. -/
theorem witness_LanePendingResults_format :
    (fmtWordOk 0x477 = true ∧ fmtO 0x477 = 4) ∧ fmtWordOk 0xFFFFFFFF = false := by decide
/-- A result of v10 that waits for nothing more, with a value for s7, of a group parked at a marker. -/
def inf0 : Inflight := { (default : Inflight) with id := 9, kind := .reduce, rows := [10], sreg := some 7, sval := 3 }
def gInf : Machine.Group := { gL with infl := [inf0], pend := [10], park := .marker }
theorem witness_ResultsReturn : findGroup (withG gInf).groups gInf.gid = some gInf ∧
    (gInf.infl.find? fun x => x.id == inf0.id && x.needs == 0) = some inf0 ∧ inf0.kind = .reduce ∧
    inf0.sreg = some 7 ∧ gInf.park = .marker := by decide
/-- A RAST behind an earlier one of its core, and one that is the first. -/
def infR (id : Nat) : Inflight := { inf0 with id := id, kind := .rast }
def gRasts : Machine.Group := { gL with infl := [infR 9, infR 4], pend := [10] }
theorem witness_ResultsReturn_rast : (gRasts.infl.find? fun x => x.id == 9 && x.needs == 0) = some (infR 9) ∧
    rastAhead (withG gRasts) gRasts 9 = true ∧ (gRasts.infl.find? fun x => x.id == 4 && x.needs == 0) = some (infR 4) ∧
    rastAhead (withG gRasts) gRasts 4 = false := by decide
/-- A BARTW under a hint at offset 64, whose memory reads generation 0, for generation 0 and for generation 15; and a POISON record
of a TRACE. -/
def infB (gen : Nat) : Inflight := { inf0 with kind := .tryBar, caps := [64, dw gen, 0, 9], sval := 0 }
theorem witness_ResultsReturn_bad : tryBad { sL with poisonSpad := [(0, 16)] } gL (infB 0) = true ∧ tryBad sL gL (infB 0) = false := by decide
/-- A load's result that rewrites v10 in every thread, of a poisoned row. -/
theorem witness_ResultsReturn_clean : let i := { inf0 with whole := true }
    i.whole = true ∧ (10 : Nat) ∈ i.rows ∧ ((0, 10) : Nat × Nat) ∈ ({ sL with poisonRows := [(0, 10)] } : State).poisonRows := by decide
theorem witness_ResultsReturn_bartw : tryHolds sL gL (infB 0) = none ∧ (tryHolds sL gL (infB 15)).isSome = true := by decide
def infP : Inflight := { inf0 with kind := .trace, aux := 1, caps := [2, 2, 0, 0] }
theorem witness_ResultsReturn_trace : infP.kind = .trace ∧ infP.aux = 1 ∧ infP.needs = 0 := by decide
def gPend : Machine.Group := { gL with pend := [1] }
def sBad : State := { sL with poisonRows := [(0, 1)] }
theorem witness_LaneHazard : (laneForm (.iadd (f0 .s32) false)).isSome = true ∧ curG (withG gPend) = some gPend ∧
    gPend.queue.head? = some q0 ∧ (((laneRows (.iadd (f0 .s32) false)).1 ++ (laneRows (.iadd (f0 .s32) false)).2).find?
      fun r => gPend.pend.contains r || gPend.held.contains r) = some 1 := by decide
theorem witness_LanePoison : curG sBad = some gL ∧ gL.queue.head? = some q0 ∧
    (((laneRows (.iadd (f0 .s32) false)).1 ++ (laneRows (.iadd (f0 .s32) false)).2).find?
      fun r => gL.pend.contains r || gL.held.contains r) = none ∧
    ((laneRows (.iadd (f0 .s32) false)).1.find? fun r => sBad.poisonRows.contains (gL.gid, r)) = some 1 := by decide
theorem witness_LaneFrame : inPipe (.iadd (f0 .s32) false) = some (f0 .s32) ∧ LaneReady sL (.iadd (f0 .s32) false) gL q0 := by decide

/-- IADDX of the worked example after R349: v10 = v1 + v2 and the carry in bit 32 of the row. -/
def gAdd : Machine.Group := { gL with lanes := [(32, 0xFFFFFFFF), (64, 1)] }
theorem test_example_iaddx : ∃ t, exec (.iaddx (fm .n32 10 1 (.lane 2) (.lane 3)) 0) (withG gAdd) = .next t ∧
    (curG t).map (lane · 10 0) = some 0x0000000100000000 := ⟨_, rfl, by decide⟩
/-- 1 + 1 = 2 and 1 + −1 = +0 in binary32 (R93). -/
def gOne : Machine.Group := { gL with lanes := [(32, 0x3F800000), (33, 0x3F800000), (64, 0x3F800000), (65, 0xBF800000)] }
theorem test_fadd : ∃ t, exec (.fadd (fm .f32 10 1 (.lane 2) (.lane 0))) (withG gOne) = .next t ∧
    (curG t).map (fun g => (lane g 10 0, lane g 10 1)) = some (0x40000000, 0) := ⟨_, rfl, by decide⟩

/-! ## Lane memory -/

def m0 : MemMod := ⟨.full, .own, .plain, .pkg⟩
def a0 : AtomMod := ⟨.add, false, .own, .pkg⟩
/-- The form with v1 + 0 as address. -/
def fA (ty : Ty) : LaneForm := fm ty 10 1 (.imm 0) (.lane 3)
theorem witness_GlobalAccesses : ∀ x ∈ [(Instr.ld (fA .s32) m0, loadOf (fA .s32) m0), (.st (fA .s32) m0, storeOf gL q0 (fA .s32) m0),
      (.atom (fA .s32) a0, globalAtom gL q0 (fA .s32) a0 false), (.red (fA .s32) a0, globalAtom gL q0 (fA .s32) a0 true)],
    LaneReady sL x.1 gL q0 ∧
    let els := asking x.2.need ((actives gL q0 (fA .s32)).map fun u => (u, 0x20008))
    let s1 := oneXlate sL 0 (els.map (·.va))
    0x20008 % x.2.size = 0 ∧ misses s1 0 els = [] ∧ (∀ y ∈ founds s1 0 els, stackServes gL y.va = false) ∧
    slotsOk (learnAll s1 0 els) 0 ((foundRuns (founds s1 0 els)).map (·.line)) = true := by decide
theorem witness_GlobalAccesses_rest : actives gL q0 (fA .s32) ≠ [] ∧ (addrAB gL q0 (fA .s32) 0).toNat = 0x20008 ∧
    (lane gL 1 1).toNat = 0x20008 ∧ fenced sL gL false = false ∧ gL.stack = [] ∧ a0.spad = false ∧
    ∀ t ∈ sL.streams, t.core ≠ gL.core := by decide
/-- A misaligned element in thread 1 alone; and the elements on a page that fails its probe in each way. -/
def gMis : Machine.Group := { gL with lanes := [(32, 0x20008), (33, 0x20009)] }
theorem witness_GlobalAccesses_align : LaneReady (withG gMis) (.ld (fA .s32) m0) gMis q0 ∧
    ((actives gMis q0 (fA .s32)).find? fun u => decide ((addrAB gMis q0 (fA .s32) u).toNat % 4 ≠ 0)) = some 1 := by decide
def lanesOn (s : State) : State := { s with groups := [gL] }
theorem witness_GlobalAccesses_pages : ∀ s ∈ [absS, noT, withT bareP, devS, withT quaP], LaneReady (lanesOn s) (.ld (fA .s32) m0) gL q0 ∧
    fenced (lanesOn s) gL false = false := by decide
def elsD (n : Need) : List Asked := asking n ([0, 1].map fun u => (u, 0x20008))
theorem witness_GlobalAccesses_wait : ∀ s ∈ [absS, noT, withT bareP], ∀ n ∈ [needLoad, needStore, needAtomic],
    let ms := misses (oneXlate (lanesOn s) 0 ((elsD n).map (·.va))) 0 (elsD n)
    ms ≠ [] ∧ ∀ x ∈ ms, x.2.waits = true := by decide
/-- An element on the device-only page beside one on a page that is not mapped. -/
theorem witness_GlobalAccesses_both : let els := asking needLoad [(0, 0x20008), (1, 0x50008)]
    let ms := misses (oneXlate (lanesOn devS) 0 (els.map (·.va))) 0 els
    (∀ x ∈ ms, x.2 ≠ .far) ∧ quarOf ms = none ∧ (ms.find? fun x => x.2 == .devOnly).isSome = true ∧ awaited ms ≠ [] := by decide
theorem witness_GlobalAccesses_stop : (misses (oneXlate (lanesOn devS) 0 ((elsD needLoad).map (·.va))) 0 (elsD needLoad)).find?
      (fun x => x.2 == .devOnly) = some ({ (default : Asked) with thr := 0, va := 0x20008, need := needLoad }, .devOnly) ∧
    ((misses (oneXlate (lanesOn (withT quaP)) 0 ((elsD needLoad).map (·.va))) 0 (elsD needLoad)).findSome?
      fun x => match x.2 with | .quar p => some (p, x.1.va) | _ => none) = some (0x41008, 0x20008) := by decide
/-- A load of a word at each of its stages, and with its line dirty in another core's L1. -/
def req (n : Nat) : Req :=
  { (default : Req) with id := 5, kind := .load, line := 0x41008 / 64, stage := n, paid := n = 1, core := 0, ty := .s32, infl := 99
                         parts := [{ thr := 0, va := 0x20008, pa := 0x41008, size := 4, data := 0, cmp := 0 }] }
def reqS (n : Nat) : State := { s0 with reqs := [req n] }
def reqD : State := { reqS 1 with mem := { s0.mem with l1 := [{ core := 1, line := 0x41008 / 64, kind := .owned, buffered := false, bytes := [(0x41008, 7)] }] } }
theorem witness_LineRequests : ∃ s', findReq (reqS 0) 5 = some (req 0) ∧ l1Hit (reqS 0) (req 0) = false ∧
    deliveredLater (reqS 0) (req 0) = false ∧ sendable (reqS 0) [(req 0).line] = true ∧
    aheadOf (reqS 0) (.req 5) (req 0).cls (reqResources (reqS 0) (req 0).line ++ portResources (reqS 0) (req 0)) = false ∧
    chargeAll (reqS 0) (req 0).cls 64 (reqResources (reqS 0) (req 0).line ++ portResources (reqS 0) (req 0)) = some s' :=
  ⟨_, by decide, by decide, by decide, by decide, by decide, rfl⟩
/-- An atomic of pod scope is charged at a port beside its slice. -/
theorem witness_LineRequests_port : portResources (reqS 0) { req 0 with kind := .atomic, scope := .pod } ≠ [] := by decide
/-- A load whose line core 0 shares. -/
theorem witness_LineRequests_hit :
    let s := { reqS 0 with mem := { s0.mem with l1 := [{ core := 0, line := 0x41008 / 64, kind := .shared, buffered := false, bytes := [] }] } }
    findReq s 5 = some (req 0) ∧ (req 0).stage = 0 ∧ l1Hit s (req 0) = true := by decide
theorem witness_LineRequests_home : findReq (reqS 1) 5 = some (req 1) ∧ mayServe (reqS 1) (req 1) = true ∧ (req 1).paid = true ∧
    recalls (reqS 1) (req 1) = false ∧ mayServe reqD (req 1) = true ∧ findReq reqD 5 = some (req 1) ∧
    recalls reqD (req 1) = true ∧ findReq (reqS 2) 5 = some (req 2) := by decide
theorem witness_LineRequests_ready : (∃ s1, readyReq (reqS 1) (req 1) = (s1, true)) ∧ ∃ s1, readyReq reqD (req 1) = (s1, true) :=
  ⟨⟨_, rfl⟩, _, rfl⟩
def stReq : Req := { req 1 with kind := .store, rq := .wt }
theorem witness_ServedStoreIsRead : ∃ p, stReq.kind = .store ∧ stReq.parts = [p] ∧ stReq.rq ≠ .si ∧ p.pa / 64 = stReq.line ∧
    p.pa % 64 + p.size ≤ 64 ∧ reqD.coh.objs = [] ∧ memWf reqD.mem = true ∧
    ∀ l ∈ reqD.mem.l1, ∀ e ∈ l.bytes, e.1 / 64 = l.line := ⟨_, rfl, rfl, by decide⟩
theorem witness_ServedStoreIsRead_frame : (∀ l ∈ (reqS 1).mem.l1, l.kind ≠ .owned ∧ l.buffered = false) ∧
    (∀ c ∈ (reqS 1).crews, c.stash = []) ∧ (reqS 1).coh.objs = [] ∧ (reqS 1).mem.sectors.length + 1 < 8192 := by decide

/-- A group whose v1 holds the scratchpad offset 64, one with 65, and one with an offset outside the allocation. -/
def gSp (x : Nat) : Machine.Group := { gL with lanes := [(32, dw x), (33, dw x)] }
theorem witness_ScratchpadAccesses : let g := gSp 64
    crewOf (withG g) g = some c0 ∧ c0.stash = [] ∧ (withG g).poisonSpad = [] ∧ actives g q0 (fA .s32) = 0 :: [1] ∧
    (∀ i ∈ [Instr.lds (fA .s32) m0, .sts (fA .s32) m0, .atom (fA .s32) { a0 with spad := true }, .red (fA .s32) { a0 with spad := true }],
      LaneReady (withG g) i g q0) ∧ fenced (withG g) g false = false ∧
    acquireWaits (withG g) g false (maskOf [0, 1]) kindRc = false ∧
    (∀ t ∈ [0, 1], (addrAB g q0 (fA .s32) t).toInt = 64 ∧ (lane g 1 t).toInt = 64 ∧ inAlloc c0 64 (accBytes .s32) = true) := by decide
theorem witness_ScratchpadAccesses_release : let g := gSp 64
    LaneReady (withG g) (.sts (fA .s32) { m0 with ord := .sync, scope := .core }) g q0 ∧
    writeFenced (withG g) (agentOf (withG g) g false (maskOf [0, 1])) kindRc = false ∧
    releaseWaits (withG g) g false (maskOf [0, 1]) .core = false := by decide
theorem witness_ScratchpadAccesses_flushed : let g := gSp 64
    ∃ s1, flushPaid (withG g) (laneWho g) 0 0 none = (s1, true) ∧ releaseStands s1 (agentOf s1 g false (maskOf [0, 1])) .core = false :=
  ⟨_, rfl, by decide⟩
/-- Thread 1 alone names a misaligned offset, and an offset outside the allocation. -/
def gSp1 (x : Nat) : Machine.Group := { gL with lanes := [(32, 64), (33, dw x)] }
def spForms : List Instr := [.lds (fA .s32) m0, .sts (fA .s32) m0, .atom (fA .s32) { a0 with spad := true }, .red (fA .s32) { a0 with spad := true }]
theorem witness_ScratchpadAccesses_align : let g := gSp1 65
    (∀ i ∈ spForms, LaneReady (withG g) i g q0) ∧ crewOf (withG g) g = some c0 ∧
    ((actives g q0 (fA .s32)).find? fun t => decide ((spadOff g q0 (fA .s32) t) % ((accSize .s32 .full : Nat) : Int) ≠ 0)) = some 1 ∧
    ((actives g q0 (fA .s32)).find? fun t => decide ((lane g 1 t).toInt % ((accSize .s32 .full : Nat) : Int) ≠ 0)) = some 1 := by decide
theorem witness_ScratchpadAccesses_outside : let g := gSp1 65536
    (∀ i ∈ spForms, LaneReady (withG g) i g q0) ∧ (∀ t ∈ [0, 1], (addrAB g q0 (fA .s32) t).toInt % accSize .s32 .full = 0) ∧
    ((actives g q0 (fA .s32)).find? fun t => !inAlloc c0 (spadOff g q0 (fA .s32) t) (accSize .s32 .full)) = some 1 := by decide
/-- Crew 0 with a stash range of one line at offset 64, on the data page: plain, empty or with its line filled; subscribing to object
5 in f32, and one whose subscription has ended. -/
def stash0 (sfmt : Nat) (dead : Bool) (fill : List (Nat × Nat)) : Stash :=
  { slot := 0, sbase := 64, len := 64, foot := 64, gbase := 0x20000, sfmt := sfmt, obj := 5, filled := fill, dirty := [], dead := dead }
def o5 : Obj := { asid := 0, num := 5, hfmt := 4, pitch := 64, cols := 16, rows := 8, base := 0x20000 }
def cSt (e : Stash) : Crew := { c0 with stash := [e] }
def sSt (e : Stash) : State := { withG (gSp 64) with crews := [cSt e], coh := { s0.coh with objs := if e.sfmt = 0 then [] else [o5] } }
theorem witness_Stash_trap : ∀ x ∈ [(stash0 4 true [], Instr.lds (fA .s32) m0, false), (stash0 4 false [], .sts (fA .s32) m0, true)],
    crewOf (sSt x.1) (gSp 64) = some (cSt x.1) ∧ LaneReady (sSt x.1) x.2.1 (gSp 64) q0 ∧ stashAt (cSt x.1) 64 = some x.1 ∧
    (x.1.dead || (x.1.sfmt != 0 && x.2.2)) = true := by decide
theorem witness_Stash_probe : ∀ e ∈ [stash0 0 false [], stash0 4 false []],
    let ps := spadProbes (sSt e) (gSp 64) (cSt e) needLoad [{ thr := 0, off := 64 }, { thr := 1, off := 64 }]
    ps ≠ [] ∧ misses (oneXlate (sSt e) 0 (ps.map (·.va))) 0 ps = [] := by decide
theorem witness_Stash_fill : let e := stash0 0 false []
    crewOf (sSt e) (gSp 64) = some (cSt e) ∧ stashAt (cSt e) 64 = some e ∧ stashHolds e 64 (stashPas (sSt e) 0 e 64) = false ∧
    look (sSt e) 0 (e.gbase + (64 - e.sbase)) {} = .ok 0x41000 pte0 ∧ (sSt e).mem.l1 = [] ∧ (sSt e).pkg.podPos = none := by decide
theorem witness_Stash_image : let e := stash0 4 false []
    stashHolds e 64 (stashPas (sSt e) 0 e 64) = false ∧ findObj (sSt e) 0 e.obj = some o5 ∧ (stashElems o5 e 1).length = 16 ∧
    look (sSt e) 0 0x20000 {} = .ok 0x41000 pte0 := by decide
theorem witness_Stash_dirty : let e := stash0 0 false [(1, 0x41000 / 64)]
    crewOf (sSt e) (gSp 64) = some (cSt e) ∧ stashAt (cSt e) 68 = some e ∧ (sSt e).coh.objs = [] ∧ 68 % 64 + 4 ≤ 64 ∧
    0x41004 % 64 = 68 % 64 ∧ look (sSt e) 0 (e.gbase + (68 - e.sbase)) {} = .ok 0x41004 pte0 ∧
    e.filled.contains (68 / 64, 0x41004 / 64) = true ∧ stashDirty (sSt e) (0x41004 / 64) = [] := by decide
theorem witness_PrefetchFenceAndCache : (∀ i ∈ [Instr.pref (fA .s32) .l1 .own, .fence (f0 .s32) ⟨false, .sc, .pkg⟩, .cinv (fA .s32) .pkg,
      .cwb (fA .s32) .pkg, .cdisc (fA .s32) .pkg], LaneReady sL i gL q0) ∧ fenced sL gL false = false ∧
    ∀ t ∈ actives gL q0 (fA .s32), walkOpen sL gL.asid (addrAB gL q0 (fA .s32) t).toNat = true := by decide
theorem witness_PrefetchFenceAndCache_flushed : ∃ s1, flushPaid sL (laneWho gL) 0 0 none = (s1, true) := ⟨_, rfl⟩
/-- A range of 64 bytes at v1, for each of the cache instructions. -/
def fR : LaneForm := fm .s32 10 1 (.imm 64) (.lane 3)
theorem witness_PrefetchFenceAndCache_range : ∀ n ∈ [needStore, needLoad],
    let rs := (actives gL q0 fR).map fun u => (u, cacheRange gL q0 fR u)
    let els := asking n ((rs.flatMap fun x => (rangePages x.2.1 x.2.2).map fun va => (x.1, va)).filter
      fun e => match look sL 0 e.2 n with | .absent _ => false | _ => true)
    let s1 := oneXlate sL 0 (els.map (·.va))
    els ≠ [] ∧ misses s1 0 els = [] ∧ cacheWaits (learnAll s1 0 els) gL n (rs.map Prod.snd) (founds s1 0 els) = false := by decide
theorem witness_PrefetchFenceAndCache_clean : ∀ a : CacheAct, ∃ s2,
    cleanLines sL gL .pkg (cleanedLines sL gL a needLoad [(0x20008, 64)]) = (s2, true) := fun a => by cases a <;> exact ⟨_, rfl⟩

/-! ## Synchronisation -/

/-- A barrier object at offset 64, armed for two arrivals with one to come: expct 2, pend 1. -/
theorem witness_Barriers_arrive : ∃ v w : BarVal, (v.pend ≠ 0 ∧ v.pend = 1 ∧ v.inc = 0 ∧ v.outc = 0) ∧
    (w.pend ≠ 0 ∧ w.pend ≠ 1 ∧ w.inc < 2 ^ 32 ∧ w.outc < 2 ^ 32) :=
  ⟨{ (objVal 0) with expct := 2, pend := 1, inc := 0, outc := 0 }, { (objVal 0) with expct := 2, pend := 2, inc := 0, outc := 0 }, by decide⟩
def barV : BarVal := { (objVal 0) with expct := 2, pend := 2 }
def fB : LaneForm := fm .s32 9 1 (.imm 64) (.imm 0)
def sBar : State := spadWrite sL 0 64 (leBytes 16 (objBits barV))
theorem witness_Barriers : ∃ v, barVal sBar gL (barAt gL q0 fB false) = some v ∧ v.sound = true ∧ v.pend ≠ 0 :=
  ⟨_, rfl, by decide⟩
theorem witness_Barriers_ready : crewOf sBar gL = some c0 ∧ opdInt gL q0 0 fB.b 0 % 16 = 0 ∧ inAlloc c0 (opdInt gL q0 0 fB.b 0) 16 = true ∧
    fenced sBar gL false = false ∧ actives gL q0 fB = 0 :: [1] ∧ releaseWaits sBar gL false (maskOf [0, 1]) (barScope (barAt gL q0 fB false)) = false := by decide
theorem witness_Barriers_released : spadPoison sBar 0 64 16 = false ∧ podBarrier sBar (barAt gL q0 fB false) = false ∧
    ∃ s1, releasePaid sBar (laneWho gL) (agentOf sBar gL false (maskOf [0, 1])) (barScope (barAt gL q0 fB false)) = (s1, true) :=
  ⟨by decide, by decide, _, rfl⟩
theorem witness_Barriers_acquired : acquireWaits sBar gL false (maskOf [0, 1]) kindRc = false := by decide
theorem witness_Barriers_forms : LaneReady sBar (.bara fB ⟨false, true, false⟩) gL q0 ∧ LaneReady sBar (.barw fB false) gL q0 ∧
    LaneReady sBar (.bartw fB false) gL q0 := by decide
/-- A scoped barrier of the group's core network. -/
def sNet : State := { sL with sbars := [{ grid := 1, net := 0, inst := 0, slot := 0, expct := 2, pend := 2, gen := 0 }] }
def fN : LaneForm := fm .s32 9 1 (.imm 0) (.imm 0)
theorem witness_Barriers_net : ∃ v, barVal sNet gL (barAt gL q0 fN true) = some v ∧ v.sound = true ∧ v.pend ≠ 0 :=
  ⟨_, rfl, by decide⟩
theorem witness_Barriers_net_released : podBarrier sNet (barAt gL q0 fN true) = false ∧
    ∃ s1, releasePaid sNet (laneWho gL) (agentOf sNet gL false (maskOf [0, 1])) (barScope (barAt gL q0 fN true)) = (s1, true) :=
  ⟨by decide, _, rfl⟩
theorem witness_Barriers_net_scope : releaseWaits sNet gL false (maskOf [0, 1]) (barScope (barAt gL q0 fN true)) = false := by decide
theorem witness_Barriers_net_forms : LaneReady sNet (.bara fN ⟨false, false, true⟩) gL q0 ∧ LaneReady sNet (.barw fN true) gL q0 ∧
    LaneReady sNet (.bartw fN true) gL q0 := by decide

/-- A queue record 0 with a ring of four handles at offset 64, allowance 4, and one of which two are used. -/
def fQ : LaneForm := fm .s32 10 1 (.imm 0) (.lane 0)
theorem witness_NamedQueues_ready : crewOf sL gL = some c0 ∧ 32 * (0 + 1) ≤ c0.size ∧ (opdDword gL q0 0 fQ.b 0).toNat = 0 ∧
    actives gL q0 fQ = [0, 1] ∧ fenced sL gL false = false ∧ LaneReady sL (.qpush fQ) gL q0 ∧ LaneReady sL (.qpop fQ) gL q0 ∧
    releaseWaits sL gL false (maskOf [0, 1]) .core = false ∧ acquireWaits sL gL false (maskOf [0, 1]) kindRc = false ∧
    spadPoison sL 0 0 32 = false := by decide
theorem witness_NamedQueues_released : ∃ s1, releasePaid sL (laneWho gL) (agentOf sL gL false (maskOf [0, 1])) .core = (s1, true) := ⟨_, rfl⟩

/-- An entry of TWAIT with the address in its capture. -/
def qW : QEntry := { q0 with word := lw 0x1C5 9 1 1 2 2 5 0 2, caps := [0x20008, 0, 3] }
def gW : Machine.Group := { gL with queue := [qW] }
def fW : LaneForm := fm .s32 9 1 (.scal 2) (.imm 5)
theorem witness_WaitsOnWords : let s := withG gW
    let s1 := learnAll s 0 (asking needLoad [(0, 0x20008)])
    actives gW qW fW = 0 :: [1] ∧ LaneReady s (.twait fW .geu false .pkg) gW qW ∧ (capOf qW 0).toNat = 0x20008 ∧
    fenced s gW false = false ∧ look s 0 0x20008 needLoad = .ok 0x41008 pte0 ∧
    acquireWaits s1 gW false (maskOf [0, 1]) (pteOk pte0) = false ∧ lineBusy s1 0 (0x41008 / 64) = false ∧
    poisoned s1 0x41008 8 = false := by decide
theorem witness_WaitsOnWords_read : let s := withG gW
    ∃ s2, readWords (learnAll s 0 (asking needLoad [(0, 0x20008)])) gW (maskOf [0, 1]) [(0x41008 / 64, pteOk pte0)] .pkg = (s2, true) :=
  ⟨_, rfl⟩
/-- The word stands in the group's stack cache, or none of it does. -/
def gWs : Machine.Group := { gW with stack := [(0x20008, 7)] }
def xlWs : Xlate := { s0.xl with firm := [{ grid := 1, crew := 0, asid := 0, vpage := 0x20, page := 0x41, write := true, read := true }] }
theorem witness_WaitsOnWords_spilled : Spilled (withG gW) gW (fun x => x / 8 == 0x20008 / 8) (withG gW) gW ∧
    ∃ s1 g1, Spilled { withG gWs with xl := xlWs } gWs (fun x => x / 8 == 0x20008 / 8) s1 g1 :=
  ⟨.inl ⟨by decide, rfl, rfl⟩, _, _, .inr ⟨by decide, rfl, rfl⟩⟩
def fT : LaneForm := fm .s32 0 0 (.lane 1) (.imm 0)
theorem witness_WaitsOnWords_waitt :
    let els := asking needLoad ([0, 1].map fun t => (t, 0x20008))
    actives gL q0 fT = 0 :: [1] ∧ LaneReady sL (.waitt fT .pkg) gL q0 ∧ (∀ t ∈ [0, 1], (opdDword gL q0 0 fT.b t).toNat = 0x20008) ∧
    let s1 := oneXlate sL 0 (els.map (·.va))
    misses s1 0 els = [] ∧ ∀ x ∈ founds s1 0 els, acquireWaits (learnAll s1 0 els) gL false (maskOf [0, 1]) x.ok = false ∧
      lineBusy (learnAll s1 0 els) 0 (x.pa / 64) = false ∧ poisoned (learnAll s1 0 els) x.pa 8 = false := by decide
theorem witness_WaitsOnWords_waitt_read :
    let els := asking needLoad ([0, 1].map fun t => (t, 0x20008))
    let s1 := oneXlate sL 0 (els.map (·.va))
    ∃ s2, readWords (learnAll s1 0 els) gL (maskOf [0, 1]) ((founds s1 0 els).map fun x => (x.pa / 64, x.ok)).eraseDups .pkg = (s2, true) :=
  ⟨_, rfl⟩
def gHint : Machine.Group := { gW with park := .word }
theorem witness_WaitsOnWords_hint : findGroup (withG gHint).groups gHint.gid = some gHint ∧ gHint.park = .word ∧
    gHint.queue = [qW] ∧ entryInstr qW = some (.twait fW .geu false .pkg) := by decide
theorem witness_WaitsOnWords_hint_word : waitPa (withG gHint) 0 (capOf qW 0).toNat = some 0x41008 ∧
    poisoned (withG gHint) 0x41008 8 = false ∧ wordHolds (withG gHint) gHint qW fW .geu false 0x41008 = false ∧
    wordHolds (withG gHint) gHint qW fW .ltu false 0x41008 = true := by decide
/-- A time at which the hint in v1 has elapsed. -/
theorem witness_WaitsOnWords_time : gHint.waitFrom.toNat + waitHint gHint qW fW ≤ 0x20008 := by decide
def tryI : Inflight := { (default : Inflight) with id := 3, kind := .tryBar, aux := 0 }
theorem witness_WaitsOnWords_bartw : let g := { gL with infl := [tryI] }
    findGroup (withG g).groups g.gid = some g ∧ tryI.id ≠ 0 ∧ (g.infl.find? fun x => x.id == 3 && x.kind == .tryBar) = some tryI ∧
    tryI.aux ≤ (withG g).pkg.time.toNat := by decide

theorem witness_RegionsAndConditions : (∀ i ∈ [Instr.nop (fm .s32 0 0 (.lane 0) (.lane 0)), .idem (fm .s32 0 0 (.scal 2) (.scal 3)) false,
      .idem (fm .s32 0 0 (.lane 0) (.lane 0)) true, .cktest (fm .n64 0 1 (.lane 2) (.lane 0)) false,
      .cktest (fm .f64 0 1 (.lane 2) (.lane 3)) true, .trapl (fm .s32 0 1 (.lane 0) (.lane 0))], LaneReady sL i gL q0) ∧
    gridOf sL gL = some r0 ∧ r0.k.trapk = 0 ∧ curG sL = some gL := by decide
def rTk : Grid := { r0 with k := { r0.k with trapk := 0x20000 } }
theorem witness_RegionsAndConditions_kernel : gridOf { sL with grids := [rTk] } gL = some rTk ∧ rTk.k.trapk ≠ 0 := by decide

/-! ## Descriptors, graphics and rays -/

/-- A queue record 0 with a ring of four handles at offset 64, allowance 3, head 0 and tail 1 (R187). -/
def sQ : State := spadWrite sL 0 0 (leBytes 32 (64 + 2 * 2 ^ 32 + 3 * 2 ^ 64 + 1 * 2 ^ 96))
theorem witness_NamedQueues_fields : let x := spadNat sQ gL.core (qOff c0 0) 32
    qFieldsOk x = true ∧ qRing x % 64 = 0 ∧ inAlloc c0 (qRing x) (4 * qDepth x) = true ∧ 2 ≤ qDepth x := by decide
theorem witness_NamedQueues : crewOf sQ gL = some c0 ∧ LaneReady sQ (.qpush fQ) gL q0 ∧ LaneReady sQ (.qpop fQ) gL q0 := by decide

/-- A group whose v1 holds 0x20040, and a form with v1 as operands a and c, and slot 3 as operand b. -/
def gX : Machine.Group := { gL with lanes := [(32, 0x20040), (33, 0x20040)] }
def sX : State := withG gX
def fX : LaneForm := fm .s32 10 1 (.imm 3) (.lane 1)
theorem witness_Descriptors : actives gX q0 fX = 0 :: [1] ∧ fenced sX gX false = false ∧
    (∀ i ∈ [Instr.sdesc fX .stream true, .sdesc fX .stash true, .sdesc fX .obj true, .sdesc fX .stream false,
      .sdesc fX .stash false, .sdesc fX .obj false, .subp fX, .upgp fX, .unsp fX], LaneReady sX i gX q0) ∧
    (opdDword gX q0 0 fX.b 0).toNat = 3 ∧ (opA gX fX 0).toNat = 0x20040 := by decide
theorem witness_Descriptors_read : let s1 := learnAll sX 0 (asking needLoad [(0, 0x20040)])
    look sX 0 0x20040 needLoad = .ok 0x41040 pte0 ∧ acquireWaits s1 gX false (maskOf [0, 1]) (pteOk pte0) = false ∧
    poisoned s1 0x41040 64 = false ∧ poisoned s1 0x41040 32 = false := by decide
theorem witness_Descriptors_drained : ∃ s2 s3, let s1 := learnAll sX 0 (asking needLoad [(0, 0x20040)])
    readDesc s1 gX (maskOf [0]) (pteOk pte0) 0x41040 32 = (s2, some 0) ∧ slotDrained s2 gX .stash 3 = (s3, true) := ⟨_, _, rfl, rfl⟩
theorem witness_Descriptors_object : ∃ s2 s3, let s1 := learnAll sX 0 (asking needLoad [(0, 0x20040)])
    readDesc s1 gX (maskOf [0]) (pteOk pte0) 0x41040 64 = (s2, some 0) ∧ slotDrained s2 gX .obj 3 = (s3, true) := ⟨_, _, rfl, rfl⟩
/-- A stash descriptor with a bit set that no field holds. -/
theorem witness_Descriptors_refused : stashStatus sX gX 3 (BitVec.ofNat 256 (2 ^ 256 - 1)) ≠ 0 := by decide +kernel
/-- The descriptor, texels or context lie outside the stack cache, which is empty; or a byte of it is cached there. -/
def gXs : Machine.Group := { gX with stack := [(0x20040, 7)] }
theorem witness_Spilled (p : Nat → Bool) : Spilled sX gX p sX gX := .inl ⟨rfl, rfl, rfl⟩
theorem witness_Spilled_cached : ∃ s1 g1, Spilled { withG gXs with xl := xlWs } gXs (fun va => decide (0x20040 ≤ va ∧ va < 0x20040 + 64)) s1 g1 ∧
    g1.stack = [] := ⟨_, _, .inr ⟨by decide, rfl, rfl⟩, by decide⟩
theorem witness_Descriptors_removed : ∀ k : DescKind, ∃ s1, slotDrained sX gX k 3 = (s1, true) := fun k => by
  cases k <;> exact ⟨_, rfl⟩
/-- A subscription of core 0 to object 5, of 8 by 16 elements of f32 in the data page, for crew 0 in e4m3. -/
def b5 : Sub := { core := 0, crews := [(1, 0)], asid := 0, obj := 5, fmt := 12, update := false, stash := none }
def gObj (f : Nat) : Machine.Group := { gL with lanes := [(32, dw (5 + f * 2 ^ 16)), (33, dw (5 + f * 2 ^ 16))] }
def sObj (f : Nat) (subs : List Sub) : State := { withG (gObj f) with coh := { s0.coh with objs := [o5], subs := subs } }
theorem witness_Subscribe : findObj (sX) 0 (subObj (opA gX fX 0)) = none ∧
    (findObj (sObj 3 []) 0 (subObj (opA (gObj 3) fX 0)) = some o5 ∧ admits o5.hfmt (subFmt (opA (gObj 3) fX 0)) = false) ∧
    admits o5.hfmt (subFmt (opA (gObj 4) fX 0)) = true ∧
    (let els := asking needSub ((objPages o5).map fun va => (0, va))
     let s1 := oneXlate (sObj 4 []) 0 (els.map (·.va))
     misses s1 0 els = [] ∧ l1Sub (learnAll s1 0 els) 0 0 5 = none ∧ slotsTaken (learnAll s1 0 els) 0 < 64) := by decide
/-- A subscription of the core, in the format asked or another, and a core whose 64 slots are taken by other objects. -/
theorem witness_Subscribe_joined : ∀ f ∈ [4, 12], let s := sObj f [b5]
    let els := asking needSub ((objPages o5).map fun va => (0, va))
    let s1 := oneXlate s 0 (els.map (·.va))
    findObj s 0 5 = some o5 ∧ admits o5.hfmt (subFmt (opA (gObj f) fX 0)) = true ∧ misses s1 0 els = [] ∧
    l1Sub (learnAll s1 0 els) 0 0 5 = some b5 ∧ (b5.fmt = subFmt (opA (gObj f) fX 0) ↔ f = 12) ∧
    b5.update = subMode (opA (gObj f) fX 0) := by decide
def bsFull : List Sub := tab 64 fun k => { b5 with obj := 100 + k }
theorem witness_Subscribe_full : let s := sObj 4 bsFull
    let els := asking needSub ((objPages o5).map fun va => (0, va))
    let s1 := oneXlate s 0 (els.map (·.va))
    misses s1 0 els = [] ∧ l1Sub (learnAll s1 0 els) 0 0 5 = none ∧ 64 ≤ slotsTaken (learnAll s1 0 els) 0 := by decide
theorem witness_Subscribe_held : crewSub (sObj 12 [b5]) (gObj 12) 5 = some b5 ∧ (∀ c ∈ b5.crews, c = ((gObj 12).grid, (gObj 12).crew)) ∧
    (sObj 12 [b5]).coh.images = [] ∧ findObj (sObj 12 [b5]) 0 5 = some o5 ∧ subFmt (opA (gObj 12) fX 0) = b5.fmt ∧
    fmtRank (subFmt (opA (gObj 13) fX 0)) < fmtRank b5.fmt ∧ subFmt (opA (gObj 4) fX 0) ≠ b5.fmt ∧
    admits o5.hfmt (subFmt (opA (gObj 4) fX 0)) = true ∧
    fmtRank b5.fmt ≤ fmtRank (subFmt (opA (gObj 4) fX 0)) ∧ crewSub (sObj 4 []) (gObj 4) 5 = none := by decide
/-- The subscription shared with another crew; and one of which no image is held yet. -/
def b5s : Sub := { b5 with crews := [(1, 0), (1, 1)] }
theorem witness_Subscribe_shared : crewSub (sObj 4 [b5s]) (gObj 4) 5 = some b5s ∧ ∃ c ∈ b5s.crews, c ≠ ((gObj 4).grid, (gObj 4).crew) := by
  decide
theorem witness_Subscribe_upgrade : imagesHeld (sObj 4 [b5]) 0 0 5 = [] := by decide
/-- The image of the object's first element is held. -/
def sImg : State :=
  { sObj 4 [b5] with coh := { (sObj 4 [b5]).coh with images := [{ (default : Image) with core := 0, asid := 0, obj := 5, va := 0x20000, vline := 0x800 }] } }
theorem witness_Subscribe_upgrade_held : ∃ s1, let els := asking needSub ((imagesHeld sImg 0 0 5).map fun va => (0, va))
    let s0 := oneXlate sImg 0 (els.map (·.va))
    crewSub sImg (gObj 4) 5 = some b5 ∧ misses s0 0 els = [] ∧ ((founds s0 0 els).map fun y => y.pa / 64).eraseDups = [0x41000 / 64] ∧
    reachCore (learnAll s0 0 els) 0 (laneWho (gObj 4)) clsDemand [0x41000 / 64] = (s1, true) := ⟨_, by decide, by decide, by decide, rfl⟩
/-- Core 0 holds a line of the object dirty, which a subscription sends home. -/
def sOwn : State := { sObj 4 [] with mem := { s0.mem with l1 := [{ core := 0, line := 0x41000 / 64, kind := .owned, buffered := false, bytes := [(0x41000, 7)] }] } }
theorem witness_Subscribe_home : heldLines sOwn 0 0 5 [(0x20, 0x41)] = [0x41000 / 64] ∧
    (∃ s2, heldHome sOwn (gObj 4) [0x41000 / 64] = (s2, true)) ∧ ∃ s2, heldHome (sObj 4 []) (gObj 4) [] = (s2, true) :=
  ⟨by decide, ⟨_, rfl⟩, _, rfl⟩

theorem witness_Graphics_rast : LaneReady sX (.rast (fm .s32 10 0 (.scal 8) (.scal 16))) gX q0 := by decide
theorem witness_Graphics_samp : LaneReady sX (.samp fX) gX q0 ∧ LaneReady sX (.sampg fX) gX q0 ∧
    (opdDword gX q0 1 fX.c 0).toNat = 0x20040 ∧ (∀ r ∈ gX.infl, r.kind ≠ .samp) ∧
    outstanding sX gX false (maskOf [0, 1]) (fun _ => true) = false ∧
    engineReads sX 0 (maskOf [0, 1]) sX.nextId = false ∧ writesOnWay sX gX (maskOf [0, 1]) = false := by decide
theorem witness_Graphics_samp_read : ∃ s1 s2,
    readWords (learnAll sX 0 (asking needLoad [(0, 0x20040)])) gX (maskOf [0, 1]) ((linesOf 0x41040 32).map fun l => (l, pteOk pte0)) .sys =
      (s1, true) ∧ poisoned s1 0x41040 32 = false ∧ flushPaid s1 (laneWho gX) 0 0 none = (s2, true) ∧
      writesOnWay s2 gX (maskOf [0, 1]) = false := ⟨_, _, rfl, by decide, rfl, by decide⟩
/-- A sampler that waits for its budget, and one that has faulted on the descriptor's page, which has come. -/
def m1 (f : Option Dword) : Samp := { (default : Samp) with act := 3, desc := 0x20040, fva := f }
def gSm (f : Option Dword) : Machine.Group := { gX with samp := some (m1 f) }
theorem witness_Graphics_resume_wait : findGroup (withG (gSm none)).groups 0 = some (gSm none) ∧
    (m1 none).left = 0 ∧ onCore (withG (gSm none)) (gSm none) = true ∧ (m1 none).trap = none := ⟨rfl, rfl, by decide, rfl⟩
theorem witness_Graphics_resume_fault : findGroup (withG (gSm (some 0x20040))).groups 0 = some (gSm (some 0x20040)) ∧
    (m1 (some 0x20040)).left = 0 ∧ (m1 (some 0x20040)).bad = false ∧ onCore (withG (gSm (some 0x20040))) (gSm (some 0x20040)) = true ∧ (m1 (some 0x20040)).trap = none := ⟨rfl, rfl, rfl, by decide, rfl⟩
/-- A sampler that has met a page whose access traps. -/
theorem witness_Graphics_resume_trap : let m := { m1 none with trap := some (9, 0x20040) }
    let g := { gX with samp := some m }
    findGroup (withG g).groups 0 = some g ∧ m.left = 0 ∧ onCore (withG g) g = true ∧ m.trap = some (9, 0x20040) := ⟨rfl, rfl, by decide, rfl⟩
theorem witness_Graphics_omrg : ∃ s2, LaneReady sX (.omrg fX 7 true) gX q0 ∧ actives gX q0 fX ≠ [] ∧
    readDesc (learnAll sX 0 (asking needLoad [(0, 0x20040)])) gX (maskOf [0]) (pteOk pte0) 0x41040 64 = (s2, some 0) ∧
    ∀ k ∈ (fragsOf s2 gX q0 fX true [0, 1] 0x20040 0).map Prod.fst,
      mergeRoom s2 0 0x20040 (fragsOf s2 gX q0 fX true [0, 1] 0x20040 0) k = true := ⟨_, by decide, by decide, rfl, by decide⟩
def fr (close : Bool) : Frag := { (default : Frag) with id := 4, close := close }
def sFr (close : Bool) : State := { s0 with merges := [{ die := 0, streams := [], transit := [fr close] }] }
theorem witness_Graphics_arrival : ∀ c ∈ [true, false],
    ((mergeUnit (sFr c) 0).transit.find? fun x => x.id == (fr c).id && x.close == (fr c).close) = some (fr c) ∧
    fragFirst (mergeUnit (sFr c) 0) (fr c) = true := by decide

/-- A context at 0x20040 with budget 8, its program at 0x10000, and its layout at 0x20080, which is in order, or of zeros. -/
def sCtx (lay0 : Bool) (ok : Bool) : State :=
  { sX with mem := { sX.mem with pool := [(0x41040, 8), (0x4104A, 1)] ++ (if lay0 then [(0x41050, 0x80), (0x41052, 2)] else []) ++
      (if ok then [(0x41082, 2), (0x41089, 0x10), (0x41090, 4), (0x41091, 60), (0x41093, 56)] else []) } }
def ctx1 : TraceCtx := { budget := 8, prog := 0x10000, lay0 := 0x20080, lay1 := 0 }
theorem witness_Trace : LaneReady sX (.trace fX) gX q0 ∧ (∀ r ∈ sX.rays, r.gid ≠ gX.gid) ∧ 2 ≤ freeSlots sX 0 ∧
    1 + 1 + resumeFirst sX 0 ≤ freeSlots sX 0 ∧ outstanding sX gX false (maskOf [0, 1]) (fun _ => true) = false ∧
    engineReads sX 0 (maskOf [0, 1]) sX.nextId = false ∧ writesOnWay sX gX (maskOf [0, 1]) = false := by decide
theorem witness_Trace_read : ∀ lay ok : Bool, ∃ s1, readWords (learnAll (sCtx lay ok) 0 (asking needLoad [(0, 0x20040)])) gX (maskOf [0, 1])
    ((linesOf 0x41040 64).map fun l => (l, pteOk pte0)) .sys = (s1, true) := fun lay ok => by
  cases lay <;> cases ok <;> exact ⟨_, rfl⟩
theorem witness_Trace_badctx : let s1 := learnAll (sCtx false true) 0 (asking needLoad [(0, 0x20040)])
    vaPoison s1 0 0x20040 64 = false ∧ ctxOf (vaNat s1 0 0x20040 64) = none ∧ ∃ s2, flushPaid s1 (laneWho gX) 0 0 none = (s2, true) :=
  ⟨by decide, by decide, _, rfl⟩
theorem witness_Trace_ctx : ctxOf (vaNat (sCtx true true) 0 0x20040 64) = some ctx1 := by decide
theorem witness_Trace_named : misses (sCtx true true) 0 (asking needLoad [(0, 0x20040)] ++ ctxAsked 0 ctx1) = [] ∧
    progRoom (sCtx true true) 0 0 (dw ctx1.prog) = true ∧ (sCtx true true).mem.l1 = [] := by decide
set_option maxRecDepth 4096 in
theorem witness_Trace_reads : let s := sCtx true true
    let els := asking needLoad [(0, 0x20040)] ++ ctxAsked 0 ctx1
    let s1 := learnAll (oneXlate s 0 (els.map (·.va))) 0 els
    ∃ s2 s3, readWords s1 gX (maskOf [0, 1]) (rangeKinds s1 0 (ctxReads s1 0 0 ctx1)) .sys = (s2, true) ∧
      flushPaid s2 (laneWho gX) 0 0 none = (s3, true) ∧ writesOnWay s3 gX (maskOf [0, 1]) = false ∧ firstPoison s3 0 (ctxReads s1 0 0 ctx1) = none := ⟨_, _, rfl, rfl, by decide, by decide⟩
theorem witness_Trace_badlayout : readLayouts (sCtx true false) 0 ctx1 = none := by decide
theorem witness_Trace_layout : (readLayouts (sCtx true true) 0 ctx1).isSome = true := by decide

/-- A ray that is ready, killed or not, and one in a slot with its budget spent or not. -/
def ray1 (st : RayStage) (kill : Bool) (steps : Nat) : Ray :=
  { placeRay s0 with id := 3, gid := 0, stage := st, kill := kill, steps := steps, ctx := 0x20040, m := List.replicate 16 1
                     depth := 4 }
def sRay (r : Ray) : State := { s0 with rays := [r], curRay := 3 }
theorem witness_Ray_ready : ∀ k ∈ [true, false], let r := ray1 .ready k 0
    findRay (sRay r) 3 = some r ∧ findGroup (sRay r).groups r.gid = some g0 ∧
    (allCores (sRay r)).contains 0 = true ∧ canTake (sRay r) r 0 = true ∧
    (sRay r).pkg.up = true ∧ ∀ c ∈ allCores (sRay r), nearness (sRay r) 0 0 ≤ nearness (sRay r) 0 c := by decide
theorem witness_Ray_misses : resumeMisses (sRay (ray1 .ready false 0)) (ray1 .ready false 0) = [] := by decide
set_option maxRecDepth 4096 in
theorem witness_Ray_resume : let r := ray1 .ready false 0
    let n := { r with prog := resumeProg (sRay r) r }
    n = r ∧ ∃ s1, rangeReach (sRay r) 0 r.asid (.ray r.id) (resumeReads (sRay r) n 0) = (s1, true) ∧
      firstPoison s1 r.asid (resumeReads (sRay r) n 0) = none := ⟨by decide, _, rfl, by decide⟩
theorem witness_Ray_budget : let r := ray1 (.slot 0) false 16
    findRay (sRay r) 3 = some r ∧ r.budget ≤ r.steps ∧ decodeMicro 0 = none := by decide

def rayM1 : Ray := ray1 (.slot 0) false 0
theorem witness_MicroMoves : RayReady (sRay rayM1) rayM1 0 ∧ aluResult .add 1 1 = .inl 2 ∧ aluResult .eq 1 1 = .inr true ∧
    bufField rayM1 4 4 = some 0 ∧ rayM1.stack = [] ∧ beyond rayM1.tmax 0 = false := by decide
theorem witness_MicroMoves_stack : let r := { rayM1 with stack := [5] }
    RayReady (sRay r) r 0 ∧ r.stack = [] ++ 5 :: [] := by decide
theorem witness_MicroMoves_goes : ∃ t, StackGoes (sRay rayM1) 0 rayM1 { rayM1 with stack := [5] } 0 t := ⟨_, .inl ⟨by decide, rfl⟩⟩
/-- A resumed ray that pushes and pops works the line of its stack in the ray area. -/
def rayR : Ray := { rayM1 with flags := 2, stack := [5] }
def xlR : Xlate := { s0.xl with firm := [{ grid := 1, crew := 0, asid := 0, vpage := 0, page := 0x43, write := true, read := true }] }
def sR : State := { sRay rayR with xl := xlR }
theorem witness_MicroMoves_resumed : ∃ t, StackGoes sR 0 rayR { rayR with stack := [5, 6] } 0 t :=
  ⟨_, .inr ⟨g0, by decide, by decide, .inr ⟨_, by decide, rfl, by decide, rfl⟩⟩⟩
theorem witness_MicroMoves_popped : ∃ t, StackGoes sR 0 rayR { rayR with stack := [] } 1 t :=
  ⟨_, .inr ⟨g0, by decide, by decide, .inr ⟨_, by decide, rfl, by decide, rfl⟩⟩⟩
/-- A node of two children: their boxes hold zeros, and their pointers are 0 and 1; the ray starts within the boxes. -/
def lay2 : Layout :=
  { base := 0x20000, bsize := 4096, nsz := 64, choff := 48, boxoff := 0, cntoff := 56, width := 2, benc := false, qoff := 0 }
def rayN : Ray := { rayM1 with lay0 := lay2, buf := (tab 48 fun _ => 0) ++ leBytes 4 0 ++ leBytes 4 1 ++ leBytes 8 2, cond := 3 }
theorem witness_MicroNodes : RayReady (sRay rayN) rayN 0 ∧ layoutAt rayN false = some lay2 ∧
    (micro rayN 0).toNat = 1 ∧ (1 + 1) * lay2.nsz ≤ lay2.bsize ∧ 4096 < (64 + 1) * lay2.nsz ∧
    (let els := asking needLoad ((rowParts (0x20000 + 1 * 64) 64).map fun p => (rayN.thr, p.1))
     misses (sRay rayN) 0 els = []) ∧ childCount rayN (bufLayout rayN) = some 2 := by decide
theorem witness_MicroNodes_reach : let s1 := learnAll (sRay rayN) 0 (asking needLoad [(0, 0x20040)])
    [0x41040 / 64].filter (fun k => !inL1 s1 0 k) ≠ [] ∧
    ∃ s2, reachCore s1 0 (.ray 3) clsDemand ([0x41040 / 64].filter fun k => !inL1 s1 0 k) = (s2, true) ∧
      poisoned (throughL1 s2 0 (0x41040 / 64) (engineAccess s2 0 0 0 (pteOk pte0))) 0x41040 64 = false := ⟨by decide, _, rfl, by decide⟩
theorem witness_MicroNodes_absent : RayReady (sRay rayN) rayN 0 ∧ layoutAt rayN true = none := by decide
theorem witness_MicroNodes_box : (boxKids { rayN with cond := 0 } (bufLayout rayN) 4 2 0 0 2).isSome = true := by decide
theorem witness_MicroNodes_sort : (hitKids rayN (bufLayout rayN) 4 2 0).map List.length = some 2 := by decide
/-- A triangle at z = 1 with corners (0, 0), (4, 0) and (0, 4), met at t = 1 by a ray from (1, 1, 0) along z; and a ray that
moves along its plane. -/
def triWs : List Nat := [0, 0, 0x3F800000, 0x40800000, 0, 0x3F800000, 0, 0x40800000, 0x3F800000]
def rayT (d : List Word) : Ray :=
  { rayM1 with buf := triWs.flatMap (leBytes 4) ++ List.replicate 28 0, org := [0x3F800000, 0x3F800000, 0], dir := d, tmin := 0
               tmax := 0x7F800000 }
def triVs : List Val := triWs.map fun w => dec .f32 w
theorem witness_MicroNodes_tri : allSome (tab 9 fun k => bufField (rayT [0, 0, 0x3F800000]) (4 * 0 + 4 * k) 4) = some triWs := by rfl
theorem witness_MicroNodes_tri_hit : (triTest (rayT [0, 0, 0x3F800000]) triVs false).isSome = true := by rfl
theorem witness_MicroNodes_tri_miss : triTest (rayT [0x3F800000, 0, 0]) triVs false = none := by rfl
theorem witness_MicroNodes_xfm : rayM1.ispace = false ∧ ({ rayM1 with ispace := true } : Ray).ispace = true ∧
    (allSome (tab 12 fun k => bufField rayM1 (4 * k) 4)).isSome = true := by decide
theorem witness_MicroNodes_xfm_finite :
    isNanF (xfmRow [dec .f32 0, dec .f32 0, dec .f32 0, dec .f32 0] [0, 0, 0] true) = false := by rfl


/-! ## Events: the package, issue and launches -/

/-- A package with one die, in a pod at position 0 with two links. -/
def sP : State := { s0 with pkg := { s0.pkg with podPos := some 0, podTraffic := false } }
theorem witness_Package_pod : sP.pkg.podPos.isSome = true ∧ sP.pkg.podTraffic = false ∧
    sP.pkg.time.toNat < (5 : Dword).toNat ∧ (0 : Dword).toNat ≤ sP.pkg.time.toNat ∧ sP.pkg.time.toNat ≤ (0 : Dword).toNat + 2 ∧
    (0 : Dword).toNat + 2 < ({ sP.pkg with time := 3 } : Pkg).time.toNat := by decide
/-- A destination with no route; and one whose route, link 0, has been down for more than 1 ms. -/
def sDown : State :=
  { sP with pkg := { sP.pkg with time := 2000000, routes := [(3, 0)], linksDown := [(0, 5)] } }
theorem witness_Package_route : (1 < sP.pkg.links.length ∧ downSince sP 1 = none ∧ onRoute sP 3 = false ∧ routeOf sP 3 = none) ∧
    1 < sDown.pkg.links.length ∧ downSince sDown 1 = none ∧ onRoute sDown 3 = false ∧
    ∃ l t, routeOf sDown 3 = some l ∧ downSince sDown l = some t ∧ t + 1000000 < sDown.pkg.time.toNat :=
  ⟨by decide, by decide, by decide, by decide, 0, 5, by decide⟩
def bs0 : List Budget := (govResources s0).flatMap fun r => tab 6 fun k => { res := r, cls := k, bytes := capacity r / 4 * (if k = 0 then 1 else 0) + capacity r / 32 }
theorem witness_Package_period : let s := { s0 with gov := { s0.gov with periods := 0 } }
    s.pkg.up = true ∧ 4000 * s.gov.periods ≤ s.pkg.time.toNat ∧
    (∀ r ∈ govResources s, budgetOk bs0 r = true) ∧ energyOk s [(0, 13600000)] = true := by decide
theorem witness_Package_power : 0 < s0.pkg.dies.length ∧ 0 ∉ s0.gov.stopped ∧ s0.gov.overLimit = false := by decide
theorem witness_Package_bias : let s := { s0 with mem := { s0.mem with asked := [2 ^ 35] } }
    (65536 * 2 ^ 35).testBit 51 = true ∧ 2 ^ 35 ∉ s.pkg.bias ∧ 2 ^ 35 ∈ s.mem.asked := by decide
theorem witness_Package_port : (1 : Nat) ≠ 0 ∧ 1 ∈ livePorts s0 := by decide

/-- A group that waits for a pipe. -/
def gW0 : Machine.Group := { gL with pipe := none }
theorem witness_Issue_bind : gW0 ∈ (withG gW0).groups ∧ ((withG gW0).groups.map (·.gid)).Nodup ∧ wantsPipe (withG gW0) 0 0 gW0 = true ∧
    (∀ x ∈ (withG gW0).groups, wantsPipe (withG gW0) 0 0 x = true → x ≠ gW0 → olderGroup x gW0 = false) ∧
    freePipes (withG gW0) 0 0 = 0 :: (List.range 15).map (· + 1) := by decide
/-- A run with one entry left, and with two. -/
theorem witness_Issue_enqueue : ∀ r ∈ [[], [q0]], let g := { g0 with run := q0 :: r }
    findGroup (withG g).groups g.gid = some g ∧ g.run = q0 :: r ∧ queueFree g = true ∧ mayRun (withG g) g = true := by decide
theorem witness_Issue_fill : findGroup s0.groups g0.gid = some g0 ∧ codeAwaited s0 0 false = false ∧ codeAwaited s0 0 true = false ∧
    sendable s0 g0.missS.toList = true ∧ sendable s0 g0.missL.toList = true := by decide
theorem witness_Issue_fill_miss : let g := { g0 with missS := some (0x40000 / 64), missL := some (0x40000 / 64) }
    sendable (withG g) g.missS.toList = true ∧ sendable (withG g) g.missL.toList = true := by decide
/-- A group blocked at a named queue since the package started, a probe of its own, and one of group 7. -/
def gB : Machine.Group := { gL with park := .queue 0, target := .queue 0 }
def sB (sender : Nat) : State :=
  { withG gB with pkg := { s0.pkg with time := 65536 }
                  probes := [{ id := 8, sender := sender, stamp := 0, sent := 0, dest := 0, chain := [sender] }] }
theorem witness_Issue_probe : findGroup (sB 0).groups gB.gid = some gB ∧ blocked gB = true ∧
    gB.probedAt.toNat + 65536 ≤ (sB 0).pkg.time.toNat := by decide
theorem witness_Issue_forward : ∀ n ∈ [0, 7], ∀ p ∈ (sB n).probes, ((sB n).probes.find? fun x => x.id == p.id) = some p ∧
    findGroup (sB n).groups p.dest = some gB ∧ (p.sender = n) ∧ gB.waitFrom = p.stamp := by decide

/-- A grid of two crews of one group, with the second to be placed on core 1. -/
def r2 : Grid := { r0 with crews := 2, cg := 1, k := { placeKernel with scratch := 2 ^ 20 } }
def pl : Placement :=
  { core := 1, slots := [(0, 0)], alloc := 0, crewPage := 0x100000, crewPool := 0x100000, replay := 0x110000
    replayPool := 0x110000, stack := 0x120000, stackPool := 0x120000 }
def s2 : State := { s0 with grids := [r2], crews := [{ c0 with size := 2 ^ 20 }] }
theorem witness_Launch_place : findGrid s2 r2.id = some r2 ∧ nextCrew r2 = some 1 ∧ s2.pkg.up = true ∧
    queueTurn s2 r2.queue = true ∧ gridTurn s2 r2 = true ∧ crewTurn s2 r2 1 = true ∧ pl.slots.length = r2.cg := by decide
theorem witness_Launch_core : coreFor s2 r2 1 = some pl.core := by decide
theorem witness_Launch_fit : slotsFit s2 pl.core r2.k.near pl.slots = true ∧ allocFits s2 pl.core pl.alloc r2.k.scratch = true ∧
    mapsOk s2 (crewMaps r2 1 pl) pl = true := by decide
theorem witness_Launch_kind : r2.kind ≠ .handler := by decide
def la : Launch := { gid := 0, asid := 0, queue := 0, die := 0, record := 0 }
theorem witness_Launch_drain : (({ s0 with launches := [la] } : State).launches.find? fun x => x.gid == la.gid) = some la ∧
    kernelOpen { s0 with launches := [la] } la.asid (lnKdesc la.record) = true := ⟨rfl, by decide +kernel⟩
/-- A handler group 1000 ticks old, with a lane-trap kernel at 0x20000 that reads as zeros, and one in order. -/
def cp : Compact := { die := 0, grid := 1, since := 0, thrs := [(0, 0, 0, 0, 0)] }
def sCp : State := { s0 with pkg := { s0.pkg with time := 1000 }, compacts := [cp], grids := [rTk] }
theorem witness_Launch_handler : (sCp.compacts.find? fun x => x.die == cp.die && x.grid == cp.grid) = some cp ∧
    findGrid sCp cp.grid = some rTk ∧ cp.since.toNat + 1000 ≤ sCp.pkg.time.toNat ∧
    rTk.k.trapk = 0x20000 ∧ kernelOpen sCp rTk.asid rTk.k.trapk = true := by decide
theorem witness_Launch_handler_bad : (readKernel (kernelRead { sCp with compacts := [] } 0 0x20000 0) 0 0x20000).isNone = true := by rfl
/-- A kernel of 128 registers, 64 of them near, and one group to the crew. -/
def sKern : State :=
  { sCp with mem := { sCp.mem with pool := [(0x4100A, 1), (0x4100B, 1), (0x4100D, 64), (0x4100E, 128)] } }
theorem witness_Launch_handler_kernel :
    (readKernel (kernelRead { sKern with compacts := [] } 0 0x20000 0) 0 0x20000).map (fun k => (k.near, k.regs)) = some (64, 128) := by
  decide +kernel
theorem witness_Launch_handler_full : emptyHolds 1 { placeKernel with scratch := 2 ^ 22 } = 0 := by decide
theorem witness_Launch_handler_fits : emptyHolds 1 { placeKernel with regs := 128, scratch := 0 } ≠ 0 := by decide
/-- A mailbox at offset 64, with one item of a share left, and with none. -/
def gF : Machine.Group := { g0 with fetch := some (64, 1) }
def rP (n : Nat) : Grid := { r0 with kind := .persist, items := (n, 1, 1), lo := [0], hi := [0] }
theorem witness_Launch_sower : ∀ n ∈ [0, 1], let s := { withG gF with grids := [rP n] }
    firstFetch s 0 = some gF ∧ gF.fetch = some (64, 1) ∧ gridOf s gF = some (rP n) := by decide
theorem witness_Launch_item : (∃ x, takeItem { withG gF with grids := [rP 1] } (rP 1) 0 = some x) ∧
    takeItem { withG gF with grids := [rP 0] } (rP 0) 0 = none := ⟨⟨_, rfl⟩, by decide⟩
def cE : Crew := { c0 with status := .exiting }
theorem witness_Launch_exit : ∀ n ∈ [1, 2], let r := { r0 with crews := n }
    let s := { s0 with crews := [cE], grids := [r] }
    findCrew s cE.grid cE.num = some cE ∧ findGrid s cE.grid = some r ∧ cE.status = .exiting ∧ crewSettled s cE = true ∧
    gridFrags s cE.grid = false := by decide
theorem witness_Launch_exit_home : ∃ s2 t, flushPaid { s0 with crews := [cE] } (.stash 1 0) (cE.gids.headD noGid) 0 none = (s2, true) ∧
    crewQuiet s2 cE = true ∧ drainStash s2 cE (.stash 1 0) (fun _ => true) = (t, true) := ⟨_, _, rfl, by decide, rfl⟩

/-! ## Events: memory, copies and residency -/

theorem witness_Background_halve : let s := { s0 with gov := { s0.gov with periods := 250 } }
    s.gov.halved < s.gov.periods / 250 := by decide
/-- A stack of one page at 0x30000, with the window from row 0x310 on, and row 0x30F cached outside it. -/
def gSt : Machine.Group :=
  { g0 with stkbase := 0x31000, stklimit := 0x30000, stack := [(0x30F00, 1)], sregs := [(63, 0x31000)] }
theorem witness_Background_spill : findGroup (withG gSt).groups gSt.gid = some gSt ∧ inStack gSt (256 * 0x30F) = true ∧
    inWindow gSt 0x30F = false ∧ ((gSt.stack.filter fun e => e.1 / 256 == 0x30F).map fun e => firmPa (withG gSt) gSt.asid e.1 / 64).eraseDups ≠ [] := by
  decide
theorem witness_Background_spill_charge : ∃ s1, reachCore (withG gSt) 0 (.spill 0) clsDemand
    ((gSt.stack.filter fun e => e.1 / 256 == 0x30F).map fun e => firmPa (withG gSt) gSt.asid e.1 / 64).eraseDups = (s1, true) := ⟨_, rfl⟩
/-- A row of that stack that the window takes in once s63 stands below it, and that is not held; and a row that is not dirty. -/
def gIn : Machine.Group := { gSt with sregs := [(63, 0x30F00)], stack := [] }
theorem witness_Background_fill : inStack gIn (256 * 0x30F) = true ∧ inWindow gIn 0x30F = true ∧ 0x30F ∉ gIn.rows ∧
    inWindow gSt 0x300 = false ∧ (gSt.stack.filter fun e => e.1 / 256 == 0x300) = [] := by decide
theorem witness_Background_fill_charge : ∃ s1, reachCore (withG gIn) 0 (.spill 0) clsDemand
    (tab 4 fun k => firmPa (withG gIn) gIn.asid (256 * 0x30F + 64 * k) / 64) = (s1, true) := ⟨_, rfl⟩
/-- A dirty LLC byte, and a dirty frame used before all others. -/
def sDirty : State :=
  { s0 with mem := { s0.mem with llc := [(0x41000, 7)], sectors := [0x41], frames := [{ frameT 1 0x41 with dirty := true }] } }
theorem witness_Background_clean : ∃ s1, (∃ e ∈ sDirty.mem.llc, e.1 / 64 = 0x41000 / 64) ∧ oldSector sDirty (0x41000 / 64) = true ∧
    aheadOf sDirty (.clean false (0x41000 / 64)) clsCleaning (reqResources sDirty (0x41000 / 64) ++ behindSlice sDirty 0x41 1) = false ∧
    chargeAll sDirty clsCleaning 64 (reqResources sDirty (0x41000 / 64) ++ behindSlice sDirty 0x41 1) = some s1 := ⟨_, by decide, by decide, by decide, rfl⟩
theorem witness_Background_frame : ∃ s1 f, (sDirty.mem.frames.find? fun x => x.num == f.num && !x.gone) = some f ∧ frameDirty sDirty f = true ∧
    oldQuarter sDirty f = true ∧ aheadOf sDirty (.clean true f.num) clsCleaning (pageResources sDirty f.page f.num 1) = false ∧
    chargeAll sDirty clsCleaning 4096 (pageResources sDirty f.page f.num 1) = some s1 :=
  ⟨_, { frameT 1 0x41 with dirty := true }, by decide, by decide, by decide, by decide, rfl⟩
theorem witness_Background_snoop : hostLine (2 ^ 45) = true ∧ hostLine 0 = false ∧ 1 < (livePorts s0).length := by decide
/-- A message about object 5 on its way to quad 0, or there, on its way to core 0. -/
def msg (l : Option (List Nat)) : Msg :=
  { id := 6, gid := 0, quad := 0, core := 2 ^ 20, asid := 0, obj := 5, line := 0x41000 / 64, update := false, elems := [], cores := l, cov := default }
def sMsg (l : Option (List Nat)) : State := { sObj 12 [b5] with coh := { (sObj 12 [b5]).coh with msgs := [msg l] } }
theorem witness_Background_quad : ((sMsg none).coh.msgs.find? fun x => x.id == 6) = some (msg none) ∧
    msgBehind (sMsg none) (msg none) none = false ∧ findObj (sMsg none) 0 5 = some o5 := by decide
theorem witness_Background_core : ((sMsg (some [0])).coh.msgs.find? fun x => x.id == 6) = some (msg (some [0])) ∧
    msgBehind (sMsg (some [0])) (msg (some [0])) (some 0) = false := by decide

/-- A command of a kind, from 0x20100 to 0x20008, of 8 bytes. -/
def cmdOf (kind : Nat) : BitVec 512 := BitVec.ofNat 512 (kind + 2 ^ 16 + 0x20008 * 2 ^ 128 + 0x20100 * 2 ^ 192 + 8 * 2 ^ 256)
def cpy (kind : Nat) (st : CopyStage) : Copy :=
  { (default : Copy) with id := 6, grid := 1, crew := 0, seq := 1, cmd := cmdOf kind, stage := st }
def sCpy (kind : Nat) (st : CopyStage) : State := { s0 with copies := [cpy kind st] }
theorem witness_Copy (k : Nat) (st : CopyStage) : findCopy (sCpy k st) 6 = some (cpy k st) := rfl
theorem witness_Copy_runs : (∀ k ∈ [1, 2, 3], cpKind (cmdOf k) = k) ∧ copyRuns (cpy 1 .queued) = true ∧ copyRuns (cpy 1 .running) = true := by decide +kernel
theorem witness_Copy_retire : (cpy 1 .finished).stage = .finished ∧ (cpy 1 .finished).owed = 0 ∧ (sCpy 1 .finished).coh.msgs = [] := by decide
theorem witness_Copy_signal : lowerRetired (sCpy 3 .queued) (cpy 3 .queued) = true ∧ cpMay (sCpy 3 .queued) (cpy 3 .queued) = true ∧
    look (sCpy 3 .queued) 0 (cpDst (cmdOf 3)) needStore = .ok 0x41008 pte0 := by decide +kernel
theorem witness_Copy_charge : ∃ s1, reach (sCpy 3 .queued) (.copy 6) clsCopy [0x41008 / 64] = (s1, true) := ⟨_, rfl⟩
theorem witness_Copy_unit : cpSsp (cmdOf 1) = false ∧ cpDsp (cmdOf 1) = false ∧ cpBen (cmdOf 1) = false ∧
    cpMay (sCpy 1 .running) (cpy 1 .running) = true ∧ cpLen (cpy 1 .running) = 8 ∧ cpSrcAt (cpy 1 .running) = 0x20100 ∧
    cpDstAt (cpy 1 .running) = 0x20008 ∧ (cpy 1 .running).held = [] ∧ (cpy 1 .running).ahead = [] ∧
    pageParts (cpReads (cpy 1 .running) 8).1 (cpReads (cpy 1 .running) 8).2 = [(0x20100, 8)] := by decide +kernel
theorem witness_Copy_unit_pages : look (sCpy 1 .running) 0 0x20100 needLoad = .ok 0x41100 pte0 ∧
    look (sCpy 1 .running) 0 0x20008 needStore = .ok 0x41008 pte0 := by decide
theorem witness_Copy_unit_charge : ∃ s1, reach (setCopy (sCpy 1 .running) (cpy 1 .running)) (.copy 6) clsCopy
    (linesOf 0x41100 8 ++ linesOf 0x41008 8) = (s1, true) ∧ poisoned s1 0x41100 8 = false := ⟨_, rfl, by decide⟩

/-- Page 0x44 of Gleaner 0: a hint, a waiter, a job in each stage with frame 5, and the victim 0x41. -/
def hint1 : Hint := { id := 6, core := 0, asid := 0, pages := [0x20] }
theorem witness_Gleaner_hint : (({ s0 with hints := [hint1] } : State).hints.find? fun x => x.id == 6) = some hint1 := by decide
def wait1 (p : Nat) : PageWait := { id := 6, page := p, stamp := 0, source := 0, waiter := .group 0, pref := false, sent := false }
theorem witness_Gleaner_fault : ∀ p ∈ [0x41, 0x44], (({ s0 with waits := [wait1 p] } : State).waits.find? fun x => x.id == 6 && !x.sent) =
    some (wait1 p) := by decide
theorem witness_Gleaner_pages : resident s0 0x41 = true ∧ resident s0 0x44 = false ∧ takesPage s0 0x44 = true ∧ jobOf s0 0x44 = none := by
  decide
def job (st : PageStage) (v : Option Nat) : PageJob :=
  { gleaner := 0, page := 0x44, stage := st, frame := 5, victim := v, stamp := 0, pref := false }
def sJob (st : PageStage) (v : Option Nat) : State :=
  { s0 with pkg := { s0.pkg with time := 2000 }, jobs := [job st v], batches := [(0, 0)] }
theorem witness_Gleaner_batch : batchDue (sJob .batch none) 0 = true ∧ frameBest (sJob .batch none) 4 = true := by decide
theorem witness_Gleaner_choose : (chooseFrames [(0x44, 4)] (sJob .batch none) (batchPages (sJob .batch none) 0)).isSome = true := by decide
theorem witness_Gleaner_job : ∀ st ∈ [PageStage.batch, .frame, .evict, .fetch, .coming], jobOf (sJob st none) 0x44 = some (job st none) := by
  decide
theorem witness_Gleaner_frame : frameBest (sJob .frame none) 5 = true ∧ pageBusy (sJob .evict (some 0x41)) 0x41 = false ∧
    fetchNext (sJob .fetch none) (job .fetch none) = true := by decide
theorem witness_Gleaner_charge : ∃ s1, claim (sJob .fetch none) (.page 0x44) clsMigration 4096 (pageResources (sJob .fetch none) 0x44 5 0) =
    (s1, true) := ⟨_, rfl⟩
/-- A victim that is clean, and one whose frame is dirty. -/
def sEvict (d : Bool) : State :=
  { sJob .evict (some 0x41) with mem := { s0.mem with frames := [frameT 0 0x40, { frameT 1 0x41 with dirty := d }] } }
theorem witness_Gleaner_evict : ∀ d : Bool, pageDirty (sEvict d) 0x41 = d ∧ pageBusy (sEvict d) 0x41 = false := by decide
theorem witness_Gleaner_evict_charge : ∃ s1,
    evictResources (sEvict true) 0x41 5 ≠ [] ∧
    claim (sEvict true) (.evict 0x44) clsMigration 64 (evictResources (sEvict true) 0x41 5) = (s1, true) := ⟨_, by decide, rfl⟩
theorem witness_Gleaner_evict_clean : evictResources (sEvict false) 0x41 5 = [] := by decide

/-! ## Events: the matrix engine and pre-emption -/

/-- A task of a kind in the window of core 0's engine, accepted, with the format word 0x477 and shapes of one e5m10 element,
which are in order, or with a format word that is not. -/
def tk (kind : Nat) (st : TaskStage) (w : Nat) : Task :=
  { (default : Task) with key := 3, grid := 1, crew := 0, desc := BitVec.ofNat 512 (kind + 7 * 2 ^ 16 + (1023 + 1023 * 2 ^ 10) * 2 ^ 160 + 1 * 2 ^ 64)
                          sa := ⟨7, 1, 1⟩, sb := ⟨7, 1, 1⟩, fmtw := BitVec.ofNat 32 w, stage := st }
def sTk (kind : Nat) (st : TaskStage) (w : Nat) : State :=
  { s0 with engines := [(0, { (default : Matrix) with holder := some (1, 0), window := [tk kind st w] })] }
theorem witness_Tasks (k : Nat) (st : TaskStage) (w : Nat) : findTask (engineOf (sTk k st w) 0) (tk k st w).key = some (tk k st w) := rfl
theorem witness_Tasks_kind : (∀ k ∈ [1, 2, 3, 4, 5, 6, 7], tkKind (tk k .accepted 0x477).desc = k) ∧ (tk 3 .accepted 0x477).pair = false := by
  decide +kernel
theorem witness_Tasks_may (k : Nat) (h : k ∈ [1, 2, 3, 4, 5, 6, 7]) : mayIssue (engineOf (sTk k .accepted 0x477) 0) (tk k .accepted 0x477) = true ∧
    engineMay (sTk k .accepted 0x477) 0 = true ∧ engineSaving (sTk k .accepted 0x477) 0 (tk k .accepted 0x477) = false ∧
    (sTk k .accepted 0x477).pkg.up = true := by
  revert k; decide +kernel
/-- A TMMA, a TZERO and a TJOIN pass their checks, and so does a THAD of 16 points and a TCVT; a format word of ones fails. -/
def tkHad : Task := { tk 4 .accepted 0x477 with sa := ⟨7, 1, 16⟩, sb := ⟨7, 1, 16⟩ }
theorem witness_Tasks_status : (∀ k ∈ [1, 3, 5, 6, 7], issueStatus (tk k .accepted 0x477) = 0) ∧ issueStatus tkHad = 0 ∧
    ∀ k ∈ [1, 2, 3, 4, 5, 6, 7], issueStatus (tk k .accepted 0xFFFFFFFF) ≠ 0 := by decide +kernel
theorem witness_Tasks_effect : let t := { tk 3 .accepted 0x477 with stage := .issued }
    let m := engineOf (setTask (sTk 3 .accepted 0x477) 0 t) 0
    t.fail = false ∧ accReady m t = true ∧ usesBad m t = false ∧ chainOk m.window m t = true := by decide +kernel
/-- A TMMA into an accumulator whose chain has other codes; and an issued task whose page the driver has refused. -/
theorem witness_Tasks_chain : let m := { engineOf (sTk 3 .accepted 0x477) 0 with chains := [(0, some (1, 1))] }
    chainOk m.window m (tk 3 .accepted 0x477) = false ∧ issueStatus (tk 3 .accepted 0x477) = 0 := by decide +kernel
theorem witness_Tasks_refused : let t := { tk 3 .issued 0x477 with fail := true }
    let s := setTask (sTk 3 .issued 0x477) 0 t
    findTask (engineOf s 0) t.key = some t ∧ t.stage = .issued ∧ t.fail = true := by decide +kernel
/-- A paired task of cores 0 and 1, its mate crew 7, which holds core 1's engine, or does not; the poisoned half; and a paired TLOAD
of which every row of both halves is staged. -/
def tkP (kind : Nat) (n : Nat) : Task := { tk kind .issued 0x477 with pair := true, mate := 7, prog := n, prog1 := n }
def mate7 (bad : List Nat) : Matrix := { (default : Matrix) with holder := some (1, 7), bad := bad }
def sTkP (kind n : Nat) (odd : Matrix) : State :=
  { s0 with engines := [(0, { (default : Matrix) with holder := some (1, 0), window := [tkP kind n] }), (1, odd)] }
theorem witness_Tasks_paired : ∀ k ∈ [1, 2, 3, 4, 5, 6, 7], let s := sTkP k 0 (mate7 [])
    findTask (engineOf s 0) 3 = some (tkP k 0) ∧ tkKind (tkP k 0).desc = k ∧ (tkP k 0).fail = false ∧ accReady (engineOf s 0) (tkP k 0) = true ∧
    (engineOf s 1).holder = some ((tkP k 0).grid, (tkP k 0).mate) ∧ usesBad (engineOf s 0) (tkP k 0) = false ∧
    usesBad (engineOf s 1) (tkP k 0) = false ∧ pairReady s 0 (tkP k 0) = true ∧ badCore s 0 (tkP k 0) = none := by decide +kernel
theorem witness_Tasks_paired_alone : let s := sTkP 3 0 default
    (engineOf s 1).holder ≠ some ((tkP 3 0).grid, (tkP 3 0).mate) ∧ pairReady s 0 (tkP 3 0) = false := by decide +kernel
theorem witness_Tasks_paired_bad : let s := sTkP 3 0 (mate7 (List.range 4096))
    usesBad (engineOf s 1) (tkP 3 0) = true ∧ usesBad (engineOf s 0) (tkP 3 0) = false := by decide +kernel
theorem witness_Tasks_paired_done : ∀ k ∈ [1, 2], memRows (tkP k 1) ≤ (tkP k 1).prog ∧ memRows (tkP k 1) ≤ (tkP k 1).prog1 ∧ (tkP k 1).holds = [] := by
  decide +kernel
theorem witness_Tasks_paired_new : let t := { tkP 3 0 with stage := .accepted }
    let s := { s0 with engines := [(0, { (default : Matrix) with holder := some (1, 0), window := [t] }), (1, { mate7 [] with chains := [(0, some (1, 1))] })] }
    engineMay s 0 = true ∧ engineSaving s 0 t = false ∧ mayIssue (engineOf s 0) t = true ∧ issueStatus t = 0 ∧
    chainOk (engineOf s 0).window (engineOf s 1) t = false := by decide +kernel
theorem witness_Tasks_retire : (tk 3 .ended 0x477).stage = .ended ∧ 2 ∉ (tk 3 .ended 0x477).holds ∧ tkStat (tk 3 .ended 0x477).desc = 0 ∧
    (sTk 3 .ended 0x477).coh.msgs = [] := by decide +kernel
/-- A task whose status word is at 0x20008. -/
def tkS : Task := { tk 3 .ended 0x477 with desc := BitVec.ofNat 512 (3 + 0x20008 * 2 ^ 320) }
def sTkS : State := { s0 with engines := [(0, { (default : Matrix) with holder := some (1, 0), window := [tkS] })] }
theorem witness_Tasks_word : tkStat tkS.desc = 0x20008 ∧ tkS.skip = false := by decide +kernel
theorem witness_Tasks_probe : (match rowProbe sTkS 0 tkS 2 0x20008 8 needStore with
    | .ok ps => (rowCharge sTkS 0 2 tkS ps).2
    | .stop _ => false) = true := by decide +kernel
theorem witness_Tasks_pair : let g := { g0 with pairWait := some 1 }
    findGroup (withG g).groups g.gid = some g ∧ g.pairWait = some 1 ∧ pairBusy (withG g) g.core = false := by decide

/-- Queue 3 with one running crew, at the end of its slice; a crew that drains since 0; and one to be saved. -/
def hq : HostQueue := { (default : HostQueue) with num := 3, slice := 1 }
def r3 : Grid := { r0 with queue := 3, crews := 1, cg := 1 }
def sPre (st : CrewStatus) : State :=
  { s0 with pkg := { s0.pkg with time := 1000000 }, queues := [hq], grids := [r3], crews := [{ c0 with status := st }] }
theorem witness_Preempt_slice : findQueue (sPre .running) 3 = some hq ∧ runningCrews (sPre .running) 3 ≠ [] ∧ inPacket hq = false ∧
    hq.sliceAt.toNat + 10000 * hq.slice ≤ (sPre .running).pkg.time.toNat := by decide
theorem witness_Preempt_flushed : ∃ s1, flushedHome (sPre .running) ((runningCrews (sPre .running) 3).map fun c =>
    (decision (sPre .running) ((findGrid (sPre .running) c.grid).getD default) c, c)) = (s1, true) := ⟨_, rfl⟩
theorem witness_Preempt_drain : findCrew (sPre (.draining 0)) 1 0 = some { c0 with status := .draining 0 } ∧
    0 + 2 * (sPre (.draining 0)).policy.drain ≤ (sPre (.draining 0)).pkg.time.toNat := by decide
theorem witness_Preempt_save : findCrew (sPre .saving) 1 0 = some { c0 with status := .saving } ∧
    (∀ g ∈ crewGroups (sPre .saving) 1 0, groupSaves (sPre .saving) g = true) ∧ engineSaves (sPre .saving) { c0 with status := .saving } = true ∧
    copiesHalt (sPre .saving) { c0 with status := .saving } = true ∧ trapDue (sPre .saving) { c0 with status := .saving } = none := by
  decide
/-- A group of a crew to be saved, whose pages the driver has answered with a trap. -/
def gDue : Machine.Group := { g0 with answer := some (7, 0x20008, 0) }
theorem witness_Preempt_due : trapDue { sPre .saving with groups := [gDue] } { c0 with status := .saving } = some (gDue, (7, 0x20008, 0)) := by decide
theorem witness_Preempt_home : ∃ s1 s2, crewHome (sPre .saving) { c0 with status := .saving } = (s1, true) ∧
    crewSpill s1 { c0 with status := .saving } = (s2, true) := ⟨_, _, rfl, rfl⟩
theorem witness_Preempt_decide : (∃ r : Grid, r.exited ≠ 0 ∧ r.runSum < r.exited * (elapsed s0 c0 + s0.policy.drain)) ∧
    r0.exited = 0 := ⟨⟨{ r0 with exited := 1 }, by decide⟩, by decide⟩
/-- A saved crew, with room on core 0, and its queue, which waits. -/
def sv : Saved := { (default : Saved) with crew := c0, groups := [g0] }
def sSv : State := { sPre .running with groups := [], crews := [], saved := [sv] }
def pl0 : Placement := { (default : Placement) with core := 0, slots := [(0, 0)] }
theorem witness_Preempt_restore : (sSv.saved.find? fun x => x.crew.grid == sv.crew.grid && x.crew.num == sv.crew.num) = some sv ∧
    findGrid sSv sv.crew.grid = some r3 ∧ sSv.pkg.up = true ∧ queueTurn sSv 3 = true ∧ pl0.alloc = sv.crew.alloc ∧
    gridTurn sSv r3 = true ∧ crewTurn sSv r3 0 = true ∧ pl0.slots.length = r3.cg ∧
    slotsFit sSv 0 r3.k.near ((sv.groups.filter fun g => !g.ended).map fun g => pl0.slots.getD g.idx (0, 0)) = true := by decide
theorem witness_Preempt_subs : ∃ s1, homeHeld sSv 0 (resubLines sSv sv 0) = (s1, true) := ⟨_, rfl⟩
theorem witness_Preempt_core : coreForSaved sSv sv = some 0 := by decide
theorem witness_Preempt_aging : findQueue sSv 3 = some hq ∧ queueStarved sSv 3 = true ∧ hq.eff < 3 ∧
    hq.waitSince.toNat + 1000000 ≤ sSv.pkg.time.toNat := by decide
/-- Two dies. -/
def s2d : State := { sPre .running with pkg := { (sPre .running).pkg with dies := [0, 1] } }
/-- A queue of a lower effective priority than a waiting one that has no room. -/
def hqHigh : HostQueue := { (default : HostQueue) with num := 9, prio := 3, eff := 3, slice := 1 }
def sHigh : State :=
  { sPre .running with queues := [hq, hqHigh]
                       grids := [r3, { r0 with id := 2, queue := 9, placed := [], crews := 1, cg := 1, k := { placeKernel with scratch := 2 ^ 21 } }] }
theorem witness_Preempt_outranked : findQueue sHigh 3 = some hq ∧ runningCrews sHigh 3 ≠ [] ∧ outranked sHigh hq = true := by decide
/-- Rays of a slot, a sampler in a group's slot, and groups on a core. -/
theorem witness_Preempt_errors : (slotRays (sRay rayM1) 0)[0]? = some rayM1 ∧
    (sL.groups.filter fun g => g.core == 0 && !g.ended) = [gL] ∧
    (∀ m, (gSm none).samp = some m → m = m1 none) ∧ (gSm none).slot < 32 := by
  refine ⟨by decide, by decide, ?_, by decide⟩
  intro m h
  exact (Option.some.inj h).symm
theorem witness_Preempt_failover : 0 < dieCount s2d ∧ schedDie s2d ((0 + 1) % dieCount s2d) ≠ 0 ∧ (∀ a ∈ s2d.fw.adopted, a.1 ≠ 0) ∧
    s2d.fw.beat.toNat + 100000 ≤ s2d.pkg.time.toNat ∧ ∀ q ∈ s2d.queues, inPacket q = false := by decide

/-! ## Events: the driver's registers, commands and packets -/

/-- The driver's registers with a command that is to be run: its code, and operand dwords 1 and 2. -/
def sCmd (code a b c : Nat) : State :=
  { s0 with queues := [hq], regs := { s0.regs with cmd := BitVec.ofNat 512 (code + a * 2 ^ 64 + b * 2 ^ 128 + c * 2 ^ 192) } }
theorem witness_Driver_ok : ∀ x ∈ [(1, 0x41000, 0, 0), (2, 3, 0, 0), (3, 0, 4096, 4096), (4, 0, 2, 0), (5, 0x41000, 0, 0), (6, 0x41000, 0x42000, 0),
    (7, 2, 0, 0)], let s := sCmd x.1 x.2.1 x.2.2.1 x.2.2.2
    s.regs.cdone = true ∧ cmdOk s = true ∧ cmdOpen s = true ∧ cmdCode s = x.1 ∧ cmdArg s 1 = x.2.1 ∧ cmdArg s 2 = x.2.2.1 ∧ cmdArg s 3 = x.2.2.2 := by decide +kernel
/-- A package of a pod whose time base is not aligned, and a queue descriptor that is homed at position 0, which a package holds. -/
def sHeldCmd : State := { sCmd 1 0x41000 0 0 with pkg := { sP.pkg with podPos := some 3 } }
theorem witness_Driver_held (h : Config.podHeld 0 = true) : cmdOk sHeldCmd = true ∧ cmdOpen sHeldCmd = false := by
  have lines : cmdLines sHeldCmd = [0x41000 / 64] := by decide +kernel
  have home : podHome sHeldCmd (0x41000 / 64) = some 0 := by decide +kernel
  have pos : sHeldCmd.pkg.podPos = some 3 := rfl
  have off : sHeldCmd.pkg.podTraffic = false := rfl
  refine ⟨by decide +kernel, ?_⟩
  simp [cmdOpen, lines, reachable, inReach, remote, podLost, home, pos, off, h]
theorem witness_Driver_bad : ∀ k ∈ [1, 2, 3, 4, 5, 6, 7], cmdOk (sCmd (k + 256) 0 0 0) = false ∧ cmdCode (sCmd (k + 256) 0 0 0) = k := by decide +kernel
/-- A queue descriptor with 16 slots at 0x42000, in the address space 0. -/
theorem witness_Driver_create : (queueOf s0 4 (4 * 2 ^ 19 + 0x42000 * 2 ^ 128)).isSome = true ∧ nextQueue (sCmd 1 0x41000 0 0) = 4 := by decide
def flt : FaultRec := { (default : FaultRec) with id := 6, kind := 1, waiter := some (.group 0), index := some 0 }
theorem witness_Driver_answer : (({ sCmd 4 0 2 0 with faults := [flt] } : State).faults.find? fun x => x.index == some 0) = some flt ∧
    flt.waiter = some (.group 0) := by decide
theorem witness_Driver_update : (sCmd 5 0x41000 0 0).fw.update = none ∧
    ({ sCmd 5 0x41000 0 0 with fw := { s0.fw with update := some 1 } } : State).fw.update.isSome = true := by decide
def sho : Shoot := { id := 6, asid := 0, base := 0x20000, len := 4096, upto := 9, full := true, left := 0 }
def sSho : State := { s0 with xl := { s0.xl with shoots := [sho] } }
theorem witness_Driver_shoot : (sSho.xl.shoots.find? fun x => x.id == 6) = some sho ∧ sho.left = 0 ∧ oldAccess sSho sho = false := by decide
theorem witness_Driver_switch : ∃ s : State, s.fw.update = some 1 ∧ ∀ q ∈ s.queues, inPacket q = false :=
  ⟨{ sCmd 5 0 0 0 with fw := { s0.fw with update := some 1 } }, rfl, by decide⟩
/-- With no saved crew every image can be imported; a crew saved in a version that an image does not list cannot. -/
theorem bounded (l : List Nat) : ∃ n, ∀ m ∈ l, m < n := by
  induction l with
  | nil => exact ⟨0, fun _ h => nomatch h⟩
  | cons a l ih =>
    obtain ⟨n, h⟩ := ih
    refine ⟨a + n + 1, fun m hm => ?_⟩
    rcases List.mem_cons.mp hm with rfl | h'
    · omega
    · have := h m h'; omega
theorem witness_Driver_switch_saved (d : BitVec 256) : (∀ v ∈ s0.saved, v.version ∈ Config.imageLayouts d) ∧
    ∃ s : State, ∃ v ∈ s.saved, v.version ∉ Config.imageLayouts d := by
  obtain ⟨n, h⟩ := bounded (Config.imageLayouts d)
  exact ⟨(fun v h => nomatch h), { s0 with saved := [{ sv with version := n }] }, _, List.mem_singleton.mpr rfl,
    fun hn => Nat.lt_irrefl n (h n hn)⟩

/-- Queue 3, whose ring is at 0x41000, and a packet in its slot 0, given by its bytes that are not 0. -/
def hq1 : HostQueue := { hq with base := 0x41000, lsz := 4, phase := true, awake := true }
def sPk (bs : Cells Byte) : State := { s0 with queues := [hq1], mem := { s0.mem with pool := bs } }
theorem witness_Packets (bs : Cells Byte) : findQueue (sPk bs) 3 = some hq1 ∧ (sPk bs).pkg.up = true ∧ hq1.stopped = false ∧
    hq1.destroyed = false ∧ hq1.awake = true ∧ hq1.left = 0 := ⟨rfl, rfl, rfl, rfl, rfl, rfl⟩
theorem witness_Packets_reach (bs : Cells Byte) : sendable (sPk bs) (packetLines hq1) = true ∧ hq1.pkts = [] := ⟨rfl, rfl⟩
/-- The state once the slot has been read. -/
def sN (bs : Cells Byte) : State := noteReads (sPk bs) (packetLines hq1)
theorem witness_Packets_asleep : pkPhase (headPacket (sN []) hq1) ≠ hq1.phase := by decide +kernel
/-- A NOP; a packet of kind 8, which is none; a DISPATCH and a PERSIST of a record of zeros; a COPY of one byte; a SIGNAL at
0x20008; a WRITESIGNAL of one byte there, with its signal at 0x20010; and a WAITTL of 0x20008. -/
def pkBytes (kind : Nat) : Cells Byte :=
  let more : Cells Byte := match kind with
    | 3 => [(0x41008, 1), (0x41028, 1)]
    | 4 => [(0x41008, 8), (0x4100A, 2)]
    | 5 => [(0x41008, 8), (0x4100A, 2), (0x41010, 16), (0x41012, 2), (0x41020, 1)]
    | 6 => [(0x41008, 8), (0x4100A, 2)]
    | _ => []
  (0x41000, BitVec.ofNat 8 kind) :: (0x41001, 1) :: more
theorem witness_Packets_kind (k : Nat) (h : k ∈ [1, 2, 3, 4, 5, 6, 7]) : pkKind (headPacket (sN (pkBytes k)) hq1) = k ∧
    pkPhase (headPacket (sN (pkBytes k)) hq1) = hq1.phase ∧ mayStart hq1 (headPacket (sN (pkBytes k)) hq1) = true ∧
    packetOk (headPacket (sN (pkBytes k)) hq1) = true := by
  revert k; decide +kernel
theorem witness_Packets_kernel : kernelOpen (sN (pkBytes 1)) 0 (lnKdesc (pkRecord (headPacket (sN (pkBytes 1)) hq1))) = true ∧
    kernelOpen (sN (pkBytes 2)) 0 (lnKdesc (persistRecord (headPacket (sN (pkBytes 2)) hq1))) = true := by decide +kernel
theorem witness_Packets_pages : let s := sN (pkBytes 5)
    pkBits (headPacket s hq1) 64 64 = 0x20008 ∧ pkBits (headPacket s hq1) 128 64 = 0x20010 ∧
    misses s 0 (rangeAsked needStore 0x20008 1 ++ asking needStore [(0, 0x20010)]) = [] ∧
    misses (sN (pkBytes 4)) 0 (asking needStore [(0, 0x20008)]) = [] ∧
    look (setQueue (sN (pkBytes 6)) (consumed hq1 (.word 0x20008 0))) 0 0x20008 needLoad = .ok 0x41008 pte0 ∧ (∀ e ∈ hq1.pkts, e.2 = .done) := by decide +kernel
theorem witness_Packets_bad : packetOk (headPacket (sN (pkBytes 8)) hq1) = false ∧ pkPhase (headPacket (sN (pkBytes 8)) hq1) = hq1.phase := by
  decide +kernel
/-- The SIGNAL and the WRITESIGNAL reach the homes of their addresses, and send no message. -/
def sSig : State := vaWrite (setQueue (learnAll (sN (pkBytes 4)) 0 (asking needStore [(0, 0x20008)])) (consumed hq1 .sent)) (fetcher hq1) 0 0x20008 (leBytes 8 0)
def sWs : State :=
  vaWrite (setQueue (learnAll (sN (pkBytes 5)) 0 (rangeAsked needStore 0x20008 1 ++ asking needStore [(0, 0x20010)]))
    (consumed hq1 (.signal 0x20010 0))) (fetcher hq1) 0 0x20008 (leBytes 1 0)
theorem witness_Packets_sent : sendable (sN (pkBytes 4)) (vaLines (sN (pkBytes 4)) 0 0x20008 8) = true ∧ sSig.coh.msgs = [] ∧
    sendable (sN (pkBytes 5)) (vaLines (sN (pkBytes 5)) 0 0x20008 1) = true ∧ sWs.coh.msgs = [] ∧
    misses sWs 0 (asking needStore [(0, 0x20010)]) = [] ∧ sendable sWs (vaLines sWs 0 0x20010 8) = true ∧
    sendable (sN (pkBytes 6)) [0x41008 / 64] = true := by decide +kernel

end Sys2Proof.Tests
end

section
/-! PROOF. Every step keeps memory in its canonical form: one lemma for each operation of the model that leaves a state, in the
order in which the model states them. -/

namespace Sys2Proof.Machine

/-- The memory of a state has its canonical form. -/
def Canon (s : State) : Prop := memWf s.mem = true

/-- What a turn comes to, it leaves memory in its canonical form. -/
def CanonMove : Move → Prop
  | .idle t => Canon t
  | .run _ t => Canon t
  | .stop _ => True

/-- Where a step goes on, it leaves memory in its canonical form. -/
def CanonOut : Host.Outcome State Fault Refusal → Prop
  | .next t => Canon t
  | _ => True

/-- Memory decides, whatever the other parts of a state are. -/
theorem canon_mk
    {agenda turns draws cur curRay nextId nextGid pkg gov mem reqs xl coh groups crews grids queues rr policy saved
    adds conts launches sbars compacts probes spad poisonSpad poisonRows streams hints copies engines rays progs
    merges jobs batches waits faults fw regs}
    (h : memWf mem = true) :
    Canon (State.mk
      agenda turns draws cur curRay nextId nextGid pkg gov mem reqs xl coh groups crews grids queues rr policy saved
      adds conts launches sbars compacts probes spad poisonSpad poisonRows streams hints copies engines rays progs
      merges jobs batches waits faults fw regs) := h

/-- The pool, the frames and the LLC decide, whatever the other parts of memory are. -/
theorem memWf_mk {m : Mem}
    {past frames sectors l1 invals icache pinned own far farBy posted asked outbox touched poison quar}
    (h : memWf m = true) :
    memWf (Mem.mk m.pool m.loc m.llc
      past frames sectors l1 invals icache pinned own far farBy posted asked outbox touched poison quar) = true := h

theorem canon_ite {c : Prop} [Decidable c] {a b : State} (ha : Canon a) (hb : Canon b) : Canon (if c then a else b) :=
  iteInduction (fun _ => ha) (fun _ => hb)

theorem canon_ite_fst {c : Prop} [Decidable c] {α : Type} {a b : State × α} (ha : Canon a.1) (hb : Canon b.1) :
    Canon (if c then a else b).1 :=
  iteInduction (motive := fun x : State × α => Canon x.1) (fun _ => ha) (fun _ => hb)

theorem canonOut_ite {c : Prop} [Decidable c] {a b : Host.Outcome State Fault Refusal} (ha : CanonOut a)
    (hb : CanonOut b) : CanonOut (if c then a else b) :=
  iteInduction (fun _ => ha) (fun _ => hb)

theorem canonMove_ite {c : Prop} [Decidable c] {a b : Move} (ha : CanonMove a) (hb : CanonMove b) :
    CanonMove (if c then a else b) :=
  iteInduction (fun _ => ha) (fun _ => hb)

theorem memWf_ite {c : Prop} [Decidable c] {a b : Mem} (ha : memWf a = true) (hb : memWf b = true) :
    memWf (if c then a else b) = true :=
  iteInduction (motive := fun m => memWf m = true) (fun _ => ha) (fun _ => hb)

theorem canon_foldl {β : Type} {f : State → β → State} {l : List β} {s : State}
    (hf : ∀ s b, Canon s → Canon (f s b)) (h : Canon s) : Canon (l.foldl f s) :=
  foldl_keeps (p := Canon) hf l h

theorem canon_foldl_fst {α β : Type} {f : State × α → β → State × α} {l : List β} {x : State × α}
    (hf : ∀ x b, Canon x.1 → Canon (f x b).1) (h : Canon x.1) : Canon (l.foldl f x).1 :=
  foldl_keeps (p := fun x : State × α => Canon x.1) hf l h

theorem canon_of_fst {α : Type} {x : State × α} {t : State} {a : α} (hx : Canon x.1) (e : x = (t, a)) : Canon t := by
  rw [e] at hx; exact hx

theorem memWf_foldl {β : Type} {f : Mem → β → Mem} {l : List β} {m : Mem}
    (hf : ∀ m b, memWf m = true → memWf (f m b) = true) (h : memWf m = true) : memWf (l.foldl f m) = true :=
  foldl_keeps (p := fun m => memWf m = true) hf l h

/-! ## Each operation keeps the canonical form -/

section
variable {s : State} (h : Canon s)
include h

/-! ### Memory -/

omit h in
theorem memWf_notePast {m : Mem} {pa bs} (hm : memWf m = true) : memWf (notePast m pa bs) = true := hm

theorem canon_useHome {line} : Canon (useHome s line) := by
  fun_cases useHome
  · exact canon_mk h
  · exact h

theorem canon_claim {who cls n rs} : Canon (claim s who cls n rs).1 := by
  rw [Canon, claim_mem]; exact h

omit h in
theorem memWf_settlePosted {m : Mem} (hm : memWf m = true) : memWf (settlePosted m) = true := hm

theorem canon_recallCopies {line} : Canon (recallCopies s line) :=
  canon_mk (memWf_lineToPool _ (memWf_mk (memWf_recallLine _ h)))

theorem canon_invalArrives {id} : Canon (invalArrives s id) := by
  fun_cases invalArrives
  · exact h
  · exact canon_mk (memWf_mk h)

theorem canon_carryPoison {src dst n} : Canon (carryPoison s src dst n) := by
  fun_cases carryPoison
  · exact memWf_markPoison _ h
  · exact h
  · exact canon_mk (memWf_mk h)
  · exact h

theorem canon_spadWrite {core off bs} : Canon (spadWrite s core off bs) := canon_mk h

/-! ### Translation -/

theorem canon_walked {asid va} : Canon (walked s asid va) := by
  fun_cases walked
  · exact h
  · exact canon_mk (memWf_mk h)
  · exact h

theorem canon_keepXlate {asid va} : Canon (keepXlate s asid va) := by
  fun_cases keepXlate
  · exact h
  · exact h
  · exact canon_mk (canon_walked h)

theorem canon_learnEach {asid vas} : Canon (learnEach s asid vas) :=
  canon_ite h (canon_mk (canon_foldl (fun _ _ hs => canon_keepXlate hs) h))

theorem canon_learn {asid va} : Canon (learn s asid va) :=
  canon_learnEach h

theorem canon_oneXlate {asid vas} : Canon (oneXlate s asid vas) := by
  fun_cases oneXlate
  · exact h
  · exact h
  · exact h
  · exact canon_foldl (fun _ _ hs => canon_mk hs) h

/-! ### Coherence and tile objects -/

theorem canon_dropOld {core ms} : Canon (dropOld s core ms) :=
  canon_ite h (canon_mk h)

theorem canon_freshImages {core line} : Canon (freshImages s core line) := by
  fun_cases freshImages
  · exact h
  · exact canon_dropOld h

theorem canon_freshLine {core line} : Canon (freshLine s core line) :=
  canon_mk (memWf_mk (canon_freshImages h))

theorem canon_freshCore {core} : Canon (freshCore s core) :=
  canon_mk (memWf_mk (canon_dropOld h))

theorem canon_needImages {core asid va pa n} : Canon (needImages s core asid va pa n) := by
  unfold needImages
  refine canon_foldl (fun _ _ hs => ?_) h
  split
  · exact hs
  · exact canon_ite hs (canon_mk (canon_freshImages hs))

theorem canon_recallOut {line} : Canon (recallOut s line) :=
  canon_recallCopies (canon_mk h)

theorem canon_snooped {line} : Canon (snooped s line) :=
  canon_recallOut (memWf_owe _ h)

theorem canon_endSub {b} : Canon (endSub s b) := by
  fun_cases endSub
  · exact canon_mk (canon_freshCore (canon_mk h))
  · exact canon_mk (canon_mk h)

theorem canon_endSubs {asid obj} : Canon (endSubs s asid obj) :=
  canon_foldl (fun _ _ hs => canon_endSub hs) h

theorem canon_leaveSubs {grid crew} : Canon (leaveSubs s grid crew) :=
  canon_foldl (fun _ _ hs => canon_ite hs (canon_ite (canon_endSub hs) (canon_mk hs))) h

theorem canon_applyMsg {m core} : Canon (applyMsg s m core) := by
  unfold applyMsg
  dsimp only
  split
  · exact h
  · refine canon_mk ?_
    split
    · exact h
    · split
      · exact h
      · exact canon_ite (canon_mk h) (canon_foldl (fun _ _ hs => canon_mk hs) h)

theorem canon_flushSi {gid core line} : Canon (flushSi s gid core line) :=
  canon_ite h (canon_foldl (fun _ _ hs => memWf_writeBy _ _ _ hs) (canon_mk (memWf_mk h)))

/-! ### Fault records -/

theorem canon_appendFault {f} : Canon (appendFault s f) :=
  canon_mk (memWf_devWrite _ _ h)

theorem canon_appendAll {l} : Canon (appendAll s l) := by
  fun_induction appendAll
  · exact h
  next ih => exact ih (canon_appendFault h)
  · exact h

theorem canon_flushFaults : Canon (flushFaults s) :=
  canon_appendAll h

theorem canon_report {asid source gid va n hit w grid die thr} :
    Canon (report s asid source gid va n hit w grid die thr) := by
  fun_cases report
  · exact canon_walked h
  · exact canon_walked h
  · exact canon_walked h
  · exact canon_walked h
  · exact canon_mk (canon_walked h)
  · exact canon_mk (canon_walked h)
  · exact canon_mk (canon_walked h)

/-! ### Shared operations -/

theorem canon_onG {f : Group → State} (hf : ∀ x, Canon (f x)) : Canon (onG s f) := by
  fun_cases onG
  · exact h
  · exact hf _

theorem canon_bumpCtx {c} : Canon (bumpCtx s c).1 :=
  canon_ite_fst (memWf_devWrite _ _ h) h

theorem canon_setAnyCrew {c} : Canon (setAnyCrew s c) :=
  canon_mk (canon_mk h)

theorem canon_retireCopyNo {grid crew n} : Canon (retireCopyNo s grid crew n) := by
  fun_cases retireCopyNo
  · exact h
  · exact canon_setAnyCrew (canon_bumpCtx h)

theorem canon_retireTaskNo {grid crew n} : Canon (retireTaskNo s grid crew n) := by
  fun_cases retireTaskNo
  · exact h
  · exact canon_setAnyCrew (canon_bumpCtx h)

theorem canon_bumpQueue {num} : Canon (bumpQueue s num) := by
  fun_cases bumpQueue
  · exact h
  · exact canon_mk (memWf_devWrite _ _ h)
  · exact canon_mk h

theorem canon_packetDone {queue w} : Canon (packetDone s queue w) := by
  fun_cases packetDone
  · exact h
  · exact canon_bumpQueue (canon_mk h)

theorem canon_gridComplete {id queue} : Canon (gridComplete s id queue) :=
  canon_mk (canon_packetDone h)

theorem canon_pushAdd {grid asid queue ctr delta cthresh cont test die} :
    Canon (pushAdd s grid asid queue ctr delta cthresh cont test die) := by
  fun_cases pushAdd
  · exact h
  · exact canon_gridComplete h
  · exact canon_mk h

theorem canon_putStashLine {core f} : Canon (putStashLine core s f) :=
  memWf_sendHome _ (canon_mk (memWf_putStash _ _ _ _ h))

theorem canon_flushStashEntry {core e} : Canon (flushStashEntry s core e) :=
  canon_foldl (fun _ _ hs => canon_putStashLine hs) h

theorem canon_removeCrew {c} : Canon (removeCrew s c) :=
  canon_mk (canon_mk (canon_mk (canon_leaveSubs (canon_mk h))))

theorem canon_discardCommands {c} : Canon (discardCommands s c) :=
  canon_mk (canon_mk (canon_bumpCtx (canon_bumpCtx h)))

theorem canon_backNow {line bytes} {put : State → State} (hput : ∀ x, Canon x → Canon (put x)) :
    Canon (backNow s line bytes put) :=
  canon_ite (hput _ (memWf_atSlice _ (memWf_owe _ h))) (canon_foldl (fun _ _ hs => memWf_devWrite _ _ hs) h)

theorem canon_stashNow {core f} : Canon (stashNow core s f) :=
  canon_backNow h (fun _ hs => canon_putStashLine hs)

theorem canon_siNow {gid core} : Canon (siNow s gid core) :=
  canon_mk (memWf_mk (canon_foldl (fun _ _ hs => canon_backNow hs (fun _ hs => canon_flushSi hs)) h))

theorem canon_stopCrew {c} : Canon (stopCrew s c) :=
  canon_removeCrew (canon_discardCommands (canon_foldl (fun _ _ hs => canon_stashNow hs) (canon_siNow h)))

theorem canon_stopSaved {v} : Canon (stopSaved s v) :=
  canon_mk (canon_mk (canon_mk (canon_bumpCtx (canon_bumpCtx h))))

theorem canon_abortGrid {id cause die} : Canon (abortGrid s id cause die) := by
  fun_cases abortGrid
  · exact h
  · exact h
  · exact canon_pushAdd (canon_mk (canon_mk (canon_mk (canon_foldl (fun _ _ hs => canon_stopSaved hs) (canon_foldl
      (fun _ _ hs => canon_stopCrew hs) h)))))

theorem canon_takeTrap {g t} : Canon (takeTrap s g t) :=
  canon_ite (canon_abortGrid h) (canon_mk (memWf_sliceWrite _ _ (memWf_sliceWrite _ _ h)))

theorem canon_trapScalar {g code info} : Canon (trapScalar s g code info) :=
  canon_takeTrap h

theorem canon_trapLane {g code info thr} : Canon (trapLane s g code info thr) :=
  canon_takeTrap h

theorem canon_dropRays {gid} : Canon (dropRays s gid) :=
  canon_mk (canon_mk (canon_mk h))

theorem canon_consumeAt {g source cause pa va acc} : Canon (consumeAt s g source cause pa va acc) :=
  canon_ite (canon_mk (canon_dropRays (canon_mk h))) (canon_abortGrid (canon_mk h))

theorem canon_consume {g cause pa va acc} : Canon (consume s g cause pa va acc) :=
  canon_consumeAt h

theorem canon_consumeAll {gs source cause pa va asid die acc} :
    Canon (consumeAll s gs source cause pa va asid die acc) :=
  canon_ite (canon_foldl (fun _ _ hs => canon_mk (canon_dropRays hs)) (canon_mk h)) (canon_foldl (fun _ _ hs =>
    canon_abortGrid hs) (canon_mk h))

/-! ### Flags -/

theorem canon_orAfflags {asid f} : Canon (orAfflags s asid f) :=
  canon_ite h (canon_mk h)

/-! ### Lane operands -/

theorem canon_cleanRows {g f act rows} : Canon (cleanRows s g f act rows) :=
  canon_ite (canon_mk h) h

theorem canon_laneIssue {reads writes} {body : Group → QEntry → State} (hbody : ∀ x y, Canon (body x y)) :
    Canon (laneIssue s reads writes body) := by
  unfold laneIssue
  refine canon_onG h (fun _ => ?_)
  split
  · exact h
  · split
    · exact canon_trapLane h
    · exact canon_consume h
    · exact hbody _ _

theorem canon_lanePass {f rows k g q} : Canon (lanePass s f rows k g q) :=
  canon_mk (canon_cleanRows h)

theorem canon_scalarIssue {regs} {body : Group → State} (hbody : ∀ x, Canon (body x)) :
    Canon (scalarIssue s regs body) := by
  unfold scalarIssue
  refine canon_onG h (fun _ => ?_)
  split
  · exact canon_trapScalar h
  · exact hbody _

theorem canon_scalarDone {g d v} : Canon (scalarDone s g d v) :=
  canon_ite (canon_trapScalar h) (canon_mk h)

theorem canon_scalarDoneElse {g d v} {new : State} (hnew : Canon new) : Canon (scalarDoneElse s new g d v) :=
  canon_ite (canon_onG h (fun _ => canon_trapScalar h)) (canon_mk hnew)

theorem canon_scalarOp {d srcs v} : Canon (scalarOp s d srcs v) :=
  canon_scalarIssue h (fun _ => canon_scalarDone h)

/-! ### Capture -/

theorem canon_laneExec {i} {body : Group → QEntry → State} (hbody : ∀ x y, Canon (body x y)) :
    Canon (laneExec s i body) :=
  canon_laneIssue h (fun _ _ => hbody _ _)

theorem canon_laneOp {i f k} : Canon (laneOp s i f k) :=
  canon_laneExec h (fun _ _ => canon_lanePass h)

theorem canon_laneElems {i f k} : Canon (laneElems s i f k) :=
  canon_laneOp h

/-! ### Instruction fetch -/

theorem canon_codeRoom {quad} : Canon (codeRoom s quad) :=
  canon_ite h (canon_mk (memWf_mk h))

theorem canon_codePut {core line here} : Canon (codePut s core line here) :=
  canon_ite (canon_mk (memWf_mk h)) (canon_mk (memWf_mk (canon_codeRoom h)))

/-! ### Lane arithmetic: floating point -/

theorem canon_laneFp {i f op} : Canon (laneFp s i f op) :=
  canon_laneElems h

theorem canon_laneEst {i f k} : Canon (laneEst s i f k) :=
  canon_laneElems h

/-! ### Lane arithmetic: integers -/

theorem canon_laneInt {i f sat op} : Canon (laneInt s i f sat op) :=
  canon_laneElems h

theorem canon_laneBits {i f op} : Canon (laneBits s i f op) := by
  unfold laneBits
  dsimp only
  exact canon_laneElems h

theorem canon_laneRow {i f op} : Canon (laneRow s i f op) :=
  canon_laneOp h

/-! ### Cross-thread instructions -/

theorem canon_enterIdle {g f rows sreg} : Canon (enterIdle s g f rows sreg) :=
  canon_mk (canon_cleanRows h)

theorem canon_enterPending {g f act i} : Canon (enterPending s g f act i) := canon_mk h

theorem canonOut_execXred {f op} : CanonOut (execXred f op s) := by
  unfold execXred
  dsimp only
  refine canon_laneExec h (fun _ _ => ?_)
  split
  · exact canon_enterIdle h
  · exact canon_enterPending h

theorem canonOut_execMmac {f freg} : CanonOut (execMmac f freg s) := by
  unfold execMmac
  dsimp only
  refine canon_laneExec h (fun _ _ => ?_)
  split
  · exact canon_enterIdle h
  · exact canon_ite (canon_trapLane h) (canon_enterPending h)

/-! ### Line requests -/

theorem canon_drainStash {c who p} : Canon (drainStash s c who p).1 :=
  memWf_drainLines _ _ _ h

theorem canon_dependOn {x line} : Canon (dependOn s x line) := canon_mk (memWf_mk h)

theorem canon_flushLines {who gid core l} : Canon (flushLines s who gid core l).1 := by
  fun_induction flushLines
  · exact h
  next ih => exact ih (canon_flushSi (memWf_reachCore _ _ _ _ h))
  · exact memWf_reachCore _ _ _ _ h

theorem canon_flushPaid {who gid core line} : Canon (flushPaid s who gid core line).1 :=
  canon_flushLines h

theorem canon_acquireL1 {gid core scope} : Canon (acquireL1 s gid core scope) :=
  canon_ite (canon_mk (canon_mk (memWf_mk h))) h

theorem canon_releaseL1 {a scope} : Canon (releaseL1 s a scope) :=
  canon_mk (memWf_mk (canon_flushSi h))

theorem canon_releasePaid {who a scope} : Canon (releasePaid s who a scope).1 :=
  canon_ite_fst (canon_releaseL1 (canon_flushPaid h)) (canon_flushPaid h)

theorem canon_fenceMet {g f} : Canon (fenceMet s g f) :=
  canon_ite (canon_ite h (canon_acquireL1 h)) (canon_mk (memWf_mk (canon_mk (memWf_mk (canon_ite h (canon_acquireL1
    h))))))

theorem canon_settleFences {g} : Canon (settleFences s g) :=
  canon_foldl (fun _ _ hs => canon_fenceMet hs) (canon_mk h)

theorem canon_settleAllFences : Canon (settleAllFences s) :=
  canon_foldl (fun _ _ hs => canon_settleFences hs) h

theorem canon_evictL1 {core line} : Canon (evictL1 s core line) :=
  canon_mk (memWf_mk (memWf_mergeHome _ (canon_flushSi h)))

theorem canon_evictPaid {core line} : Canon (evictPaid s core line) :=
  canon_ite (canon_evictL1 h) (canon_ite (canon_evictL1 (memWf_reachCore _ _ _ _ h)) (memWf_reachCore _ _ _ _ h))

theorem canon_sectorPaid {page} : Canon (sectorPaid s page) := by
  fun_cases sectorPaid
  · exact memWf_evictSector _ h
  · exact memWf_evictSector _ (canon_claim h)
  · exact canon_claim h

theorem canon_addSharer {core line} : Canon (addSharer s core line) :=
  canon_ite h (canon_mk (memWf_mk h))

theorem canon_ownWrite {w holder line pa bs} : Canon (ownWrite s w holder line pa bs) :=
  canon_mk (memWf_notePast (memWf_mk (memWf_recallBy _ _ (canon_mk (memWf_mk h)))))

theorem canon_bufferSi {core line pa bs} : Canon (bufferSi s core line pa bs) :=
  canon_mk (memWf_notePast (memWf_mk h))

theorem canon_prepare {r} : Canon (prepare s r) := by
  fun_cases prepare
  · exact h
  · exact canon_mk (memWf_mk h)
  · exact canon_freshLine (canon_flushSi h)
  · exact h
  · exact canon_freshLine (canon_mk (memWf_mk h))
  · exact h
  · exact canon_freshLine (canon_flushSi h)

theorem canon_keepLine {r} : Canon (keepLine s r) := by
  fun_cases keepLine
  · exact canon_addSharer h
  · exact canon_addSharer h
  · exact h
  · exact h
  · exact canon_mk (memWf_mk h)

theorem canon_fillParts {r} : Canon (fillParts s r) :=
  canon_ite h (canon_foldl (fun _ _ hs => canon_needImages hs) h)

theorem canon_serveLoad {r} : Canon (serveLoad s r).1 := by
  have hk : Canon (dependOn (keepLine (fillParts s r) r) (reqAccess r) r.line) :=
    canon_dependOn (canon_keepLine (canon_fillParts h))
  exact canon_ite (canon_acquireL1 hk) hk

theorem canon_sendResult {hit line pa bs} : Canon (sendResult s hit line pa bs) :=
  memWf_sendHome _ (canon_mk (memWf_homePuts _ _ (memWf_mk h)))

theorem canon_writePart {r p v holder} : Canon (writePart s r p v holder) := by
  fun_cases writePart
  · exact memWf_writeBy _ _ _ h
  · exact canon_sendResult (canon_ownWrite h)
  · exact canon_ownWrite h
  · exact canon_mk (memWf_lineToPool _ (memWf_writeBy _ _ _ h))
  · exact memWf_writeBy _ _ _ h

theorem canon_serveRelease {r} : Canon (serveRelease s r) :=
  canon_ite (canon_releaseL1 h) (canon_ite (canon_flushSi h) h)

theorem canon_serveStore {r} : Canon (serveStore s r) := by
  unfold serveStore
  dsimp only
  refine canon_foldl (fun _ _ hs => ?_) (canon_serveRelease h)
  split
  · exact canon_ite (canon_writePart hs) (canon_bufferSi hs)
  · exact canon_writePart hs
  · exact canon_writePart hs

theorem canon_afterAdd {r p} : Canon (afterAdd s r p) :=
  canon_ite h (canon_mk h)

theorem canon_serveAtom {r} : Canon (serveAtom s r).1 := by
  unfold serveAtom
  extract_lets s1 out
  have hout : Canon out.1 := canon_foldl_fst (fun _ _ hs => canon_afterAdd (canon_writePart hs))
    (canon_dependOn (canon_serveRelease h))
  exact canon_ite (canon_acquireL1 hout) hout

theorem canon_fillInfl {r out fl} : Canon (fillInfl s r out fl) := by
  fun_cases fillInfl
  · exact h
  · exact canon_mk h

theorem canon_perform {r} : Canon (perform s r) := by
  unfold perform
  extract_lets hit s1 s2 s3
  have h1 : Canon s1 := canon_ite (memWf_atSlice _ h) h
  have h2 : Canon s2 := canon_prepare h1
  have h3 : Canon s3 := canon_ite h2 (memWf_atSlice _ h2)
  split
  · exact canon_fillInfl (canon_serveLoad h3)
  · exact canon_serveStore h3
  · exact canon_fillInfl (canon_serveAtom h3)
  · exact canon_orAfflags (canon_serveAtom h3)
  · exact canon_ite (canon_keepLine h3) h3
  · exact h3

theorem canon_returnReq {r} : Canon (returnReq s r) := by
  fun_cases returnReq
  · exact canon_mk h
  · exact canon_mk (canon_mk h)

theorem canon_streamArrives {r} : Canon (streamArrives s r) :=
  canon_ite h (canon_mk h)

theorem canon_writeBacksPaid {r} : Canon (writeBacksPaid s r).1 := by
  fun_cases writeBacksPaid
  · exact h
  · exact h
  · exact canon_claim h

theorem canon_readyReq {r} : Canon (readyReq s r).1 :=
  canon_ite_fst (canon_ite_fst (canon_flushPaid h) h) (canon_writeBacksPaid (canon_ite_fst (canon_flushPaid h) h))

theorem canon_serveNow {r} : Canon (serveNow s r) := by
  fun_cases serveNow
  · exact canon_consume (canon_returnReq (canon_streamArrives (canon_ite (memWf_recallLine _ h) h)))
  · exact canon_returnReq (canon_mk (canon_perform (canon_streamArrives (canon_ite (memWf_recallLine _ h) h))))
  · exact canon_mk (canon_perform (canon_streamArrives (canon_ite (memWf_recallLine _ h) h)))

theorem canon_serveReq {r} : Canon (serveReq s r) :=
  canon_ite (canon_mk h) (canon_ite (canon_serveNow (canon_readyReq h)) (canon_readyReq h))

theorem canonOut_execMemoryRequestAtHome {id} : CanonOut (execMemoryRequestAtHome id s) := by
  unfold execMemoryRequestAtHome
  split
  · exact h
  · exact canon_ite (canon_serveReq h) h

theorem canonOut_execLineRecall {id} : CanonOut (execLineRecall id s) := by
  unfold execLineRecall
  split
  · exact h
  · exact canon_ite (canon_serveReq h) h

theorem canonOut_execRequestReturn {id} : CanonOut (execRequestReturn id s) := by
  unfold execRequestReturn
  split
  · exact h
  · exact canon_ite (canon_returnReq h) h

theorem canon_acceptReq {r} : Canon (acceptReq s r) :=
  canon_ite h (canon_ite (canon_mk h) (canon_ite h (canon_ite (canon_mk (canon_mk (canon_useHome (canon_claim h))))
    (canon_claim h))))

theorem canonOut_execGovernedRequestAdmit {id} : CanonOut (execGovernedRequestAdmit id s) := by
  unfold execGovernedRequestAdmit
  split
  · exact h
  · exact canon_acceptReq h

theorem canon_pushReq {r} : Canon (pushReq s r) :=
  canon_acceptReq (canon_mk h)

/-! ### The probe -/

theorem canon_trapG {g isLane code info thr} : Canon (trapG s g isLane code info thr) :=
  canon_ite (canon_trapLane h) (canon_trapScalar h)

theorem canon_learnAll {asid els} : Canon (learnAll s asid els) :=
  canon_learnEach h

theorem canon_reportEach {asid source gid w grid die ms} : Canon (reportEach s asid source gid w grid die ms) :=
  canon_foldl (fun _ _ hs => canon_report hs) h

theorem canon_probeG {g isLane els} {k : State → List Found → State} (hk : ∀ x y, Canon x → Canon (k x y)) :
    Canon (probeG s g isLane els k) := by
  fun_cases probeG
  · exact hk _ _ (canon_learnAll (canon_oneXlate h))
  · exact canon_oneXlate h
  · exact canon_consume (canon_reportEach (canon_oneXlate h))
  · exact canon_mk (canon_reportEach (canon_oneXlate h))
  · exact canon_trapG (canon_reportEach (canon_oneXlate h))
  · exact canon_mk (canon_reportEach (canon_oneXlate h))

theorem canon_spillStack {g p} : Canon (spillStack s g p) :=
  canon_mk (canon_foldl (fun _ _ hs => memWf_homeWrite _ _ hs) h)

theorem canon_spillCharged {g who p} : Canon (spillCharged s g who p).1 := by
  fun_cases spillCharged
  · exact h
  · exact canon_spillStack (memWf_reachCore _ _ _ _ h)
  · exact memWf_reachCore _ _ _ _ h

theorem canon_fetchRows {gid core asid who l} : Canon (fetchRows s gid core asid who l).1 := by
  fun_induction fetchRows
  · exact h
  next ih => exact ih h
  next ih => exact ih (canon_mk (memWf_reachCore _ _ _ _ h))
  · exact memWf_reachCore _ _ _ _ h

theorem canon_stackFetch {g who vas} : Canon (stackFetch s g who vas).1 :=
  canon_fetchRows h

theorem canon_prefLine {core asid gid lvl rq va pa ok} : Canon (prefLine s core asid gid lvl rq va pa ok) :=
  canon_ite (canon_pushReq h) h

theorem canon_streamFetch {t va} : Canon (streamFetch s t va).1 := by
  fun_cases streamFetch
  · exact canon_prefLine h
  · exact canon_mk h
  · exact h
  · exact h

theorem canon_streamDemand {t va pa} : Canon (streamDemand s t va pa) := by
  fun_cases streamDemand
  · exact h
  · exact canon_mk (canon_foldl_fst (fun _ _ hs => canon_streamFetch hs) h)

theorem canon_advanceStreams {core asid fs} : Canon (advanceStreams s core asid fs) :=
  canon_foldl (fun _ _ hs => canon_foldl (fun _ _ hs => canon_streamDemand hs) hs) h

/-! ### Lane memory instructions -/

theorem canon_pushRuns {r o l} : Canon (pushRuns s r o l) := by
  fun_induction pushRuns
  · exact h
  next ih => exact ih (canon_pushReq h)

theorem canon_spillFor {g o fs} : Canon (spillFor s g o fs).1 :=
  canon_ite_fst (canon_spillCharged h) h

theorem canon_stackOrder {g o stk} : Canon (stackOrder s g o stk).1 :=
  canon_ite_fst h (canon_ite_fst (canon_releasePaid h) (canon_acquireL1 h))

theorem canon_laneAccess {f o g q act fs} : Canon (laneAccess f o g q act s fs) := by
  unfold laneAccess
  extract_lets stk mem runs rows s1 g1 spill order s2 g2 id val ws g3 s3
  have h1 : Canon s1 := canon_stackFetch h
  have hspill : Canon spill.1 := canon_spillFor h1
  have h2 : Canon s2 := canon_ite_fst (canon_stackOrder hspill) hspill
  have h3 : Canon s3 := by
    dsimp only [s3]
    split
    · exact canon_enterPending h2
    · exact canon_mk h2
  refine canon_ite h (canon_ite h1 ?_)
  split
  · exact canon_consume h1
  · exact canon_ite h2 (canon_advanceStreams (canon_pushRuns h3))

theorem canon_laneGlobal {f o addr g q} : Canon (laneGlobal s f o addr g q) := by
  fun_cases laneGlobal
  · exact canon_enterIdle h
  · exact canon_trapLane h
  · exact h
  · exact canon_probeG h (fun _ _ hs => canon_laneAccess hs)

theorem canon_fillStash {g off} : Canon (fillStash s g off) := by
  fun_cases fillStash
  · exact h
  · exact h
  · exact h
  · exact h
  · exact canon_mk (canon_mk (canon_spadWrite (memWf_recallLine _ (canon_freshLine (canon_flushSi (canon_foldl (fun
      _ _ hs => canon_putStashLine hs) h))))))
  · exact h
  · exact canon_mk (canon_mk (canon_foldl (fun _ _ hs => canon_spadWrite hs) (canon_foldl (fun _ _ hs =>
      canon_freshImages hs) h)))

theorem canon_spadPutEl {g o thr off v} : Canon (spadPutEl s g o thr off v) := by
  unfold spadPutEl
  dsimp only
  split
  · exact canon_spadWrite (canon_mk h)
  · refine canon_ite (memWf_writeBy _ _ _ (canon_mk h)) ?_
    refine canon_spadWrite ?_
    refine canon_mk ?_
    refine memWf_notePast ?_
    split
    · exact canon_mk (canon_mk h)
    · exact canon_mk h

theorem canon_spadRun {g o els} : Canon (spadRun s g o els).1 := by
  unfold spadRun
  dsimp only
  refine canon_foldl_fst (fun _ _ hs => ?_) h
  split
  · exact canon_fillStash hs
  · exact canon_spadPutEl (canon_fillStash hs)

theorem canon_spadFresh {g o fs} : Canon (spadFresh s g o fs) :=
  canon_foldl (fun _ _ hs => canon_freshImages hs) h

theorem canon_spadLines {g o els fs} : Canon (spadLines s g o els fs).1 := by
  unfold spadLines
  extract_lets mine a s1 lines b
  have ha : Canon a.1 := canon_flushLines h
  have hb : Canon b.1 := canon_ite_fst ha (memWf_reachCore _ _ _ _ ha)
  exact canon_ite_fst hb (canon_foldl (fun _ _ hs => canon_freshLine hs) hb)

theorem canon_spadAccess {f o g q act els fs} : Canon (spadAccess f o g q act els s fs) := by
  unfold spadAccess
  extract_lets rel r s1 a s2 s3 out s4 g1
  have h1 : Canon s1 := canon_ite_fst h (canon_spadLines (canon_spadFresh h))
  have h3 : Canon s3 := canon_advanceStreams (canon_foldl (fun _ _ hs => canon_fillStash hs)
    (canon_ite (canon_releaseL1 h1) h1))
  have h4 : Canon s4 := canon_ite (canon_orAfflags (canon_spadRun h3)) (canon_spadRun h3)
  refine canon_ite h1 ?_
  split
  · exact canon_consume h3
  · split
    · exact canon_mk h4
    · exact canon_enterPending h4

theorem canon_laneSpad {f o off g q} : Canon (laneSpad s f o off g q) := by
  fun_cases laneSpad
  · exact canon_enterIdle h
  · exact canon_trapLane h
  · exact h
  · exact canon_trapLane h
  · exact canon_probeG h (fun _ _ hs => canon_spadAccess hs)

theorem canon_prefOne {g lvl rq va} : Canon (prefOne s g lvl rq va) := by
  fun_cases prefOne
  · exact canon_prefLine h
  · exact canon_prefLine h
  · exact canon_mk h
  · exact h

theorem canonOut_execPref {f lvl rq} : CanonOut (execPref f lvl rq s) :=
  canon_laneExec h (fun _ _ => canon_ite h (canon_ite h (canon_mk (canon_foldl (fun _ _ hs => canon_prefOne hs) h))))

theorem canonOut_execFence {f m} : CanonOut (execFence f m s) := by
  unfold execFence
  dsimp only
  refine canon_laneExec h (fun _ _ => ?_)
  split
  · exact canon_mk h
  · exact canon_ite (canon_mk (canon_flushPaid h)) (canon_flushPaid h)

theorem canon_cleanCopies {g scope line} : Canon (cleanCopies s g scope line) := by
  unfold cleanCopies
  extract_lets mine s1 sel m1 m2 keep wash s2
  have h1 : Canon s1 := canon_foldl (fun _ _ hs => canon_flushSi hs) h
  have hm : memWf m2 = true := memWf_foldl (fun _ _ hm => memWf_putStash _ _ _ _ hm)
    (memWf_foldl (fun _ _ hm => memWf_mergeHome _ hm) h1)
  have h2 : Canon s2 := canon_mk (memWf_mk hm)
  exact canon_ite (memWf_sendHome _ h2) (canon_mk (memWf_lineToPool _ h2))

theorem canon_dropCopies {g scope line} : Canon (dropCopies s g scope line) := by
  obtain ⟨hpool, hloc, hllc⟩ := memWf_iff.1 h
  fun_cases dropCopies
  · exact h
  · exact memWf_iff.2 ⟨hpool, Cells.rising_filter _ hloc, Cells.rising_filter _ hllc⟩

theorem canon_discardCopies {g scope line} : Canon (discardCopies s g scope line) :=
  canon_mk (memWf_foldl (fun _ _ hm => memWf_ite (memWf_poolPut _ _ hm) (memWf_ite hm (memWf_homePut _ _ hm)))
    (canon_dropCopies (canon_mk h)))

omit h in
theorem canon_cacheLine {a g scope dsc line} {x : State × Nat} (hx : Canon x.1) :
    Canon (cacheLine a g scope dsc x line).1 := by
  fun_cases cacheLine
  · exact canon_cleanCopies hx
  · exact canon_dropCopies (canon_cleanCopies hx)
  · exact canon_discardCopies hx
  · exact canon_dropCopies hx
  · exact canon_dropCopies (canon_cleanCopies hx)

theorem canon_cleanLines {g scope l} : Canon (cleanLines s g scope l).1 := by
  fun_induction cleanLines
  · exact h
  next ih => exact ih h
  · exact h
  next ih => exact ih (canon_cleanCopies (memWf_countOwn _ (canon_useHome (canon_claim h))))
  · exact canon_claim h

theorem canon_cacheAll {g a scope n ranges} : Canon (cacheAll s g a scope n ranges).1 := by
  unfold cacheAll
  refine canon_foldl_fst (fun _ _ hs => ?_) h
  refine canon_foldl_fst (fun _ _ hs => ?_) hs
  split
  · exact hs
  · exact canon_foldl_fst (fun _ _ hs => canon_cacheLine hs) hs

theorem canon_cacheOp {f a scope n sreg g q} : Canon (cacheOp s f a scope n sreg g q) := by
  fun_cases cacheOp
  · exact canon_enterIdle h
  · exact h
  · exact canon_probeG h (fun _ _ hs => canon_ite (canon_ite_fst hs (canon_cleanLines hs)) (canon_enterPending
      (canon_cacheAll (canon_ite_fst hs (canon_cleanLines hs)))))

/-! ### Barriers, queues and waits -/

theorem canon_barPut {g b v} : Canon (barPut s g b v) := by
  fun_cases barPut
  · exact canon_spadWrite h
  · exact h
  · exact canon_mk h

theorem canon_withBar {g q f net thr ok} {k : BarAt → BarVal → State} (hk : ∀ x y, Canon (k x y)) :
    Canon (withBar s g q f net thr ok k) := by
  fun_cases withBar
  · exact h
  · exact canon_trapLane h
  · exact canon_trapLane h
  · exact canon_consume h
  · exact canon_trapLane h
  · exact hk _ _
  · exact canon_trapLane h

theorem canonOut_execBara {f m} : CanonOut (execBara f m s) := by
  unfold execBara
  dsimp only
  refine canon_laneExec h (fun _ _ => ?_)
  split
  · exact canon_enterIdle h
  · exact canon_ite h (canon_withBar h (fun _ _ => canon_ite (canon_releasePaid h) (canon_enterPending (canon_barPut
      (canon_releasePaid h)))))

theorem canonOut_execBarw {f net} : CanonOut (execBarw f net s) := by
  unfold execBarw
  refine canon_laneExec h (fun _ _ => ?_)
  split
  · exact canon_enterIdle h
  · exact canon_ite h (canon_withBar h (fun _ _ => canon_ite (canon_mk (canon_acquireL1 h)) (canon_mk h)))

theorem canonOut_execBartw {f net} : CanonOut (execBartw f net s) := by
  unfold execBartw
  dsimp only
  refine canon_laneExec h (fun _ _ => ?_)
  split
  · exact canon_enterIdle h
  · exact canon_ite h (canon_withBar h (fun _ _ => canon_ite (canon_enterPending (canon_acquireL1 h)) (canon_ite
      (canon_enterPending h) (canon_enterPending h))))

theorem canonOut_execResultReturn {gid id} : CanonOut (execResultReturn gid id s) := by
  unfold execResultReturn
  dsimp only
  split
  · exact h
  · split
    · exact h
    · refine canon_ite h ?_
      refine canon_ite ?_ (canon_ite (canon_consumeAt (canon_mk h)) (canon_mk h))
      split
      · exact canon_mk (canon_acquireL1 h)
      · exact canon_ite (canon_consume h) h

theorem canon_withQueue {g q f act} {k : ℕ → ℕ → ℕ → State} (hk : ∀ x y z, Canon (k x y z)) :
    Canon (withQueue s g q f act k) := by
  fun_cases withQueue
  · exact h
  · exact canon_consume h
  · exact canon_trapLane h
  · exact hk _ _ _

theorem canon_ringPut {core x hs} : Canon (ringPut s core x hs) :=
  canon_foldl (fun _ _ hs => canon_spadWrite (canon_mk hs)) h

theorem canonOut_execQpush {f} : CanonOut (execQpush f s) := by
  refine canon_laneExec h (fun _ _ => ?_)
  split
  · exact canon_enterIdle h
  · refine canon_ite h (canon_withQueue h (fun _ _ _ => canon_ite (canon_mk h) ?_))
    exact canon_ite (canon_releasePaid h) (canon_mk (canon_spadWrite (canon_ringPut (canon_releasePaid h))))

theorem canonOut_execQpop {f} : CanonOut (execQpop f s) := by
  refine canon_laneExec h (fun g q => ?_)
  cases actives g q f with
  | nil => exact canon_enterIdle h
  | cons u r =>
    refine canon_ite h (canon_withQueue h (fun _ _ _ => ?_))
    exact canon_ite (canon_mk h) (canon_ite (canon_consume h) (canon_enterPending (canon_spadWrite h)))

theorem canon_spilled {g p} {k : State → Group → State} (hk : ∀ x y, Canon x → Canon (k x y)) :
    Canon (spilled s g p k) :=
  canon_ite (canon_ite (hk _ _ (canon_spillCharged h)) (canon_spillCharged h)) (hk _ _ h)

theorem canon_readWords {g mask reads sc} : Canon (readWords s g mask reads sc).1 := by
  unfold readWords
  extract_lets lines a s1 r
  have h1 : Canon s1 := canon_foldl (fun _ _ hs => canon_freshLine hs) (canon_flushLines h)
  have hr : Canon r.1 := by
    dsimp only [r]
    split
    · exact h1
    · exact canon_ite_fst (memWf_reachCore _ _ _ _ h1) h1
  exact canon_foldl (fun _ _ hs => canon_dependOn hs) hr

theorem canonOut_execTwait {f cond w32 scope} : CanonOut (execTwait f cond w32 scope s) := by
  refine canon_laneExec h (fun _ _ => ?_)
  extract_lets d n va
  split
  · exact canon_enterIdle h
  · refine canon_ite (canon_trapLane h) (canon_ite h ?_)
    refine canon_spilled h (fun _ _ hs => canon_probeG hs (fun _ _ hs => ?_))
    split
    · exact hs
    · extract_lets rd s1
      have h1 : Canon s1 := canon_readWords hs
      refine canon_ite hs (canon_ite (canon_consume hs) (canon_ite h1 ?_))
      exact canon_ite (canon_mk (canon_acquireL1 h1)) (canon_ite (canon_mk h1) (canon_mk h1))

theorem canonOut_execWaitt {f scope} : CanonOut (execWaitt f scope s) := by
  unfold execWaitt
  dsimp only
  refine canon_laneExec h (fun _ _ => ?_)
  split
  · exact canon_enterIdle h
  · split
    · exact canon_trapLane h
    · refine canon_ite h ?_
      refine canon_spilled h (fun _ _ hs => ?_)
      refine canon_probeG hs (fun _ _ hs => ?_)
      refine canon_ite hs ?_
      split
      · exact canon_consume hs
      · exact canon_ite (canon_readWords hs) (canon_ite (canon_mk (canon_acquireL1 (canon_readWords hs))) (canon_mk
          (canon_readWords hs)))

theorem canon_wakeStep {g} : Canon (wakeStep s g) := by
  fun_cases wakeStep
  · exact h
  · exact canon_acquireL1 (canon_dependOn (canon_freshLine (canon_mk h)))
  · exact canon_mk h

theorem canon_wakeAll : Canon (wakeAll s) :=
  canon_mk (canon_foldl (fun _ _ hs => canon_wakeStep hs) h)

theorem canonOut_execTryWaitHintExpiry {gid id} : CanonOut (execTryWaitHintExpiry gid id s) := by
  unfold execTryWaitHintExpiry
  split
  · exact h
  · refine canon_ite ?_ ?_
    · split
      · split
        · exact canon_ite (canon_wakeStep h) (canon_ite (canon_mk h) h)
        · exact h
      · exact h
    · split
      · exact h
      · refine canon_ite h ?_
        split
        · exact canon_mk (canon_acquireL1 h)
        · exact canon_ite (canon_consume h) (canon_mk h)

theorem canon_laneCondition {g q f code thrs} : Canon (laneCondition s g q f code thrs) := by
  fun_cases laneCondition
  · exact h
  · exact canon_abortGrid h
  · exact canon_mk (canon_foldl (fun _ _ hs => canon_mk hs) h)

/-! ### Streams, stashes and objects -/

theorem canon_writeStat {t} : Canon (writeStat s t) := by
  fun_cases writeStat
  · exact h
  · exact h
  · exact memWf_devWrite _ _ h

theorem canon_dropStream {core slot} : Canon (dropStream s core slot) := by
  fun_cases dropStream
  · exact h
  · exact canon_mk (canon_writeStat h)

theorem canon_installStream {g slot d} : Canon (installStream s g slot d).1 :=
  canon_ite_fst h (canon_mk (canon_dropStream h))

theorem canon_dropStash {asid grid num slot} : Canon (dropStash s asid grid num slot) := by
  fun_cases dropStash
  · exact h
  · exact h
  · exact canon_foldl (fun _ _ hs => canon_endSub hs) (canon_flushStashEntry h)
  · exact canon_mk (canon_foldl (fun _ _ hs => canon_endSub hs) (canon_flushStashEntry h))

theorem canon_installStash {g slot d} : Canon (installStash s g slot d).1 := by
  fun_cases installStash
  · exact h
  · exact h
  · exact canon_mk (canon_dropStash h)
  · exact canon_mk (canon_mk (canon_dropStash h))

theorem canon_installObj {asid slot d} : Canon (installObj s asid slot d).1 :=
  canon_ite_fst h (canon_ite_fst h (canon_ite_fst h (canon_ite_fst h (canon_mk h))))

theorem canon_retireObj {asid slot} : Canon (retireObj s asid slot) :=
  canon_mk (canon_endSubs h)

theorem canon_statusResult {q g f act status} : Canon (statusResult s q g f act status) :=
  canon_enterPending h

theorem canon_readDesc {g mask ok pa n} : Canon (readDesc s g mask ok pa n).1 :=
  canon_ite_fst h (canon_readWords h)

theorem canon_slotDrained {g kind slot} : Canon (slotDrained s g kind slot).1 := by
  fun_cases slotDrained
  · exact canon_drainStash h
  · exact h

theorem canonOut_execSdesc {f kind del} : CanonOut (execSdesc f kind del s) := by
  refine canon_laneExec h (fun g q => ?_)
  extract_lets slot out s1 s2 size
  have h1 : Canon s1 := canon_slotDrained h
  split
  · exact canon_enterIdle h
  · refine canon_ite h (canon_ite ?_ (canon_ite (canon_trapLane h) ?_))
    · refine canon_ite h1 (canon_statusResult ?_)
      dsimp only [s2]
      split
      · exact canon_dropStream h1
      · exact canon_dropStash h1
      · exact canon_retireObj h1
    · refine canon_spilled h (fun _ _ hs => canon_probeG hs (fun _ _ hs => ?_))
      split
      · exact hs
      · refine canon_ite hs (canon_ite (canon_consume hs) ?_)
        split
        case h_1 t e => exact canon_of_fst (canon_readDesc hs) e
        case h_2 t d e =>
          have ht : Canon t := canon_of_fst (canon_readDesc hs) e
          extract_lets w s3 out'
          have h3 : Canon s3 := canon_ite_fst ht (canon_slotDrained ht)
          refine canon_ite h3 (canon_statusResult ?_)
          dsimp only [out']
          split
          · exact canon_installStream h3
          · exact canon_installStash h3
          · exact canon_installObj h3

theorem canon_heldHome {g lines} : Canon (heldHome s g lines).1 :=
  canon_ite_fst (canon_flushLines h) (memWf_drainLines _ _ _ (canon_flushLines h))

theorem canonOut_execSubp {f} : CanonOut (execSubp f s) := by
  unfold execSubp
  dsimp only
  refine canon_laneExec h (fun _ _ => ?_)
  split
  · exact canon_enterIdle h
  · refine canon_ite h ?_
    split
    · exact canon_statusResult h
    · refine canon_ite (canon_statusResult h) ?_
      refine canon_probeG h (fun _ _ hs => ?_)
      split
      · exact canon_ite (canon_statusResult hs) (canon_statusResult (canon_mk hs))
      · exact canon_ite (canon_statusResult hs) (canon_ite (canon_heldHome hs) (canon_statusResult (canon_mk
          (canon_mk (memWf_mk (canon_heldHome hs))))))

theorem canonOut_execUpgp {f} : CanonOut (execUpgp f s) := by
  unfold execUpgp
  dsimp only
  refine canon_laneExec h (fun _ _ => ?_)
  split
  · exact canon_enterIdle h
  · refine canon_ite h ?_
    split
    · refine canon_ite (canon_statusResult h) ?_
      refine canon_ite (canon_statusResult h) ?_
      refine canon_ite (canon_statusResult h) ?_
      refine canon_probeG h (fun _ _ hs => ?_)
      split
      · exact canon_statusResult (canon_mk hs)
      · exact canon_ite (memWf_reachCore _ _ _ _ hs) (canon_statusResult (canon_mk (memWf_reachCore _ _ _ _ hs)))
    · exact canon_statusResult h

theorem canonOut_execUnsp {f} : CanonOut (execUnsp f s) := by
  unfold execUnsp
  dsimp only
  refine canon_laneExec h (fun _ _ => ?_)
  split
  · exact canon_enterIdle h
  · refine canon_ite h ?_
    split
    · exact canon_statusResult h
    · exact canon_statusResult (canon_ite (canon_endSub h) (canon_mk h))

theorem canonOut_execPrecisionMessageQuad {id} : CanonOut (execPrecisionMessageQuad id s) := by
  unfold execPrecisionMessageQuad
  split
  · exact h
  · refine canon_ite h ?_
    split
    · exact canon_mk h
    · exact canon_mk h

theorem canonOut_execPrecisionMessageCore {id core} : CanonOut (execPrecisionMessageCore id core s) := by
  unfold execPrecisionMessageCore
  split
  · exact h
  · split
    · exact h
    · exact canon_ite h (canon_mk (canon_applyMsg h))

/-! ### Copies -/

theorem canon_pushCopy {g c} : Canon (pushCopy s g c).1 := by
  fun_cases pushCopy
  · exact h
  · exact h
  · exact h
  · exact canon_mk (canon_mk h)

theorem canon_discardCopy {c} : Canon (discardCopy s c) := by
  fun_cases discardCopy
  · exact canon_packetDone (canon_mk h)
  · exact canon_retireCopyNo (canon_mk h)

theorem canon_endCopy {c} : Canon (endCopy s c) :=
  canon_ite (canon_discardCopy h) (canon_mk h)

theorem canon_copyPoison {c side va pa cause acc} : Canon (copyPoison s c side va pa cause acc) := by
  fun_cases copyPoison
  · exact canon_abortGrid (canon_mk (canon_mk h))
  · exact canon_endCopy (canon_mk (canon_mk h))

theorem canon_copyFault {c side va n hit} : Canon (copyFault s c side va n hit) := by
  fun_cases copyFault
  · exact h
  · exact canon_mk (canon_mk h)
  · exact canon_report (canon_mk h)
  · exact canon_report (canon_mk h)
  · exact canon_endCopy h
  · exact h
  · exact canon_copyPoison h

theorem canon_cpWrite {c dstPa bs bad} : Canon (cpWrite s c dstPa bs bad) :=
  canon_ite (canon_mk (canon_spadWrite h)) (canon_ite (canon_foldl (fun _ _ hs => memWf_markPoison _ hs)
    (memWf_writeBy _ _ _ h)) (canon_carryPoison (memWf_writeBy _ _ _ h)))

theorem canon_cpStep {c inbound} : Canon (cpStep s c inbound) := by
  fun_cases cpStep
  · exact h
  · exact h
  · exact canon_copyPoison h
  · exact canon_spadWrite h

theorem canon_settleCopy {id} : Canon (settleCopy s id) := by
  fun_cases settleCopy
  · exact h
  · exact h
  · exact canon_foldl (fun _ _ hs => canon_cpStep hs) (canon_mk h)

theorem canon_settleCopies : Canon (settleCopies s) :=
  canon_foldl (fun _ _ hs => canon_settleCopy hs) h

theorem canon_cpSteps {c0 c} : Canon (cpSteps s c0 c) :=
  canon_ite (canon_mk h) (canon_settleCopy (canon_ite (canon_cpStep (canon_mk h)) (canon_mk h)))

theorem canon_cpMove {c n dstPa srcs} : Canon (cpMove s c n dstPa srcs) :=
  canon_cpSteps (canon_cpWrite (canon_ite h (canon_mk h)))

theorem canon_copyUnit {c0} : Canon (copyUnit s c0) := by
  fun_cases copyUnit
  · exact h
  · exact canon_copyFault h
  · exact canon_cpMove (memWf_reach _ _ _ (canon_mk h))
  · exact memWf_reach _ _ _ (canon_mk h)
  · exact canon_copyFault h

theorem canon_copySegments {id n1} : Canon (copySegments s id n1) := by
  fun_induction copySegments
  · exact h
  · exact h
  · exact canon_copyUnit h
  next ih => exact ih (canon_copyUnit h)
  · exact canon_copyUnit h
  · exact h

theorem canonOut_execCopyTransferStep {id} : CanonOut (execCopyTransferStep id s) := by
  unfold execCopyTransferStep
  split
  · exact h
  · exact canon_ite (canon_copyUnit h) h

theorem canonOut_execCopyCmdCopy {id} : CanonOut (execCopyCmdCopy id s) := by
  unfold execCopyCmdCopy
  split
  · exact h
  · exact canon_ite (canon_copySegments h) h

theorem canonOut_execCopyCmdFill {id} : CanonOut (execCopyCmdFill id s) := by
  unfold execCopyCmdFill
  split
  · exact h
  · exact canon_ite (canon_copySegments h) h

theorem canonOut_execCopyCmdSignal {id} : CanonOut (execCopyCmdSignal id s) := by
  unfold execCopyCmdSignal
  dsimp only
  split
  · exact h
  · refine canon_ite h ?_
    split
    · exact canon_ite (canon_mk (memWf_writeBy _ _ _ (memWf_reach _ _ _ h))) (memWf_reach _ _ _ h)
    · exact canon_copyFault h

theorem canonOut_execCopyRetire {id} : CanonOut (execCopyRetire id s) := by
  unfold execCopyRetire
  split
  · exact h
  · exact canon_ite (canon_discardCopy h) h

/-! ### The matrix engine -/

theorem canon_pushMatrix {g d} : Canon (pushMatrix s g d).1 := by
  fun_cases pushMatrix
  · exact h
  · exact h
  · exact h
  · exact canon_mk (canon_mk h)

theorem canon_restartEngine {core} : Canon (restartEngine s core) := by
  fun_cases restartEngine
  · exact canon_mk h
  · exact canon_mk (canon_mk h)
  · exact canon_mk (canon_bumpCtx (canon_mk (canon_mk h)))

theorem canon_consumeTask {core half t cause pa va acc} : Canon (consumeTask s core half t cause pa va acc) :=
  canon_ite (canon_foldl (fun _ _ hs => canon_restartEngine hs) (canon_consumeAll h)) (canon_consumeAll h)

theorem canon_runOn {core t op} : Canon (runOn s core t op) := by
  fun_cases runOn
  · exact canon_consumeTask h
  · exact canon_mk (canon_foldl_fst (fun _ _ hs => canon_mk hs) h)

theorem canon_rowProbe {core t half va n need s'} (e : rowProbe s core t half va n need = .stop s') : Canon s' := by
  revert e
  fun_cases rowProbe
  · rintro ⟨⟩
  · rintro ⟨⟩; exact h
  · rintro ⟨⟩; exact canon_consumeTask h
  · rintro ⟨⟩; exact canon_ite (canon_mk h) (canon_mk h)
  · rintro ⟨⟩; exact canon_mk (canon_foldl (fun _ _ hs => canon_report hs) h)

theorem canon_rowCharge {core half t ps} : Canon (rowCharge s core half t ps).1 :=
  memWf_reachCore _ _ _ _ (canon_foldl (fun _ _ hs => canon_learn hs) h)

theorem canon_rowWrite {core t l l'} : Canon (rowWrite s core t l l') := by
  fun_induction rowWrite
  · exact h
  next ih => exact ih (canon_carryPoison (canon_foldl (fun _ _ hs => canon_foldl (fun _ _ hs => canon_freshLine hs)
    hs) (memWf_writeBy _ _ _ h)))

theorem canon_loadRowStep {core t half i ps} : Canon (loadRowStep s core t half i ps) :=
  canon_ite (canon_mk h) (canon_mk h)

theorem canon_storeRowStep {core t half i ps} : Canon (storeRowStep s core t half i ps) :=
  canon_ite (canon_mk h) (canon_mk (canon_rowWrite h))

theorem canon_runRows {core key half load n4} : Canon (runRows s core key half load n4) := by
  fun_induction runRows
  · exact h
  · exact h
  · exact h
  · exact canon_rowProbe h (by assumption)
  · exact canon_rowCharge h
  next ih => exact ih (canon_ite (canon_loadRowStep (canon_rowCharge h)) (canon_storeRowStep (canon_rowCharge h)))

theorem canon_commitLoad {core t} : Canon (commitLoad s core t) :=
  canon_mk (canon_foldl (fun _ _ hs => canon_mk hs) h)

theorem canon_commitStore {core t} : Canon (commitStore s core t) := by
  unfold commitStore
  dsimp only
  split
  case h_1 t' hstop =>
    obtain ⟨r, -, hr⟩ := List.exists_of_findSome?_eq_some hstop
    split at hr
    · cases hr; exact canon_rowProbe h (by assumption)
    · cases hr
  case h_2 =>
    refine canon_ite h (canon_mk (canon_foldl (fun _ _ hs => ?_) h))
    split
    · exact canon_rowWrite hs
    · exact hs

theorem canon_runMem {core t load} : Canon (runMem s core t load) := by
  fun_cases runMem
  · exact canon_consumeTask h
  · exact canon_ite (canon_runRows (canon_runRows h)) (canon_runRows h)
  · exact canon_ite (canon_runRows (canon_runRows h)) (canon_runRows h)
  · exact canon_mk (canon_ite (canon_runRows (canon_runRows h)) (canon_runRows h))
  · exact canon_ite (canon_runRows (canon_runRows h)) (canon_runRows h)
  · exact canon_commitLoad (canon_ite (canon_runRows (canon_runRows h)) (canon_runRows h))
  · exact canon_commitStore (canon_ite (canon_runRows (canon_runRows h)) (canon_runRows h))

theorem canon_goTask {core t} {run : State → Task → State} (hrun : ∀ x y, Canon x → Canon (run x y)) :
    Canon (goTask s core t run) :=
  canon_ite (canon_mk h) (canon_ite (hrun _ _ h) h)

theorem canon_taskStep {core key kind} {run : State → Task → State} (hrun : ∀ x y, Canon x → Canon (run x y)) :
    Canon (taskStep s core key kind run) := by
  fun_cases taskStep
  · exact h
  · exact h
  · exact h
  · exact canon_mk h
  · exact canon_mk h
  · exact canon_goTask (canon_mk h) (fun _ _ hs => hrun _ _ hs)
  · exact canon_goTask h (fun _ _ hs => hrun _ _ hs)
  · exact h

theorem canon_retireTask {core t} : Canon (retireTask s core t) :=
  canon_retireTaskNo (canon_mk h)

theorem canonOut_execMatrixTaskRetire {core task} : CanonOut (execMatrixTaskRetire core task s) := by
  unfold execMatrixTaskRetire
  dsimp only
  split
  · exact h
  · refine canon_ite h ?_
    refine canon_ite (canon_retireTask h) ?_
    split
    · exact canon_rowProbe h (by assumption)
    · exact canon_ite (canon_rowCharge h) (canon_ite (canon_mk (canon_rowWrite (canon_rowCharge h)))
        (canon_retireTask (canon_rowWrite (canon_rowCharge h))))

theorem canonOut_execTmaskPairWriteResume {gid} : CanonOut (execTmaskPairWriteResume gid s) := by
  unfold execTmaskPairWriteResume
  dsimp only
  split
  · exact h
  · split
    · exact h
    · exact canon_ite h (canon_mk (canon_mk h))

/-! ### Scalar instructions -/

theorem canon_scalarRR {d a b op} : Canon (scalarRR s d a b op) :=
  canon_scalarOp h

theorem canon_scalarRI {d a imm op} : Canon (scalarRI s d a imm op) :=
  canon_scalarOp h

/-! ### Scalar control -/

theorem canon_scalarMem {g x n} {k : State → Found → State} (hk : ∀ x y, Canon x → Canon (k x y)) :
    Canon (scalarMem s g x n k) := by
  fun_cases scalarMem
  · exact canon_trapScalar h
  · exact h
  · refine canon_probeG h (fun _ _ hs => ?_)
    split
    · exact hs
    · exact hk _ _ hs

theorem canon_scalarCharge {g r} : Canon (scalarCharge s g r).1 :=
  canon_ite_fst h (canon_ite_fst (memWf_atHome _ (canon_claim h)) (canon_claim h))

theorem canon_scalarReach {g r} : Canon (scalarReach s g r).1 := by
  unfold scalarReach
  extract_lets f s1 x s2
  have h1 : Canon s1 := canon_ite_fst (canon_flushPaid h) h
  have hx : Canon x.1 := canon_scalarCharge h1
  have h2 : Canon s2 := canon_prepare hx
  refine canon_ite_fst h1 (canon_ite_fst (canon_prepare h1) (canon_ite_fst ?_ hx))
  exact canon_ite (memWf_recallLine _ h2) h2

theorem canon_onFetched {g y} {k : State → Group → State} (hk : ∀ x y, Canon x → Canon (k x y)) :
    Canon (onFetched s g y k) :=
  canon_ite (hk _ _ (canon_stackFetch h)) (canon_stackFetch h)

theorem canon_stackLoad {g d y ord scope} : Canon (stackLoad s g d y ord scope) :=
  canon_ite h (canon_onFetched h (fun _ _ hs => canon_ite (canon_consume hs) (canon_scalarDoneElse hs (canon_ite hs
    (canon_acquireL1 hs)))))

theorem canon_stackStore {g v y ord scope} : Canon (stackStore s g v y ord scope) :=
  canon_ite h (canon_onFetched h (fun _ _ hs => canon_ite (canon_mk (canon_ite_fst hs (canon_releasePaid hs)))
    (canon_ite_fst hs (canon_releasePaid hs))))

theorem canon_loadNow {g d y ord scope} : Canon (loadNow s g d y ord scope) := by
  unfold loadNow
  extract_lets r rd s1 x v t
  have h1 : Canon s1 := canon_scalarReach h
  refine canon_ite h (canon_ite h1 (canon_ite (canon_consume h1) ?_))
  exact canon_scalarDoneElse h1 (canon_advanceStreams (canon_serveLoad h1))

theorem canonOut_execScLd {d a off ord scope} : CanonOut (execScLd d a off ord scope s) :=
  canon_scalarIssue h (fun _ => canon_scalarMem h (fun _ _ hs => canon_ite (canon_stackLoad hs) (canon_loadNow hs)))

theorem canonOut_execScSt {d a off ord scope} : CanonOut (execScSt d a off ord scope s) :=
  canon_scalarIssue h (fun _ => canon_scalarMem h (fun _ _ hs => canon_ite (canon_stackStore hs) (canon_ite hs
    (canon_advanceStreams (canon_pushReq (canon_mk hs))))))

theorem canon_atomRelease {g y scope} : Canon (atomRelease s g y scope).1 :=
  canon_flushPaid h

theorem canon_atomNow {g d b y aop scope} : Canon (atomNow s g d b y aop scope) := by
  unfold atomNow
  extract_lets data r spill rel rd s1 x v t
  have hrel : Canon rel.1 := canon_ite_fst (canon_atomRelease (canon_spillCharged h)) (canon_spillCharged h)
  have h1 : Canon s1 := canon_ite_fst (canon_scalarReach hrel) hrel
  refine canon_ite h (canon_ite h1 (canon_ite (canon_consume h1) ?_))
  exact canon_scalarDoneElse h1 (canon_advanceStreams (canon_serveAtom h1))

theorem canon_fetchFault {g va entry lane} : Canon (fetchFault s g va entry lane) :=
  canon_mk (canon_mk h)

theorem canon_codeFill {core line here} : Canon (codeFill s core line here) :=
  canon_codePut (canon_mk (memWf_mk h))

theorem canon_fetchAway {g pa lane} : Canon (fetchAway s g pa lane) :=
  canon_mk (canon_mk h)

theorem canonOut_execScLrun {cnt} : CanonOut (execScLrun cnt s) := by
  unfold execScLrun
  dsimp only
  refine canon_scalarIssue h (fun _ => ?_)
  split
  · exact h
  · refine canon_ite (canon_trapScalar h) ?_
    split
    · exact canon_mk h
    · exact canon_takeTrap h
    · exact canon_takeTrap h
    · exact canon_fetchAway h
    · exact canon_fetchFault h
    · exact canon_trapScalar h
    · exact h
    · exact canon_consume h
    · exact canon_ite h (canon_mk h)

theorem canon_prefetchCode {g va n} : Canon (prefetchCode s g va n) := by
  unfold prefetchCode
  refine canon_foldl (fun _ _ hs => ?_) h
  split
  · exact canon_ite (canon_codeFill hs) hs
  · exact hs

theorem canonOut_execScLset {off pf cnt} : CanonOut (execScLset off pf cnt s) := by
  unfold execScLset
  dsimp only
  refine canon_scalarIssue h (fun _ => ?_)
  split
  · exact h
  · exact canon_ite (canon_prefetchCode (canon_mk h)) (canon_mk h)

theorem canon_pushLaunch {g d} : Canon (pushLaunch s g d).1 :=
  canon_ite_fst h (canon_ite_fst h (canon_mk h))

theorem canon_pushHint {g d} : Canon (pushHint s g d).1 := by
  fun_cases pushHint
  · exact h
  · exact h
  · exact h
  · exact canon_mk h

theorem canon_pushTo {g q d} : Canon (pushTo s g q d).1 := by
  fun_cases pushTo
  · exact canon_pushMatrix h
  · exact canon_pushCopy h
  · exact canon_pushLaunch h
  · exact canon_pushHint h

theorem canonOut_execScPush {d a q} : CanonOut (execScPush d a q s) := by
  refine canon_scalarIssue h (fun g => canon_ite h ?_)
  extract_lets w r
  have hw : Canon w.1 := canon_ite_fst h (canon_releasePaid h)
  exact canon_ite hw (canon_scalarDoneElse hw (canon_pushTo hw))

theorem canonOut_execScFetch {d a} : CanonOut (execScFetch d a s) := by
  unfold execScFetch
  dsimp only
  refine canon_scalarIssue h (fun _ => ?_)
  split
  · exact canon_ite (canon_trapScalar h) (canon_ite (canon_trapScalar h) (canon_ite (canon_scalarDone h) (canon_ite
      (canon_scalarDone h) (canon_scalarDoneElse h (canon_mk (canon_spadWrite h))))))
  · exact h

theorem canon_verdict {origin code bad} : Canon (verdict s origin code bad) := by
  fun_cases verdict
  · exact h
  · exact canon_abortGrid h
  · exact canon_mk h

theorem canon_verdicts {g} : Canon (verdicts s g) :=
  canon_foldl (fun _ _ hs => canon_verdict hs) h

theorem canon_endGroup {g} : Canon (endGroup s g) := by
  fun_cases endGroup
  · exact canon_verdicts (canon_mk h)
  · exact canon_mk (canon_verdicts (canon_mk h))
  · exact canon_verdicts (canon_mk h)

theorem canonOut_execScExit : CanonOut (execScExit s) :=
  canon_scalarIssue h (fun _ => canon_ite h (canon_ite (canon_endGroup (canon_spillCharged h)) (canon_spillCharged
    h)))

theorem canonOut_execScCsrr {d num} : CanonOut (execScCsrr d num s) := by
  unfold execScCsrr
  dsimp only
  refine canon_scalarIssue h (fun _ => ?_)
  split
  · exact canon_trapScalar h
  · exact canon_ite (canon_ite (canon_trapScalar h) (canon_scalarDoneElse h (canon_mk h))) (canon_ite h
      (canon_scalarDone h))

theorem canon_csrPut {g n v} : Canon (csrPut s g n v) := by
  fun_cases csrPut
  · exact canon_mk h
  · exact canon_mk h
  · exact canon_mk h
  · exact canon_mk (canon_mk h)
  · exact canon_mk h
  · exact canon_mk h
  · exact canon_mk h
  · exact h

theorem canon_csrPutEngine {g n v} : Canon (csrPutEngine s g n v) :=
  canon_ite (canon_ite (canon_mk (canon_mk h)) (canon_mk (canon_mk (canon_mk h)))) (canon_mk (canon_mk (canon_mk h)))

theorem canonOut_execScCsrw {a num} : CanonOut (execScCsrw a num s) :=
  canon_scalarIssue h (fun _ => canon_ite (canon_trapScalar h) (canon_ite (canon_trapScalar h) (canon_ite
    (canon_trapScalar h) (canon_ite (canon_trapScalar h) (canon_ite (canon_csrPutEngine h) (canon_csrPut h))))))

theorem canonOut_execScalarFetchFault : CanonOut (execScalarFetchFault s) := by
  unfold execScalarFetchFault
  refine canon_onG h (fun _ => ?_)
  split
  · exact canon_fetchFault h
  · exact h

theorem canon_doReturn {g k w} : Canon (doReturn s g k w) := by
  fun_cases doReturn
  · exact canon_trapScalar h
  · exact canon_trapScalar h
  · exact canon_trapScalar h
  · exact canon_mk h

theorem canonOut_execScTrapReturn : CanonOut (execScTrapReturn s) := by
  refine canon_onG h (fun _ => canon_ite (canon_abortGrid h) (canon_ite h ?_))
  split
  · exact h
  · extract_lets w s1 x s2
    have h1 : Canon s1 := canon_flushPaid h
    have h2 : Canon s2 := canon_mk (memWf_mk h1)
    refine canon_ite h1 (canon_ite (canon_doReturn h2) ?_)
    split
    · exact canon_doReturn h2
    · exact canon_mk h2
    · exact canon_fetchAway h2
    · exact canon_fetchFault h2
    · exact canon_trapScalar h2
    · exact h2
    · exact canon_consume h2

/-! ### Traversal -/

theorem canon_holdProg {core asid addr} : Canon (holdProg s core asid addr) :=
  canon_ite (canon_mk h) (canon_mk h)

theorem canon_endRay {r status why} : Canon (endRay s r status why) := by
  unfold endRay
  dsimp only
  refine canon_mk ?_
  split
  · exact canon_mk h
  · exact canon_ite (memWf_sliceWrite _ _ (canon_mk h)) (canon_mk h)

theorem canon_endPoison {r core cause pa va} : Canon (endPoison s r core cause pa va) :=
  canon_endRay h

theorem canon_replayWrite {g off bs} : Canon (replayWrite s g off bs) :=
  canon_foldl (fun _ _ hs => memWf_sliceWrite _ _ hs) h

theorem canon_saveRay {r left} : Canon (saveRay s r left) := by
  fun_cases saveRay
  · exact canon_mk h
  · exact canon_replayWrite (canon_mk h)

theorem canon_startRays {g q f act ctx c} : Canon (startRays s g q f act ctx c) :=
  canon_foldl (fun _ _ hs => canon_ite (canon_endRay hs) (canon_ite (canon_endRay hs) hs)) (canon_mk
    (canon_enterPending h))

theorem canonOut_execTrace {f} : CanonOut (execTrace f s) := by
  refine canon_laneExec h (fun _ _ => ?_)
  split
  · exact canon_enterIdle h
  · refine canon_ite (canon_trapLane h) (canon_ite h ?_)
    refine canon_spilled h (fun _ _ hs => canon_probeG hs (fun _ _ hs => ?_))
    extract_lets rd
    have hrd : Canon rd.1 := canon_readWords hs
    refine canon_ite hrd (canon_ite (canon_consumeAt hrd) ?_)
    split
    · exact canon_ite (canon_startRays (canon_flushPaid hrd)) (canon_flushPaid hrd)
    · refine canon_probeG hrd (fun _ _ hs => ?_)
      extract_lets reads rd' w s1
      have h1 : Canon s1 := canon_ite_fst (canon_flushPaid (canon_readWords hs)) (canon_readWords hs)
      refine canon_ite h1 ?_
      split
      · exact canon_consumeAt h1
      · split
        · exact canon_startRays h1
        · exact canon_ite h1 (canon_startRays (canon_holdProg h1))

theorem canon_rayReport {r core ms} : Canon (rayReport s r core ms) :=
  canon_reportEach h

theorem canon_rangeReach {core asid who rs} : Canon (rangeReach s core asid who rs).1 := by
  fun_cases rangeReach
  · exact h
  · exact memWf_reachCore _ _ _ _ h

theorem canon_resumeStop {r core ms} : Canon (resumeStop s r core ms) := by
  fun_cases resumeStop
  · exact h
  · exact canon_endRay h
  · exact canon_endPoison h
  · exact canon_mk (canon_rayReport h)

theorem canon_resumeIn {r core} : Canon (resumeIn s r core) := by
  fun_cases resumeIn
  · exact canon_mk (canon_holdProg h)
  · exact canon_mk (canon_holdProg h)
  · exact canon_endRay (canon_mk h)

theorem canonOut_execRayResume {ray core} : CanonOut (execRayResume ray core s) := by
  unfold execRayResume
  dsimp only
  split
  · exact h
  · split
    · exact h
    · refine canon_ite h ?_
      refine canon_ite (canon_endRay h) ?_
      refine canon_ite h ?_
      split
      · exact canon_resumeStop h
      · refine canon_ite (canon_rangeReach h) ?_
        split
        · exact canon_endPoison (canon_rangeReach h)
        · exact canon_resumeIn (canon_rangeReach h)

theorem canon_onRay {f : Ray → ℕ → State} (hf : ∀ x y, Canon (f x y)) : Canon (onRay s f) := by
  fun_cases onRay
  · exact h
  · exact canon_endPoison h
  · exact hf _ _
  · exact h

theorem canon_stepEnd {r status} : Canon (stepEnd s r status) :=
  canon_endRay h

theorem canonOut_execRayStepBudgetExhausted {ray} : CanonOut (execRayStepBudgetExhausted ray s) := by
  unfold execRayStepBudgetExhausted
  split
  · exact h
  · split
    · exact canon_ite (canon_endRay h) h
    · exact h

theorem canon_ldnMiss {r core l idx ms} : Canon (ldnMiss s r core l idx ms) := by
  fun_cases ldnMiss
  · exact h
  · exact canon_endPoison h
  · exact canon_endRay (canon_saveRay h)
  · exact canon_foldl (fun _ _ hs => canon_ite hs (canon_mk hs)) (canon_rayReport (canon_saveRay h))

theorem canon_throughL1 {core line x} : Canon (throughL1 s core line x) :=
  canon_dependOn (canon_addSharer (canon_freshLine (canon_ite (memWf_recallLine _ h) h)))

theorem canon_ldnLoad {r core idx win lay fs n} : Canon (ldnLoad s r core idx win lay fs n) := by
  unfold ldnLoad
  extract_lets lines x s1
  have hx : Canon x.1 := by
    dsimp only [x]
    split
    · exact h
    · exact memWf_reachCore _ _ _ _ h
  have hs1 : Canon s1 := canon_foldl (fun _ _ hs => canon_throughL1 hs) hx
  refine canon_ite hx ?_
  split
  · exact canon_endPoison hs1
  · exact canon_mk hs1

theorem canonOut_execTrLdn {mi win lay} : CanonOut (execTrLdn mi win lay s) := by
  unfold execTrLdn
  dsimp only
  refine canon_onRay h (fun _ _ => ?_)
  split
  · exact canon_stepEnd h
  · refine canon_ite (canon_stepEnd h) ?_
    refine canon_ite (canon_stepEnd h) ?_
    split
    · exact canon_ldnLoad (canon_learnAll h)
    · exact canon_ldnMiss h

theorem canonOut_execTrBox {md} : CanonOut (execTrBox md s) := by
  unfold execTrBox
  dsimp only
  refine canon_onRay h (fun _ _ => ?_)
  refine canon_ite (canon_stepEnd h) ?_
  split
  · exact canon_stepEnd h
  · split
    · exact canon_stepEnd h
    · exact canon_mk h

theorem canonOut_execTrTri {cb mt off4 cf} : CanonOut (execTrTri cb mt off4 cf s) := by
  unfold execTrTri
  dsimp only
  refine canon_onRay h (fun _ _ => ?_)
  refine canon_ite (canon_stepEnd h) ?_
  split
  · exact canon_stepEnd h
  · split
    · exact canon_mk h
    · exact canon_mk h

theorem canonOut_execTrXfm {off16 back} : CanonOut (execTrXfm off16 back s) := by
  unfold execTrXfm
  dsimp only
  refine canon_onRay h (fun _ _ => ?_)
  refine canon_ite (canon_ite (canon_stepEnd h) (canon_ite (canon_mk h) (canon_mk h))) ?_
  refine canon_ite (canon_stepEnd h) ?_
  split
  · exact canon_stepEnd h
  · exact canon_ite (canon_stepEnd h) (canon_mk h)

theorem canonOut_execTrDec {md boff sz} : CanonOut (execTrDec md boff sz s) := by
  unfold execTrDec
  dsimp only
  refine canon_onRay h (fun _ _ => ?_)
  refine canon_ite (canon_stepEnd h) ?_
  split
  · exact canon_stepEnd h
  · exact canon_mk h

theorem canon_stackWrite {g r n} : Canon (stackWrite s g r n) :=
  canon_foldl (fun _ _ hs => memWf_sliceWrite _ _ hs) h

theorem canon_onStack {core r n reads} : Canon (onStack s core r n reads) := by
  fun_cases onStack
  · exact canon_mk h
  · exact canon_mk h
  · exact memWf_reachCore _ _ _ _ h
  · exact canon_endPoison (memWf_reachCore _ _ _ _ h)
  · exact canon_mk (canon_stackWrite (memWf_reachCore _ _ _ _ h))

theorem canonOut_execTrPop {mi mt cb cull} : CanonOut (execTrPop mi mt cb cull s) := by
  unfold execTrPop
  dsimp only
  refine canon_onRay h (fun _ _ => ?_)
  split
  · exact canon_onStack h
  · exact canon_onStack h

theorem canonOut_execTrSort {md mn} : CanonOut (execTrSort md mn s) := by
  unfold execTrSort
  dsimp only
  refine canon_onRay h (fun _ _ => ?_)
  refine canon_ite (canon_stepEnd h) ?_
  split
  · exact canon_stepEnd h
  · split
    · exact canon_stepEnd h
    · exact canon_onStack (canon_mk h)

theorem canonOut_execTrAlu {md ma mb fn} : CanonOut (execTrAlu md ma mb fn s) := by
  unfold execTrAlu
  refine canon_onRay h (fun _ _ => ?_)
  split
  · exact canon_mk h
  · exact canon_ite (canon_stepEnd h) (canon_mk h)

/-! ### Raster, sampler and merge -/

theorem canonOut_execRast {f} : CanonOut (execRast f s) := by
  unfold execRast
  dsimp only
  refine canon_laneExec h (fun _ _ => ?_)
  split
  · exact canon_enterIdle h
  · exact canon_enterPending h

theorem canon_sampSave {g m fva left} : Canon (sampSave s g m fva left) :=
  canon_mk (canon_replayWrite h)

theorem canon_sampTrap {g m code va} : Canon (sampTrap s g m code va) :=
  canon_trapLane h

theorem canon_sampStop {g m va ms} : Canon (sampStop s g m va ms) := by
  fun_cases sampStop
  · exact h
  · exact canon_consumeAt h
  · exact canon_sampTrap h
  · exact canon_reportEach (canon_sampSave h)

theorem canon_texRead {g m ps} : Canon (texRead s g m ps).1 := by
  unfold texRead
  extract_lets lines x
  have hx : Canon x.1 := by
    dsimp only [x]
    split
    · exact h
    · exact memWf_reachCore _ _ _ _ h
  exact canon_ite_fst hx (canon_foldl (fun _ _ hs => canon_throughL1 hs) hx)

theorem canon_sampPoison {g pa va} : Canon (sampPoison s g pa va) :=
  canon_consumeAt h

theorem canon_sampStep {g m} : Canon (sampStep s g m) := by
  fun_cases sampStep
  · exact canon_mk h
  · exact canon_mk h
  · exact canon_sampStop h
  · exact canon_texRead h
  · exact canon_sampPoison (canon_texRead h)
  · exact canon_mk (canon_learn (canon_texRead h))
  · exact canon_mk h

theorem canon_sampLoop {gid n1} : Canon (sampLoop s gid n1) := by
  fun_induction sampLoop
  · exact h
  · exact h
  · exact h
  · exact h
  · exact canon_sampPoison h
  · exact canon_mk h
  · exact canon_sampStep h
  next ih => exact ih (canon_sampStep h)

theorem canon_sampOp {i f gather} : Canon (sampOp s i f gather) := by
  refine canon_laneExec h (fun _ _ => ?_)
  split
  · exact canon_enterIdle h
  · refine canon_ite (canon_trapLane h) (canon_ite h ?_)
    refine canon_spilled h (fun _ _ hs => canon_probeG hs (fun _ _ hs => ?_))
    split
    · exact hs
    · extract_lets rd w s1
      have hrd : Canon rd.1 := canon_readWords hs
      have h1 : Canon s1 := canon_flushPaid hrd
      refine canon_ite hrd (canon_ite (canon_sampPoison hrd) (canon_ite h1 ?_))
      exact canon_sampLoop (canon_mk (canon_enterPending h1))

theorem canon_sampAgain {g m} : Canon (sampAgain s g m) := by
  fun_cases sampAgain
  · exact canon_sampStop h
  · exact canon_texRead h
  · exact canon_sampPoison (canon_texRead h)
  · exact canon_sampLoop (canon_mk (canon_texRead h))

theorem canonOut_execSamplerResume {gid} : CanonOut (execSamplerResume gid s) := by
  unfold execSamplerResume
  split
  · exact h
  · split
    · exact h
    · refine canon_ite h ?_
      split
      · exact canon_sampTrap h
      · exact canon_ite (canon_sampLoop h) (canon_ite (canon_sampPoison h) (canon_sampAgain h))

theorem canon_sendFrag {x} : Canon (sendFrag s x) :=
  canon_mk (canon_mk h)

theorem canon_countDrops {asid merge n} : Canon (countDrops s asid merge n) := by
  fun_cases countDrops
  · exact h
  · exact h
  · exact memWf_sliceWrite _ _ h

theorem canonOut_execOmrg {f seq close} : CanonOut (execOmrg f seq close s) := by
  unfold execOmrg
  dsimp only
  refine canon_laneExec h (fun _ _ => ?_)
  refine canon_ite (canon_mk h) ?_
  refine canon_ite (canon_trapLane h) ?_
  refine canon_ite h ?_
  refine canon_spilled h (fun _ _ hs => ?_)
  refine canon_probeG hs (fun _ _ hs => ?_)
  split
  · exact hs
  · refine canon_ite (canon_consume hs) ?_
    split
    · exact canon_readDesc hs
    · exact canon_ite (canon_foldl (fun _ _ hs => canon_sendFrag hs) (canon_countDrops (canon_mk (canon_readDesc
        hs)))) (canon_readDesc hs)

theorem canon_countDrop {f} : Canon (countDrop s f) :=
  canon_countDrops h

/-- The state that an attempt to apply a fragment leaves. -/
def Applied.state : Applied → State
  | .done t => t
  | .wait t _ => t

theorem canon_applyFrag {die f t} (e : (applyFrag s die f).state = t) : Canon t := by
  subst e
  have hr {pa} := memWf_reach (.frag f.id) clsDemand [pa / 64] h
  fun_cases applyFrag
  · exact canon_countDrop h
  · exact hr
  · exact canon_abortGrid (s := addFault ..) (canon_mk hr)
  · exact memWf_writeBy _ _ _ hr
  · exact canon_countDrop h
  · exact h
  · exact canon_abortGrid (s := addFault ..) (canon_mk h)
  · exact canon_report h

theorem canon_drainStream {die asid merge n} : Canon (drainStream s die asid merge n) := by
  induction n generalizing s with
  | zero => exact h
  | succ n ih =>
    unfold drainStream
    split
    · exact h
    · split
      · refine canon_ite h ?_
        split
        case h_1 t e =>
          have ht : Canon t := canon_applyFrag h (congrArg Applied.state e)
          split
          · exact ht
          · exact ih (canon_mk ht)
        case h_2 t left e =>
          have ht : Canon t := canon_applyFrag h (congrArg Applied.state e)
          exact canon_mk ht
      · exact canon_ite (ih (canon_mk h)) h

theorem canon_drainNow {die asid merge} : Canon (drainNow s die asid merge) := by
  fun_cases drainNow
  · exact h
  · exact canon_drainStream h

theorem canon_meetStream {die f} : Canon (meetStream s die f) :=
  canon_ite (canon_mk h) (canon_mk h)

theorem canon_arriveFrag {die f} : Canon (arriveFrag s die f) := by
  fun_cases arriveFrag
  · exact canon_meetStream h
  · exact canon_countDrop (canon_meetStream h)
  · exact canon_drainNow (canon_mk (canon_meetStream h))

theorem canon_arriveClose {die f} : Canon (arriveClose s die f) := by
  fun_cases arriveClose
  · exact canon_meetStream h
  · exact canon_meetStream h
  · exact canon_drainNow (canon_mk (canon_meetStream h))

theorem canonOut_execFragmentArrival {die id} : CanonOut (execFragmentArrival die id s) := by
  unfold execFragmentArrival
  dsimp only
  split
  · exact canon_ite (canon_arriveFrag h) h
  · split
    · exact canon_drainNow h
    · exact h

theorem canonOut_execStreamClose {die id} : CanonOut (execStreamClose die id s) := by
  unfold execStreamClose
  dsimp only
  split
  · exact canon_ite (canon_arriveClose h) h
  · exact h

/-! ### Pages and the Gleaner -/

theorem canon_codeCame {gid lane} : Canon (codeCame s gid lane) := by
  fun_cases codeCame
  · exact h
  · exact h
  · exact canon_codeFill h
  · exact h

theorem canon_fragGoes {die key} : Canon (fragGoes s die key) := by
  fun_cases fragGoes
  · exact canon_drainNow h
  · exact h

theorem canon_releaseWaiter {w} : Canon (releaseWaiter s w) := by
  fun_cases releaseWaiter
  · exact canon_mk h
  · exact canon_mk (canon_codeCame h)
  · exact canon_mk h
  · exact canon_mk h
  · exact canon_mk h
  · exact canon_mk h
  · exact canon_fragGoes (canon_mk h)
  · exact canon_mk h
  · exact canon_mk h
  · exact canon_mk h
  · exact canon_mk h
  · exact h

theorem canon_releasePage {page} : Canon (releasePage s page) :=
  canon_foldl (fun _ _ hs => canon_releaseWaiter hs) (canon_mk h)

theorem canon_takePage {page stamp pref} : Canon (takePage s page stamp pref) := by
  fun_cases takePage
  · exact canon_mk h
  · exact canon_mk (canon_ite h (canon_mk h))

theorem canonOut_execResidencyFault {id} : CanonOut (execResidencyFault id s) := by
  unfold execResidencyFault
  dsimp only
  split
  · exact h
  · exact canon_ite (canon_releaseWaiter (canon_mk h)) (canon_ite h (canon_takePage (canon_mk h)))

omit h in
theorem canon_hintPage {asid va} {x : State × List Nat} (hx : Canon x.1) : Canon (hintPage asid x va).1 := by
  fun_cases hintPage
  · exact hx
  · exact canon_takePage hx
  · exact hx
  · exact hx

theorem canonOut_execGleanerHint {id} : CanonOut (execGleanerHint id s) := by
  unfold execGleanerHint
  dsimp only
  split
  · exact h
  · exact canon_mk (canon_foldl_fst (fun _ _ hs => canon_hintPage hs) h)

theorem canon_giveFrame {j n} : Canon (giveFrame s j n) := by
  fun_cases giveFrame
  · exact canon_mk h
  · exact canon_mk (canon_mk (memWf_mk h))

theorem canon_chooseFrames {choice l t} (e : chooseFrames choice s l = some t) : Canon t := by
  induction l generalizing s with
  | nil => cases e; exact h
  | cons j r ih =>
    unfold chooseFrames at e
    split at e
    · exact ih (s := setJob s { j with stage := .frame }) h e
    · split at e
      · cases e
      · split at e
        · exact ih (canon_giveFrame h) e
        · cases e

theorem canonOut_execGleanerBatchClose {gleaner frames} : CanonOut (execGleanerBatchClose gleaner frames s) := by
  unfold execGleanerBatchClose
  refine canon_ite h ?_
  split
  · exact h
  · exact canon_mk (canon_chooseFrames h (by assumption))

theorem canonOut_execGleanerFrameEligible {gleaner page frame} :
    CanonOut (execGleanerFrameEligible gleaner page frame s) := by
  unfold execGleanerFrameEligible
  split
  · exact h
  · exact canon_ite (canon_giveFrame h) h

theorem canon_evictPage {page} : Canon (evictPage s page) :=
  canon_mk (memWf_mk (memWf_flushFrame _ (canon_mk (memWf_flushLlc _ (memWf_recallPage _ h)))))

theorem canonOut_execGleanerEvict {gleaner page} : CanonOut (execGleanerEvict gleaner page s) := by
  unfold execGleanerEvict
  dsimp only
  split
  · exact h
  · split
    · exact h
    · exact canon_ite h (canon_ite (canon_mk (canon_evictPage (canon_ite_fst h (canon_claim h)))) (canon_ite_fst h
        (canon_claim h)))

theorem canonOut_execGleanerFetch {gleaner page} : CanonOut (execGleanerFetch gleaner page s) := by
  unfold execGleanerFetch
  dsimp only
  split
  · exact h
  · exact canon_ite h (canon_ite (canon_mk (canon_claim h)) (canon_claim h))

theorem canonOut_execPageResident {gleaner page} : CanonOut (execPageResident gleaner page s) := by
  unfold execPageResident
  dsimp only
  split
  · exact h
  · exact canon_ite h (canon_releasePage (canon_mk (memWf_mk h)))

theorem canon_cleanLlcLine {line} : Canon (cleanLlcLine s line) := by
  obtain ⟨hpool, hloc, hllc⟩ := memWf_iff.1 h
  fun_cases cleanLlcLine
  · exact memWf_iff.2 ⟨hpool, rising_foldPut hloc, Cells.rising_filter _ hllc⟩
  · exact memWf_poolFold _ (memWf_iff.2 ⟨hpool, hloc, Cells.rising_filter _ hllc⟩)

theorem canonOut_execWinnowerClean {frame unit} : CanonOut (execWinnowerClean frame unit s) := by
  unfold execWinnowerClean
  dsimp only
  refine canon_ite ?_ (canon_ite (canon_ite (canon_cleanLlcLine (canon_claim h)) (canon_claim h)) (canon_mk h))
  split
  · exact h
  · exact canon_ite (canon_mk h) (canon_ite (memWf_flushFrame _ (canon_claim h)) (canon_claim h))

theorem canon_countFar {who line} : Canon (countFar s who line) :=
  canon_ite (canon_mk (memWf_mk (memWf_mk h))) (canon_mk (memWf_mk h))

theorem canonOut_execStackCacheFillSpill {gid row} : CanonOut (execStackCacheFillSpill gid row s) := by
  unfold execStackCacheFillSpill
  dsimp only
  split
  · exact h
  · exact canon_ite h (canon_ite (canon_stackFetch h) (canon_ite (canon_mk (canon_spillCharged h))
      (canon_spillCharged h)))

theorem canonOut_execCxlPortFailure {port} : CanonOut (execCxlPortFailure port s) :=
  canon_ite h (canon_mk (canon_foldl (fun _ _ hs => canon_foldl (fun _ _ hs => memWf_markPoison _ hs) hs) h))

/-! ### Issue -/

theorem canon_askAgain {old} : Canon (askAgain old s) := by
  fun_cases askAgain
  · exact h
  · exact canon_mk h

theorem canonOut_execLaneQueueEnqueue {gid} : CanonOut (execLaneQueueEnqueue gid s) := by
  unfold execLaneQueueEnqueue
  dsimp only
  split
  · exact h
  · split
    · exact h
    · exact canon_ite h (canon_mk h)

theorem canon_fillCode {g lane} : Canon (fillCode s g lane) := by
  unfold fillCode
  dsimp only
  refine canon_mk ?_
  split
  · exact canon_codeFill h
  · exact h

theorem canonOut_execIcacheFillReturn {gid lane} : CanonOut (execIcacheFillReturn gid lane s) := by
  unfold execIcacheFillReturn
  split
  · exact h
  · exact canon_ite h (canon_fillCode h)

theorem canon_sendProbe {g p} : Canon (sendProbe s g p) :=
  canon_ite h (canon_foldl (fun _ _ hs => canon_mk hs) h)

theorem canonOut_execWaitCycleProbe {gid} : CanonOut (execWaitCycleProbe gid s) := by
  unfold execWaitCycleProbe
  dsimp only
  split
  · exact h
  · exact canon_ite h (canon_sendProbe (canon_mk h))

theorem canon_waitCycle {g p} : Canon (waitCycle s g p) :=
  canon_takeTrap h

theorem canon_passProbe {g p} : Canon (passProbe s g p) :=
  canon_ite h (canon_sendProbe (canon_mk h))

theorem canonOut_execProbeForward {id} : CanonOut (execProbeForward id s) := by
  unfold execProbeForward
  dsimp only
  split
  · exact h
  · split
    · exact canon_mk h
    · exact canon_ite (canon_ite (canon_waitCycle (canon_mk h)) (canon_mk h)) (canon_passProbe (canon_mk h))

/-! ### Launch -/

theorem canon_kernelRead {asid addr die} : Canon (kernelRead s asid addr die) := by
  fun_cases kernelRead
  · exact canon_mk (memWf_mk (canon_walked h))
  · exact canon_mk (memWf_mk (canon_walked h))
  · exact canon_mk (canon_walked h)
  · exact canon_walked h

theorem canon_refuse {x id cause} : Canon (refuse s x id cause) :=
  canon_pushAdd (canon_mk h)

theorem canon_submit {x} : Canon (submit s x).1 := by
  unfold submit
  have hk : Canon (kernelRead { s with nextId := s.nextId + 1 } x.asid (lnKdesc x.rec') x.die) :=
    canon_kernelRead (canon_mk h)
  dsimp only
  split
  · exact canon_refuse hk
  · split
    · exact canon_refuse hk
    · exact canon_mk hk

theorem canonOut_execPendingLaunchDrain {gid} : CanonOut (execPendingLaunchDrain gid s) := by
  unfold execPendingLaunchDrain
  dsimp only
  split
  · exact h
  · exact canon_ite h (canon_submit (canon_mk h))

theorem canon_endAdd {a} : Canon (endAdd s a) := by
  fun_cases endAdd
  · exact canon_mk h
  · exact canon_gridComplete (canon_mk h)

theorem canon_pushCont {a v die} : Canon (pushCont s a v die) :=
  canon_ite (canon_mk h) h

theorem canon_addWritten {a} : Canon (addWritten s a) :=
  canon_ite (canon_mk h) (canon_endAdd h)

theorem canon_addAt {a pa} : Canon (addAt s a pa) :=
  canon_ite (memWf_reach _ _ _ h) (canon_addWritten (canon_pushCont (memWf_writeBy _ _ _ (memWf_reach _ _ _ h))))

theorem canon_schedReport {asid die va n hit w grid} : Canon (schedReport s asid die va n hit w grid) :=
  canon_report h

theorem canon_doAdd {id} : Canon (doAdd s id) := by
  fun_cases doAdd
  · exact h
  · exact canon_addWritten h
  · exact h
  · exact canon_endAdd h
  · exact canon_addAt (canon_learn h)
  · exact canon_endAdd (canon_mk h)
  · exact canon_endAdd h
  · exact h
  · exact canon_mk (canon_schedReport h)

theorem canon_submitCont {c r} : Canon (submitCont s c r) :=
  canon_ite (canon_submit h) (canon_ite (canon_pushAdd (canon_mk h)) (canon_mk h))

theorem canon_doCont {id} : Canon (doCont s id) := by
  fun_cases doCont
  · exact h
  · exact h
  · exact h
  · exact canon_submitCont (canon_mk (memWf_reach _ _ _ (canon_learn h)))
  · exact memWf_reach _ _ _ (canon_learn h)
  · exact canon_mk (canon_mk h)
  · exact canon_mk h
  · exact h
  · exact canon_mk (canon_schedReport h)

theorem canon_beginSlice {before q level} : Canon (beginSlice before s q level) := canon_mk h

omit h in
theorem canon_placedQueue {q} {s' : State} (hs' : Canon s') : Canon (placedQueue s s' q) := by
  fun_cases placedQueue
  · exact hs'
  · exact canon_mk (canon_ite hs' (canon_beginSlice hs'))

omit h in
theorem memWf_zeroPage {m : Mem} {page} (hm : memWf m = true) : memWf (zeroPage m page) = true := by
  obtain ⟨hpool, hloc, hllc⟩ := memWf_iff.1 hm
  exact memWf_iff.2 ⟨Cells.wf_filter _ hpool, Cells.rising_filter _ hloc, Cells.rising_filter _ hllc⟩

theorem canon_armBarriers {r} : Canon (armBarriers s r) :=
  canon_ite h (canon_mk h)

theorem canon_placeCrew {r c p} : Canon (placeCrew s r c p) :=
  canon_placedQueue (canon_armBarriers (canon_mk (memWf_foldl (fun _ _ hm => memWf_zeroPage hm) h)))

theorem canonOut_execCrewPlace {grid p} : CanonOut (execCrewPlace grid p s) := by
  unfold execCrewPlace
  split
  · exact h
  · split
    · exact h
    · exact canon_ite h (canon_placeCrew h)

theorem canonOut_execHandlerGroupLaunch {die grid} : CanonOut (execHandlerGroupLaunch die grid s) := by
  unfold execHandlerGroupLaunch
  dsimp only
  split
  · refine canon_ite h ?_
    split
    · exact canon_abortGrid (canon_kernelRead (canon_mk h))
    · exact canon_ite (canon_abortGrid (canon_kernelRead (canon_mk h))) (canon_mk (canon_kernelRead (canon_mk h)))
  · exact h

theorem canonOut_execSowerDeliver {die} : CanonOut (execSowerDeliver die s) := by
  unfold execSowerDeliver
  dsimp only
  split
  · exact h
  · split
    · split
      · exact canon_spadWrite (canon_mk h)
      · exact canon_spadWrite (canon_mk (canon_mk h))
    · exact h

theorem canon_crewHome {c} : Canon (crewHome s c).1 :=
  canon_ite_fst (canon_drainStash (canon_flushPaid h)) (canon_flushPaid h)

theorem canon_settleCrew {c} : Canon (settleCrew s c) :=
  canon_foldl (fun _ _ hs => canon_dropStream hs) h

theorem canon_gridExits {r die} : Canon (gridExits s r die) :=
  canon_pushAdd (canon_mk (canon_mk (canon_ite (canon_packetDone (canon_mk h)) (canon_mk h))))

theorem canonOut_execCrewExitComplete {grid crew} : CanonOut (execCrewExitComplete grid crew s) := by
  unfold execCrewExitComplete
  dsimp only
  split
  · exact canon_ite h (canon_ite (canon_crewHome h) (canon_ite (canon_gridExits (canon_removeCrew (canon_settleCrew
      (canon_crewHome h)))) (canon_mk (canon_removeCrew (canon_settleCrew (canon_crewHome h))))))
  · exact h

/-! ### Pre-emption -/

theorem canon_abortPaired {core} : Canon (abortPaired s core) :=
  canon_ite (canon_mk (canon_mk h)) (canon_mk h)

theorem canon_abortHalf {c} : Canon (abortHalf s c) :=
  canon_ite (canon_abortPaired h) h

theorem canon_flushCrew {r c} : Canon (flushCrew s r c) :=
  canon_mk (canon_removeCrew (canon_foldl (fun _ _ hs => canon_mk hs) (canon_abortHalf h)))

theorem canon_startSave {c} : Canon (startSave s c) :=
  canon_mk (canon_abortHalf h)

theorem canon_preempt {d c} : Canon (preempt s d c) := by
  fun_cases preempt
  · exact h
  · exact canon_mk h
  · exact canon_flushCrew h
  · exact canon_startSave h

theorem canon_flushedHome {l} : Canon (flushedHome s l).1 := by
  fun_induction flushedHome
  · exact h
  next ih => exact ih (canon_ite_fst (canon_drainStash h) h)
  · exact canon_ite_fst (canon_drainStash h) h

theorem canonOut_execTimeSliceExpiry {queue} : CanonOut (execTimeSliceExpiry queue s) := by
  unfold execTimeSliceExpiry
  dsimp only
  split
  · exact h
  · exact canon_ite h (canon_ite (canon_flushedHome h) (canon_mk (canon_foldl (fun _ _ hs => canon_preempt hs)
      (canon_flushedHome h))))

theorem canonOut_execDrainTimeout {grid crew} : CanonOut (execDrainTimeout grid crew s) := by
  unfold execDrainTimeout
  split
  · exact h
  · split
    · exact canon_ite h (canon_startSave h)
    · exact h

theorem canon_saveRasts {g} : Canon (saveRasts s g) :=
  canon_foldl (fun _ _ hs => canon_mk hs) h

theorem canon_saveSamp {g} : Canon (saveSamp s g) := by
  fun_cases saveSamp
  · exact h
  · exact canon_sampSave h
  · exact h

theorem canon_saveRays {g} : Canon (saveRays s g) :=
  canon_foldl (fun _ _ hs => canon_saveRay hs) h

theorem canon_saveGroup {gid} : Canon (saveGroup s gid) :=
  canon_mk (canon_saveRays (canon_saveSamp (canon_saveRasts h)))

theorem canon_crewSpill {c} : Canon (crewSpill s c).1 := by
  unfold crewSpill
  refine canon_foldl_fst (fun _ _ hs => ?_) h
  split
  · exact canon_spillCharged hs
  · exact hs

theorem canon_saveCrew {c} : Canon (saveCrew s c) :=
  canon_mk (canon_mk (canon_leaveSubs (canon_mk (canon_settleCrew (canon_foldl (fun _ _ hs => canon_saveGroup hs)
    h)))))

theorem canonOut_execCrewSave {grid crew} : CanonOut (execCrewSave grid crew s) := by
  unfold execCrewSave
  split
  · exact h
  · split
    · exact canon_trapG h
    · refine canon_ite ?_ h
      extract_lets x y
      have hy : Canon y.1 := canon_ite_fst (canon_crewSpill (canon_crewHome h)) (canon_crewHome h)
      exact canon_ite (canon_saveCrew (canon_mk (memWf_mk hy))) hy

theorem canon_homeHeld {core l} : Canon (homeHeld s core l).1 := by
  fun_induction homeHeld
  · exact h
  next ih => exact ih h
  next ih => exact ih (canon_flushSi (memWf_reachCore _ _ _ _ h))
  · exact memWf_reachCore _ _ _ _ h

theorem canon_resubL1 {c b o} : Canon (resubL1 s c b o) := by
  fun_cases resubL1
  · exact h
  · exact canon_mk h
  · exact h
  · exact canon_mk (canon_mk (memWf_mk h))

theorem canon_resubStash {c b slot} : Canon (resubStash s c b slot) := by
  fun_cases resubStash
  · exact canon_mk h
  · exact h
  · exact canon_mk h

theorem canon_resubscribe {c b} : Canon (resubscribe s c b) := by
  fun_cases resubscribe
  · exact canon_resubL1 h
  · exact h
  · exact h
  · exact canon_resubStash h

theorem canon_restoreCrew {v p} : Canon (restoreCrew s v p) := by
  unfold restoreCrew
  dsimp only
  refine canon_foldl (fun _ _ hs => canon_resubscribe hs) ?_
  split
  · exact canon_mk (canon_freshCore h)
  · exact canon_mk (canon_freshCore h)

theorem canonOut_execCrewRestore {grid crew p} : CanonOut (execCrewRestore grid crew p s) := by
  unfold execCrewRestore
  dsimp only
  split
  · exact canon_ite h (canon_ite (canon_placedQueue (canon_restoreCrew (canon_homeHeld h))) (canon_homeHeld h))
  · exact h

theorem canonOut_execPriorityAging {queue} : CanonOut (execPriorityAging queue s) := by
  unfold execPriorityAging
  split
  · exact h
  · exact canon_ite h (canon_mk h)

theorem canon_quarantine {page} : Canon (quarantine s page) :=
  canon_ite h (canon_ite (canon_mk h) (canon_mk (memWf_mk h)))

theorem canon_killSpace {asid} : Canon (killSpace s asid) :=
  canon_mk (canon_foldl (fun _ _ hs => canon_endSub hs) (canon_foldl (fun _ _ hs => canon_removeCrew hs) h))

theorem canon_teardown {asid} : Canon (teardown s asid) :=
  canon_mk (canon_foldl (fun _ _ hs => canon_quarantine hs) (canon_killSpace h))

theorem canon_poisonEngine {core place} : Canon (poisonEngine s core place) := by
  fun_cases poisonEngine
  · exact h
  · exact canon_mk h
  · exact canon_mk h
  · exact h
  · exact canon_mk h

theorem canon_sharedError {core} : Canon (sharedError s core) := by
  fun_cases sharedError
  · exact h
  · exact canon_consumeAll h

theorem canon_poisonRow {gid row} : Canon (poisonRow s gid row) :=
  canon_mk (canon_mk h)

theorem canonOut_execSoftError {target} : CanonOut (execSoftError target s) := by
  unfold execSoftError
  split
  · exact memWf_markPoison _ h
  · exact canon_mk h
  · exact canon_poisonRow h
  · exact canon_poisonEngine h
  · exact canon_sharedError h
  · exact canon_teardown h
  · exact canon_foldl (fun _ _ hs => canon_teardown hs) h

/-! ### Power and reset -/

theorem canon_resetPackage : Canon (resetPackage s) :=
  memWf_iff.2 ⟨(memWf_iff.1 h).1, rfl, rfl⟩

theorem canonOut_execPackageReset {umap frames body sig} : CanonOut (execPackageReset umap frames body sig s) :=
  canon_ite (canon_mk (canon_resetPackage h)) (canon_ite (canon_mk (canon_resetPackage h)) (canon_mk
    (canon_resetPackage h)))

omit h in
theorem memWf_scrub {m : Mem} {pa n} (hm : memWf m = true) : memWf (scrub m pa n) = true := hm

theorem canon_podReach {who pa lines} : Canon (podReach s who pa lines).1 := by
  have hw := memWf_recallsPaid (.pod who pa) lines h
  refine canon_ite_fst hw (canon_ite_fst ?_ (canon_claim hw))
  exact canon_foldl (fun _ _ hs => canon_countFar (memWf_touchSector _ (canon_useHome hs))) (canon_claim hw)

theorem canon_outWrite {who pa bs} : Canon (outWrite s who pa bs) :=
  canon_ite h (canon_ite (canon_ite (canon_mk (memWf_scrub (memWf_writeBy _ _ _ (canon_podReach h))))
    (canon_podReach h)) (canon_mk (memWf_scrub (memWf_poolPuts _ _ (canon_foldl (fun _ _ hs => canon_countFar
    (canon_snooped hs)) h)))))

theorem canon_outRead {who pa} : Canon (outRead s who pa) :=
  canon_ite h (canon_ite (canon_ite (memWf_cleanLine _ (canon_podReach h)) (canon_podReach h)) (canon_countFar
    (canon_snooped h)))

/-! ### Host queues and commands -/

theorem canon_badPacket {q} : Canon (badPacket s q) :=
  canon_ite (canon_mk h) (memWf_devWrite _ _ (canon_mk h))

theorem canon_onPacket {queue kind} {k : State → HostQueue → BitVec 1024 → State}
    (hk : ∀ s q p, Canon s → Canon (k s q p)) : Canon (onPacket s queue kind k) := by
  unfold onPacket
  split
  · exact h
  case h_2 q _ =>
    have hn : Canon (noteReads s (packetLines q)) := canon_mk h
    exact canon_ite h (canon_ite (canon_mk hn) (canon_ite hn (canon_ite (canon_badPacket hn) (canon_ite hn (hk _ _ _
      hn)))))

theorem canon_packetProbe {q onStep els} {k : State → List Found → State} (hk : ∀ x y, Canon x → Canon (k x y)) :
    Canon (packetProbe s q onStep els k) := by
  fun_cases packetProbe
  · exact hk _ _ (canon_learnAll h)
  · exact h
  · exact canon_badPacket (canon_mk (canon_reportEach h))
  · exact canon_badPacket h
  · exact canon_mk (canon_reportEach h)

theorem canon_vaWrite {w asid va bs} : Canon (vaWrite s w asid va bs) := by
  unfold vaWrite
  dsimp only
  split
  · split
    · exact canon_foldl (fun _ _ hs => memWf_deviceAt _ hs) h
    · exact memWf_writeBy _ _ _ (canon_foldl (fun _ _ hs => memWf_deviceAt _ hs) h)
  · refine memWf_writeBy _ _ _ ?_
    split
    · exact canon_foldl (fun _ _ hs => memWf_deviceAt _ hs) h
    · exact memWf_writeBy _ _ _ (canon_foldl (fun _ _ hs => memWf_deviceAt _ hs) h)

theorem canon_sentDone {queue} : Canon (sentDone s queue) := by
  fun_cases sentDone
  · exact h
  · exact canon_packetDone h
  · exact h

theorem canon_packetWrite {q va bs} : Canon (packetWrite s q va bs) :=
  canon_ite (canon_vaWrite (canon_mk h)) h

theorem canonOut_execPacketSignal {queue} : CanonOut (execPacketSignal queue s) :=
  canon_sentDone (canon_onPacket h (fun _ _ _ hs => canon_packetProbe hs (fun _ _ hs => canon_packetWrite hs)))

theorem canon_trySignal {queue} : Canon (trySignal s queue) := by
  fun_cases trySignal
  · exact h
  · exact canon_sentDone h
  · exact h
  · exact canon_packetProbe h (fun _ _ hs => canon_sentDone (canon_packetWrite hs))

theorem canonOut_execWritesignal {queue} : CanonOut (execWritesignal queue s) :=
  canon_trySignal (canon_onPacket h (fun _ _ _ hs => canon_packetProbe hs (fun _ _ hs => canon_packetWrite hs)))

theorem canon_tryWaittl {queue} : Canon (tryWaittl s queue) := by
  fun_cases tryWaittl
  · exact h
  · exact h
  · exact h
  · exact canon_packetProbe h (fun _ _ hs => canon_ite hs (canon_ite (canon_packetDone (canon_mk (memWf_mk hs)))
      (canon_mk (memWf_mk hs))))

theorem canonOut_execDoorbell {queue} : CanonOut (execDoorbell queue s) := by
  unfold execDoorbell
  split
  · exact h
  · exact canon_mk h

theorem canon_runQcreate : Canon (runQcreate s) := by
  fun_cases runQcreate
  · exact canon_mk h
  · exact canon_mk (canon_mk (memWf_mk h))
  · exact canon_mk (memWf_devWrite _ _ (canon_mk (canon_mk (memWf_mk h))))

theorem canon_runQdestroy : Canon (runQdestroy s) := by
  fun_cases runQdestroy
  · exact canon_mk h
  · exact canon_mk (memWf_devWrite _ _ (canon_mk h))

theorem canon_runShootdown : Canon (runShootdown s) :=
  canon_ite (canon_mk h) (canon_mk (canon_foldl (fun _ _ hs => canon_mk hs) (canon_mk (memWf_mk (canon_foldl (fun _
    _ hs => canon_endSubs hs) (canon_mk (canon_mk h)))))))

theorem canonOut_execShootdownComplete {id} : CanonOut (execShootdownComplete id s) := by
  unfold execShootdownComplete
  dsimp only
  split
  · exact h
  · exact canon_ite h (canon_mk (canon_mk h))

theorem canon_answerTrapTo {f w} : Canon (answerTrapTo s f w) := by
  fun_cases answerTrapTo
  · exact canon_releaseWaiter (canon_mk h)
  · exact canon_releaseWaiter (canon_mk h)
  · exact canon_endCopy h
  · exact h
  · exact canon_releaseWaiter (canon_mk h)
  · exact canon_releaseWaiter (canon_mk h)
  · exact canon_releaseWaiter (canon_mk h)
  · exact canon_releaseWaiter (canon_mk h)
  · exact canon_endAdd h
  · exact h
  · exact canon_badPacket h
  · exact h
  · exact canon_mk h
  · exact canon_releaseWaiter h
  · exact h

theorem canon_answerEnd {f w} : Canon (answerEnd s f w) := by
  fun_cases answerEnd
  · exact canon_answerTrapTo h
  · exact canon_answerTrapTo h
  · exact canon_abortGrid h

theorem canon_runFaultans : Canon (runFaultans s) := by
  fun_cases runFaultans
  · exact canon_mk h
  · exact canon_mk h
  · exact canon_mk (canon_mk h)
  · exact canon_releaseWaiter (canon_mk (canon_mk h))
  · exact canon_answerTrapTo (canon_mk (canon_mk h))
  · exact canon_answerEnd (canon_mk (canon_mk h))

theorem canon_runUpdate : Canon (runUpdate s) :=
  canon_ite (canon_mk h) (canon_ite (canon_mk (canon_mk (memWf_mk h))) (canon_ite (canon_mk (canon_mk (memWf_mk h)))
    (canon_ite (canon_mk (canon_mk (memWf_mk h))) (canon_mk (canon_mk (memWf_mk h))))))

theorem canonOut_execLiveUpdateSwitch : CanonOut (execLiveUpdateSwitch s) := by
  unfold execLiveUpdateSwitch
  dsimp only
  split
  · exact h
  · exact canon_ite h (canon_ite (canon_mk h) (canon_mk h))

theorem canon_runAttest : Canon (runAttest s) :=
  canon_mk (memWf_devWrite _ _ (canon_mk (memWf_mk h)))

theorem canon_runPodjoin : Canon (runPodjoin s) :=
  canon_ite (canon_mk h) (canon_mk h)

theorem canon_runCommand : Canon (runCommand s) := by
  fun_cases runCommand
  · exact canon_runQcreate h
  · exact canon_runQdestroy h
  · exact canon_runShootdown h
  · exact canon_runFaultans h
  · exact canon_runUpdate h
  · exact canon_runAttest h
  · exact canon_runPodjoin h
  · exact h

theorem canon_goCommand : Canon (goCommand s) :=
  canon_ite h (canon_ite (canon_mk h) (canon_ite (canon_runCommand h) (canon_mk h)))

theorem canon_resumeCommand : Canon (resumeCommand s) := by
  fun_cases resumeCommand
  · exact h
  · exact canon_mk (canon_runCommand (canon_mk h))
  · exact h

theorem canon_command {code} : Canon (command s code) :=
  canon_ite (canon_goCommand h) h

theorem canon_writeFqhead {v} : Canon (writeFqhead s v) :=
  canon_flushFaults (canon_mk h)

theorem canonOut_execRegisterWrite {off value} : CanonOut (execRegisterWrite off value s) := by
  unfold execRegisterWrite
  dsimp only
  refine canon_ite ?_ (canon_ite (canon_mk h) (canon_ite (canon_mk h) (canon_ite (canon_writeFqhead h) (canon_ite
    (canon_ite h (canon_mk h)) (canon_ite (canon_ite h (canon_mk h)) (canon_ite (canon_mk h) (canon_ite
    (canon_goCommand h) h)))))))
  split
  · exact h
  · exact canon_mk h

/-! ### Turns -/

theorem canon_waitTurn {n} : Canon (waitTurn s n) :=
  canon_ite h (canon_flushFaults (canon_mk h))

theorem canon_takeTurn : Canon (takeTurn s).2 := by
  fun_cases takeTurn <;> exact h

theorem canon_settle {old} : Canon (settle old s) :=
  canon_mk (canon_askAgain (memWf_countReads (canon_wakeAll (canon_settleCopies (canon_settleAllFences
    (canon_resumeCommand (memWf_sendOutbox (memWf_payOwed h))))))))

/-! ### Every instruction and event, and every turn -/

theorem canonOut_exec {i} : CanonOut (exec i s) := by
  cases i with
  | packageReset => exact canonOut_execPackageReset h
  | podTimeAligned => exact canon_ite h (canon_ite (canon_flushFaults (canon_mk h)) (canon_ite (canon_mk h) h))
  | governorPeriodBoundary | dieEnergyExhausted | powerLimitExceeded | firmwareFailover | schedulerFailover |
      podLinkReroute | deviceBiasSet =>
    exact canon_ite h (canon_mk h)
  | governedRequestAdmit => exact canonOut_execGovernedRequestAdmit h
  | groupBind => exact canon_foldl (fun _ _ hs => canon_mk hs) h
  | laneQueueEnqueue => exact canonOut_execLaneQueueEnqueue h
  | resultReturn => exact canonOut_execResultReturn h
  | icacheFillReturn => exact canonOut_execIcacheFillReturn h
  | waitCycleProbe => exact canonOut_execWaitCycleProbe h
  | probeForward => exact canonOut_execProbeForward h
  | crewPlace => exact canonOut_execCrewPlace h
  | pendingLaunchDrain => exact canonOut_execPendingLaunchDrain h
  | crewExitComplete => exact canonOut_execCrewExitComplete h
  | sowerDeliver => exact canonOut_execSowerDeliver h
  | memoryRequestAtHome => exact canonOut_execMemoryRequestAtHome h
  | lineRecall => exact canonOut_execLineRecall h
  | requestReturn => exact canonOut_execRequestReturn h
  | accessCounterHalve => exact canon_ite (canon_mk (memWf_settlePosted (memWf_mk h))) h
  | stackCacheFillSpill => exact canonOut_execStackCacheFillSpill h
  | winnowerClean => exact canonOut_execWinnowerClean h
  | precisionMessageQuad => exact canonOut_execPrecisionMessageQuad h
  | precisionMessageCore => exact canonOut_execPrecisionMessageCore h
  | copyTransferStep => exact canonOut_execCopyTransferStep h
  | copyRetire => exact canonOut_execCopyRetire h
  | copyCmdCopy => exact canonOut_execCopyCmdCopy h
  | copyCmdFill => exact canonOut_execCopyCmdFill h
  | copyCmdSignal => exact canonOut_execCopyCmdSignal h
  | tryWaitHintExpiry => exact canonOut_execTryWaitHintExpiry h
  | gleanerHint => exact canonOut_execGleanerHint h
  | tload | tstore => exact canon_taskStep h (fun _ _ hs => canon_runMem hs)
  | tmma | thad | tzero | tcvt | tjoin => exact canon_taskStep h (fun _ _ hs => canon_runOn hs)
  | matrixTaskRetire => exact canonOut_execMatrixTaskRetire h
  | tmaskPairWriteResume => exact canonOut_execTmaskPairWriteResume h
  | rayResume => exact canonOut_execRayResume h
  | rayStepBudgetExhausted => exact canonOut_execRayStepBudgetExhausted h
  | fragmentArrival => exact canonOut_execFragmentArrival h
  | streamClose => exact canonOut_execStreamClose h
  | samplerResume => exact canonOut_execSamplerResume h
  | residencyFault => exact canonOut_execResidencyFault h
  | gleanerBatchClose => exact canonOut_execGleanerBatchClose h
  | gleanerFrameEligible => exact canonOut_execGleanerFrameEligible h
  | gleanerEvict => exact canonOut_execGleanerEvict h
  | gleanerFetch => exact canonOut_execGleanerFetch h
  | pageResident => exact canonOut_execPageResident h
  | handlerGroupLaunch => exact canonOut_execHandlerGroupLaunch h
  | timeSliceExpiry => exact canonOut_execTimeSliceExpiry h
  | drainTimeout => exact canonOut_execDrainTimeout h
  | crewSave => exact canonOut_execCrewSave h
  | crewRestore => exact canonOut_execCrewRestore h
  | softError => exact canonOut_execSoftError h
  | doorbell => exact canonOut_execDoorbell h
  | fqheadWrite => exact canon_writeFqhead h
  | registerWrite => exact canonOut_execRegisterWrite h
  | qcreate | qdestroy | shootdown | faultans | update | attest | podjoin => exact canon_command h
  | shootdownComplete => exact canonOut_execShootdownComplete h
  | liveUpdateSwitch => exact canonOut_execLiveUpdateSwitch h
  | packetDispatch | packetPersist =>
    exact canon_onPacket h (fun _ _ _ hs => canon_ite hs (canon_submit (canon_mk hs)))
  | packetCopy => exact canon_onPacket h (fun _ _ _ hs => canon_mk (canon_mk hs))
  | packetSignal => exact canonOut_execPacketSignal h
  | writesignal => exact canonOut_execWritesignal h
  | waittl => exact canon_tryWaittl (canon_onPacket h (fun _ _ _ hs => canon_mk hs))
  | packetNop => exact canon_onPacket h (fun _ _ _ hs => canon_bumpQueue (canon_mk hs))
  | priorityAging => exact canonOut_execPriorityAging h
  | hostSnoop => exact canon_ite (canon_snooped h) h
  | backInvalidateSnoop => exact canon_ite h (canon_snooped h)
  | cxlPortFailure => exact canonOut_execCxlPortFailure h
  | iadd | isub | imul | imulh | imad | imin | imax | iabs => exact canon_laneInt h
  | iaddx | ckacc => exact canon_laneExec h (fun _ _ => canon_lanePass h)
  | idp4 | bperm | icmp | sel | mov | pack | unpk => exact canon_laneRow h
  | lop3 | shl | shr | sra | fshl | fshr | brev | popc | clz | bfe | bfi => exact canon_laneBits h
  | fcmp | movi | cvt | sreg | fdot2 | xget | xbcast | xscan | xvote => exact canon_laneOp h
  | fadd | fsub | fmul | ffma | fmin | fmax | frnd => exact canon_laneFp h
  | frcpe | frsqe | fex2 | flg2 | fsin | fcos => exact canon_laneEst h
  | mmac => exact canonOut_execMmac h
  | xput => exact canon_laneExec h (fun _ _ => canon_mk (canon_ite (canon_cleanRows h) h))
  | xred => exact canonOut_execXred h
  | ld | st => exact canon_laneExec h (fun _ _ => canon_laneGlobal h)
  | lds | sts => exact canon_laneExec h (fun _ _ => canon_laneSpad h)
  | atom | red => exact canon_laneExec h (fun _ _ => canon_ite (canon_laneSpad h) (canon_laneGlobal h))
  | pref => exact canonOut_execPref h
  | sdesc => exact canonOut_execSdesc h
  | subp => exact canonOut_execSubp h
  | unsp => exact canonOut_execUnsp h
  | upgp => exact canonOut_execUpgp h
  | cinv | cwb | cdisc => exact canon_laneExec h (fun _ _ => canon_cacheOp h)
  | fence => exact canonOut_execFence h
  | bara => exact canonOut_execBara h
  | barw => exact canonOut_execBarw h
  | bartw => exact canonOut_execBartw h
  | qpush => exact canonOut_execQpush h
  | qpop => exact canonOut_execQpop h
  | twait => exact canonOut_execTwait h
  | waitt => exact canonOut_execWaitt h
  | rast => exact canonOut_execRast h
  | samp | sampg => exact canon_sampOp h
  | trace => exact canonOut_execTrace h
  | omrg => exact canonOut_execOmrg h
  | cktest | trapl => exact canon_laneExec h (fun _ _ => canon_ite (canon_mk h) (canon_laneCondition h))
  | idem | nop => exact canon_laneExec h (fun _ _ => canon_mk h)
  | scAdd | scSub | scMul | scMulh | scDiv | scRem | scAnd | scOr | scXor | scShl | scShr | scSra | scSet =>
    exact canon_scalarRR h
  | scAddImm | scSubImm | scMulImm | scMulhImm | scDivImm | scRemImm | scAndImm | scOrImm | scXorImm | scShlImm |
      scShrImm | scSraImm =>
    exact canon_scalarRI h
  | scBitc | scSel | scMov | scLimm => exact canon_scalarOp h
  | scBr => exact canon_scalarIssue h (fun _ => canon_ite (canon_mk h) (canon_mk h))
  | scJmp | scCall | scRet | scYield | scNop => exact canon_scalarIssue h (fun _ => canon_mk h)
  | scLd => exact canonOut_execScLd h
  | scSt => exact canonOut_execScSt h
  | scAtom => exact canon_scalarIssue h (fun _ => canon_scalarMem h (fun _ _ hs => canon_atomNow hs))
  | scFence => exact canon_scalarIssue h (fun _ => canon_ite (canon_mk (canon_flushPaid h)) (canon_flushPaid h))
  | scLrun => exact canonOut_execScLrun h
  | scLset => exact canonOut_execScLset h
  | scLwait => exact canon_scalarIssue h (fun _ => canon_ite (canon_mk h) h)
  | scPush => exact canonOut_execScPush h
  | scFetch => exact canonOut_execScFetch h
  | scExit => exact canonOut_execScExit h
  | scCsrr => exact canonOut_execScCsrr h
  | scCsrw => exact canonOut_execScCsrw h
  | scTrap => exact canon_scalarIssue h (fun _ => canon_trapScalar h)
  | scTrapReturn => exact canonOut_execScTrapReturn h
  | trLdn => exact canonOut_execTrLdn h
  | trBox => exact canonOut_execTrBox h
  | trTri => exact canonOut_execTrTri h
  | trXfm => exact canonOut_execTrXfm h
  | trDec => exact canonOut_execTrDec h
  | trPush => exact canon_onRay h (fun _ _ => canon_onStack h)
  | trPop => exact canonOut_execTrPop h
  | trSort => exact canonOut_execTrSort h
  | trHit => exact canon_onRay h (fun _ _ => canon_ite (canon_stepEnd h) (canon_mk h))
  | trAny => exact canon_onRay h (fun _ _ => canon_ite (canon_stepEnd h) (canon_stepEnd h))
  | trBr => exact canon_onRay h (fun _ _ => canon_ite (canon_mk h) (canon_mk h))
  | trJmp | trLdi | trBnd => exact canon_onRay h (fun _ _ => canon_mk h)
  | trAlu => exact canonOut_execTrAlu h
  | trEnd => exact canon_onRay h (fun _ _ => canon_stepEnd h)
  | rootPointerInstall => exact canon_mk h
  | illegalScalarWord => exact canon_onG h (fun _ => canon_ite (canon_trapScalar h) h)
  | undefinedMicroOpcode => exact canon_onRay h (fun _ _ => canon_ite (canon_stepEnd h) h)
  | scalarFetchFault => exact canonOut_execScalarFetchFault h

theorem canonMove_scalarTurn {gid} : CanonMove (scalarTurn s gid) := by
  unfold scalarTurn
  split
  · exact h
  case h_2 g _ =>
    refine canonMove_ite h ?_
    extract_lets s1 g1 s2
    have h1 : Canon s1 := canon_mk h
    have h2 : Canon s2 := canon_learn h1
    split
    · exact canon_trapScalar h1
    · split
      · split
        · exact h2
        · exact h2
      · exact canon_mk h1
      · exact canon_fetchAway h1
      · exact h1
      · exact canon_trapScalar h1
      · exact h1
      · exact canon_consume h1

theorem canonMove_laneTurn {gid} : CanonMove (laneTurn s gid) := by
  unfold laneTurn
  split
  · exact h
  · refine canonMove_ite h ?_
    extract_lets s1 g1
    have h1 : Canon s1 := canon_mk h
    split
    · exact h1
    · split
      · exact canon_trapLane h1
      · split
        · exact h1
        · exact h1

theorem canonMove_microTurn {ray} : CanonMove (microTurn s ray) := by
  unfold microTurn
  split
  · exact h
  · split
    · refine canonMove_ite h (canonMove_ite h ?_)
      extract_lets w
      split
      · exact canon_mk h
      · exact canon_mk h
    · exact h

theorem canonMove_move {t} : CanonMove (move s t) := by
  cases t with
  | scalar gid => exact canonMove_scalarTurn h
  | lane gid => exact canonMove_laneTurn h
  | micro ray => exact canonMove_microTurn h
  | event i => exact h
  | wait n => exact canon_waitTurn h
  | codeDrop quad line => exact canon_mk (memWf_mk h)
  | codeArrive quad line => exact canon_mk (memWf_mk h)
  | inval id => exact canon_invalArrives h
  | tlbDrop asid vpage => exact canon_mk h
  | evict core line => exact canon_evictPaid h
  | sectorEvict page => exact canon_sectorPaid h
  | add id => exact canon_doAdd h
  | cont id => exact canon_doCont h
  | link n down => exact canon_mk h
  | policy drain restart => exact canon_mk h
  | outWrite who pa bytes => exact canonMove_ite trivial (canon_outWrite h)
  | outRead who pa => exact canonMove_ite trivial (canon_outRead h)

end

theorem canonOut_settled {s : State} {o} (ho : CanonOut o) : CanonOut (settled s o) := by
  cases o with
  | next t => exact canon_settle ho
  | fault r => trivial
  | refused r => trivial

theorem canonOut_step {s : State} (h : Canon s) : CanonOut (step s) := by
  have hm := canonMove_move (t := (takeTurn s).1) (canon_takeTurn h)
  unfold step
  split
  case h_1 t e => rw [e] at hm; exact canon_settle hm
  case h_2 i t e => rw [e] at hm; exact canonOut_settled (canonOut_exec hm)
  case h_3 => trivial

/-- Settles O7: every operation that a step is made of keeps the canonical form. -/
theorem stepKeepsMemoryCanonical : Obligations.StepKeepsMemoryCanonical := by
  intro s t h e
  have hs := canonOut_step h
  rw [e] at hs
  exact hs

end Sys2Proof.Machine
end

section
/-! PROOF. SC.LD: what the probe of one address answers, and the two ways in which the load is then made. -/

namespace Sys2Proof.Machine

/-! ## The probe of one address -/

/-- One address has no stale translation that another of the same access could disagree with. -/
theorem oneXlate_single (s : State) (asid va : Nat) : oneXlate s asid [va] = s := by
  simp [oneXlate, List.eraseDups_cons]

theorem probeG_single {s : State} {g : Group} {n : Need} {x pa pte : Nat} (hl : look s g.asid x n = .ok pa pte)
    (isLane : Bool) (thr : Nat) (k : State → List Found → State) :
    probeG s g isLane (asking n [(thr, x)]) k =
      k (learnAll s g.asid (asking n [(thr, x)])) [{ thr := thr, va := x, pa := pa, ok := pteOk pte }] := by
  have hone : oneXlate s g.asid ((asking n [(thr, x)]).map (·.va)) = s := oneXlate_single s g.asid x
  have hmiss : misses s g.asid (asking n [(thr, x)]) = [] := by simp [misses, asking, hl]
  have hfound : founds s g.asid (asking n [(thr, x)]) = [{ thr := thr, va := x, pa := pa, ok := pteOk pte }] := by
    simp [founds, asking, hl]
  simp only [probeG, hone, hmiss, hfound]

/-! ## A scalar access of one aligned address -/

theorem scalarMem_found {s : State} {g : Group} {x : Dword} {n : Need} {pa pte : Nat} (ha : x.toNat % 8 = 0)
    (hf : fenced s g true = false) (hl : look s g.asid x.toNat n = .ok pa pte) (k : State → Found → State) :
    scalarMem s g x n k =
      k (learnAll s g.asid (asking n [(0, x.toNat)])) { thr := 0, va := x.toNat, pa := pa, ok := pteOk pte } := by
  simp [scalarMem, ha, hf, probeG_single hl]

theorem onFetched_done {s s2 : State} {g : Group} {y : Found} (hs : stackFetch s g (scalarWho g) [y.va] = (s2, true))
    (k : State → Group → State) : onFetched s g y k = k s2 ((findGroup s2.groups g.gid).getD g) := by
  simp [onFetched, hs]

/-- A load of the group's own stack, once its row has been fetched and no byte that it reads is poisoned (R119). -/
theorem stackLoad_done {s s2 : State} {g : Group} {d : SReg} {y : Found} {ord : MOrd} {scope : Scope}
    (hb : stackBusy s g y false scope = false) (hs : stackFetch s g (scalarWho g) [y.va] = (s2, true))
    (hp : stackPoison s2 ((findGroup s2.groups g.gid).getD g) y.va y.pa 8 = false) :
    stackLoad s g d y ord scope =
      let g2 := (findGroup s2.groups g.gid).getD g
      scalarDoneElse s2 (if ord = .plain then s2 else acquireL1 s2 g2.gid g2.core scope) (slowed g2) d
        (dw (stackNat s2 g2 y.va y.pa 8)) := by
  simp [stackLoad, hb, onFetched_done hs, hp]

theorem ownMsg_false {s : State} {core line asid vline : Nat}
    (h : ∀ m ∈ s.coh.msgs, m.core = core → m.about line asid vline = false) : ownMsg s core line asid vline = false := by
  simpa [ownMsg] using h

/-- A load of what the core sees, once its home has been reached and no byte that it reads is poisoned (R9, R404). -/
theorem loadNow_done {s s2 : State} {g : Group} {d : SReg} {y : Found} {ord : MOrd} {scope : Scope}
    (hf : scalarFree s g y = true)
    (hm : ∀ m ∈ s.coh.msgs, m.core = g.core → m.about (y.pa / 64) g.asid (y.va / 64) = false)
    (hr : scalarReach s g (scalarReq s g y .load ord scope .add 0 0) = (s2, true)) (hp : poisoned s2 y.pa 8 = false) :
    loadNow s g d y ord scope =
      let out := serveLoad s2 (scalarReq s g y .load ord scope .add 0 0)
      let t := advanceStreams out.1 g.core g.asid [y]
      scalarDoneElse s2 t (slowed ((findGroup t.groups g.gid).getD g)) d (dw ((out.2.map Prod.snd).headD 0)) := by
  have ho : ownMsg s g.core (scalarReq s g y .load ord scope .add 0 0).line g.asid (y.va / 64) = false :=
    ownMsg_false hm
  simp only [loadNow, hf, ho, hr, hp, Bool.not_true, Bool.or_false, Bool.false_eq_true, if_false]

/-- SC.LD of an aligned address whose page the probe passes goes to the stack cache or to memory. -/
theorem exec_scLd_found {s : State} {g : Group} {d a : SReg} {off : BitVec 8} {ord : MOrd} {scope : Scope} {pa pte : Nat}
    (hg : ScalarReady s g [a, d]) (ha : (scalarAddr g a off).toNat % 8 = 0) (hf : fenced s g true = false)
    (hl : look s g.asid (scalarAddr g a off).toNat needLoad = .ok pa pte) :
    exec (.scLd d a off ord scope) s =
      let x := (scalarAddr g a off).toNat
      let s1 := learnAll s g.asid (asking needLoad [(0, x)])
      let y : Found := { thr := 0, va := x, pa := pa, ok := pteOk pte }
      .next (if stackServes g x then stackLoad s1 g d y ord scope else loadNow s1 g d y ord scope) := by
  obtain ⟨hc, hr⟩ := hg
  change execScLd d a off ord scope s = _
  rw [execScLd, scalarIssue_go hc (scalarHazard_none.2 hr), scalarMem_found ha hf hl]

/-- Settles O14: the probe passes the address on, and each way of making the load completes. -/
theorem scalarLoad : Obligations.ScalarLoad := by
  intro s s2 g d a off ord scope pa pte x s1 y r g2 out t hg ha hf hl
  have hload : exec (.scLd d a off ord scope) s =
      .next (if stackServes g x then stackLoad s1 g d y ord scope else loadNow s1 g d y ord scope) :=
    exec_scLd_found hg ha hf hl
  rw [hload]
  refine ⟨fun hstk hb hs hp => ?_, fun hstk hfree hm hr hp => ?_⟩
  · rw [if_pos hstk, stackLoad_done hb hs hp]; rfl
  · rw [if_neg (Bool.eq_false_iff.1 hstk), loadNow_done hfree hm hr hp]; rfl

end Sys2Proof.Machine
end

section
/-! PROOF. A store that is performed is read back: what its steps leave of the dirty copies of other holders, the one line
that it writes, and what the coherent value of a byte is before and after. -/

namespace Sys2Proof.Machine

/-! ## Bytes put one after another -/

theorem getD_leBytes {n : Nat} (x : Nat) {k : Nat} (hk : k < n) :
    (leBytes n x).getD k 0 = BitVec.ofNat 8 (x / 256 ^ k) := by
  induction n generalizing x k with
  | zero => omega
  | succ n ih =>
    cases k with
    | zero => simp [leBytes]
    | succ k => rw [leBytes, List.getD_cons_succ, ih _ (by omega), Nat.div_div_eq_div_mul, pow_succ']

/-- What a list of cells holds once bytes have been put in it one after another. -/
theorem find_putBytes (c : Cells Byte) (pa n : Nat) (bs : List Byte) (a : Nat) :
    Cells.find ((bs.zipIdx n).foldl (fun c b => Cells.put c (pa + b.2) b.1) c) a =
      if pa + n ≤ a ∧ a < pa + n + bs.length then some (bs.getD (a - (pa + n)) 0) else c.find a := by
  induction bs generalizing c n with
  | nil => simp
  | cons b r ih =>
    rw [List.zipIdx_cons, List.foldl_cons, ih, List.length_cons]
    by_cases h0 : a = pa + n
    · subst h0
      simp
    · rw [Cells.find_put_ne _ _ h0]
      by_cases h1 : pa + (n + 1) ≤ a ∧ a < pa + (n + 1) + r.length
      · rw [if_pos h1, if_pos (by omega), show a - (pa + n) = (a - (pa + (n + 1))) + 1 by omega, List.getD_cons_succ]
      · rw [if_neg h1, if_neg (by omega)]

/-! ## The lines of the L1s across operations on memory -/

theorem homePuts_l1 (m : Mem) (pa : Nat) (bs : List Byte) : (homePuts m pa bs).l1 = m.l1 := by
  induction bs generalizing m pa with
  | nil => rfl
  | cons b r ih => exact ih _ _

theorem mergeHome_l1 (m : Mem) (c : Cells Byte) : (mergeHome m c).l1 = m.l1 :=
  foldl_keeps (p := fun t : Mem => t.l1 = m.l1) (f := fun m (e : Nat × Byte) => homePut m e.1 e.2)
    (fun _ _ ht => ht) c rfl

theorem poolFold_l1 (m : Mem) (c : Cells Byte) : (c.foldl (fun m e => poolPut m e.1 e.2) m).l1 = m.l1 :=
  foldl_keeps (p := fun t : Mem => t.l1 = m.l1) (f := fun m (e : Nat × Byte) => poolPut m e.1 e.2)
    (fun _ _ ht => ht) c rfl

theorem lineToPool_l1 (m : Mem) (line : Nat) : (lineToPool m line).l1 = m.l1 := by
  simp only [lineToPool, poolFold_l1]

theorem sendHome_l1 (s : State) (line : Nat) : (sendHome s line).mem.l1 = s.mem.l1 := by
  unfold sendHome
  split
  · exact lineToPool_l1 _ _
  · rfl

theorem sendHome_crews (s : State) (line : Nat) : (sendHome s line).crews = s.crews := by
  unfold sendHome
  split <;> rfl

theorem sendHome_coh (s : State) (line : Nat) : (sendHome s line).coh = s.coh := by
  unfold sendHome
  split <;> rfl

theorem putStash_l1 (s : State) (m : Mem) (core sl pl : Nat) : (putStash s m core sl pl).l1 = m.l1 := by
  unfold putStash setMark
  dsimp only
  exact mergeHome_l1 m _

theorem recallStash_l1 (s : State) (line : Nat) (drop : Bool) : (recallStash s line drop).mem.l1 = s.mem.l1 := by
  unfold recallStash
  dsimp only
  exact foldl_keeps (p := fun t : Mem => t.l1 = s.mem.l1) (f := fun m (d : Nat × Nat) => putStash s m d.1 d.2 line)
    (fun _ _ ht => (putStash_l1 _ _ _ _ _).trans ht) (stashDirty s line) rfl

theorem flushLlc_l1 (s : State) (page : Nat) : (flushLlc s page).mem.l1 = s.mem.l1 := by
  unfold flushLlc
  dsimp only
  split
  · rfl
  · exact poolFold_l1 _ _

theorem flushLlc_coh (s : State) (page : Nat) : (flushLlc s page).coh = s.coh := by
  unfold flushLlc
  dsimp only
  split <;> rfl

/-! ## No object, and owned lines that hold only their own bytes -/

/-- No tile object is live, and every owned line holds only bytes of its own line. -/
structure Homed (s : State) : Prop where
  objs : s.coh.objs = []
  lines : ∀ l ∈ s.mem.l1, l.kind = .owned → ∀ e ∈ l.bytes, e.1 / 64 = l.line

section
variable {s : State}

/-- It is enough that no owned line is new. -/
theorem Homed.of_owned {t : State} (h : Homed s) (ho : t.coh.objs = s.coh.objs)
    (hl : ∀ l ∈ t.mem.l1, l.kind = .owned → l ∈ s.mem.l1) : Homed t :=
  ⟨ho.trans h.objs, fun l hm hk => h.lines l (hl l hm hk) hk⟩

theorem Homed.of_eq {t : State} (h : Homed s) (ho : t.coh.objs = s.coh.objs) (hl : t.mem.l1 = s.mem.l1) : Homed t :=
  h.of_owned ho fun _ hm _ => hl ▸ hm

theorem homed_foldl {β : Type} {f : State → β → State} {l : List β} (hf : ∀ s b, Homed s → Homed (f s b))
    (h : Homed s) : Homed (l.foldl f s) :=
  foldl_keeps (p := Homed) hf l h

theorem homed_sendHome {line : Nat} (h : Homed s) : Homed (sendHome s line) :=
  h.of_eq (by rw [sendHome_coh]) (sendHome_l1 s line)

/-- A recall adds no line to any L1. -/
theorem recallL1_sub {m : Mem} {line : Nat} {keep : L1Line → Bool} {l : L1Line} (hm : l ∈ (recallL1 m line keep).l1) :
    l ∈ m.l1 :=
  (List.mem_filter.1 hm).1

theorem homed_recallLine {line : Nat} (h : Homed s) : Homed (recallLine s line) :=
  homed_sendHome (h.of_owned rfl fun _ hm _ => recallStash_l1 s line true ▸ recallL1_sub hm)

theorem homed_evictSector {page : Nat} (h : Homed s) : Homed (evictSector s page) := by
  have hr : Homed (recallPage s page) := homed_foldl (fun _ _ hs => homed_recallLine hs) h
  have hf : Homed (flushLlc (recallPage s page) page) :=
    hr.of_eq (congrArg Coh.objs (flushLlc_coh _ _)) (flushLlc_l1 _ _)
  unfold evictSector sectorLoses
  generalize flushLlc (recallPage s page) page = s' at hf
  dsimp only
  exact ⟨hf.objs, hf.lines⟩

theorem homed_sectorRoom {page : Nat} (h : Homed s) : Homed (sectorRoom s page) := by
  unfold sectorRoom
  dsimp only
  split
  · exact h
  · exact homed_evictSector (h.of_eq rfl rfl)

theorem homed_touchSector {line : Nat} (h : Homed s) : Homed (touchSector s line) := by
  unfold touchSector
  dsimp only
  split_ifs
  · exact h
  · exact h.of_eq rfl rfl
  · exact (homed_sectorRoom h).of_eq rfl rfl

theorem homed_atSlice {line : Nat} (h : Homed s) : Homed (atSlice s line) := by
  have hu : Homed (useHome s line) := by
    refine h.of_eq ?_ (congrArg Mem.l1 (useHome_mem s line))
    unfold useHome
    split <;> rfl
  have ht : Homed (touchSector (useHome s line) line) := homed_touchSector hu
  unfold atSlice countOwn
  dsimp only
  split
  · exact ht
  · exact ht.of_eq rfl rfl

theorem homed_recallLate {w : Writer} {line : Nat} (h : Homed s) : Homed (recallLate s w line) := by
  refine h.of_owned rfl fun l hm hk => ?_
  obtain ⟨x, hx, rfl⟩ := List.mem_map.1 hm
  split at hk
  · cases hk
  · rename_i hn
    rw [if_neg hn]
    exact recallStash_l1 s line true ▸ recallL1_sub hx

theorem homed_recallBy {w : Writer} {line : Nat} (h : Homed s) : Homed (recallBy s w line) := by
  unfold recallBy
  split
  · exact homed_recallLate h
  · exact h.of_owned rfl fun _ hm _ => recallStash_l1 s line true ▸ recallL1_sub hm

theorem homed_homeStore {w : Writer} {pa : Nat} {bs : List Byte} (h : Homed s) : Homed (homeStore s w pa bs) :=
  homed_sendHome ((homed_foldl (fun _ _ hs => homed_recallBy (homed_touchSector hs)) h).of_eq rfl (homePuts_l1 _ _ _))

/-- With no object, a write touches no element. -/
theorem elemsOf_noObjs {via : Option (Nat × Nat)} {pa n : Nat} (h : s.coh.objs = []) : elemsOf s via pa n = [] := by
  have hat : elemsAt s pa n = [] := by simp [elemsAt, h]
  cases via with
  | none => exact hat
  | some v => simp [elemsOf, hat, elemsTouched, objAt, h]

/-- With no object, a write sends no message. -/
theorem writeLine_noObjs {w : Writer} {pa : Nat} {bs : List Byte} (h : s.coh.objs = []) :
    writeLine s w pa bs = homeStore s w pa bs := by
  unfold writeLine
  dsimp only
  rw [elemsOf_noObjs h]

theorem homed_writeLines {w : Writer} {pa fuel : Nat} {bs : List Byte} (h : Homed s) :
    Homed (writeLines s w pa bs fuel) := by
  induction fuel generalizing s w pa bs with
  | zero => cases bs <;> exact h
  | succ n ih =>
    cases bs with
    | nil => exact h
    | cons b r =>
      refine ih ?_
      rw [writeLine_noObjs h.objs]
      exact homed_homeStore h

/-- Merging a buffer into copies leaves an owned line as it is. -/
theorem mergeCopy_owned {mine : List L1Line} {l : L1Line} (hk : (mergeCopy mine l).kind = .owned) :
    mergeCopy mine l = l := by
  unfold mergeCopy at hk ⊢
  split
  · split
    · simp_all
    · rfl
  · rfl

theorem homed_flushSi {gid core : Nat} {line : Option Nat} (h : Homed s) : Homed (flushSi s gid core line) := by
  unfold flushSi
  dsimp only
  split
  · exact h
  · refine homed_foldl (fun _ _ hs => homed_writeLines hs) (h.of_owned rfl fun l hm hk => ?_)
    obtain ⟨x, hx, rfl⟩ := List.mem_map.1 hm
    rw [mergeCopy_owned hk]
    exact (List.mem_filter.1 hx).1

theorem homed_serveRelease {r : Req} (h : Homed s) : Homed (serveRelease s r) := by
  unfold serveRelease
  split_ifs
  · exact (homed_flushSi h).of_eq rfl rfl
  · exact homed_flushSi h
  · exact h

theorem dropOld_frame (s : State) (core : Nat) (ms : List Msg) :
    (dropOld s core ms).mem = s.mem ∧ (dropOld s core ms).coh.objs = s.coh.objs := by
  unfold dropOld
  split <;> exact ⟨rfl, rfl⟩

theorem freshImages_frame (s : State) (core line : Nat) :
    (freshImages s core line).mem = s.mem ∧ (freshImages s core line).coh.objs = s.coh.objs := by
  unfold freshImages
  split
  · exact ⟨rfl, rfl⟩
  · exact dropOld_frame _ _ _

theorem homed_freshLine {core line : Nat} (h : Homed s) : Homed (freshLine s core line) := by
  obtain ⟨hmem, hobjs⟩ := freshImages_frame s core line
  exact h.of_owned hobjs fun l hm _ => hmem ▸ (List.mem_filter.1 hm).1

theorem homed_overwrite {core line : Nat} {ps : List Part} (h : Homed s) : Homed (overwrite s core line ps) := by
  refine ⟨h.objs, fun l hm hk e he => ?_⟩
  obtain ⟨x, hx, rfl⟩ := List.mem_map.1 (List.mem_filter.1 hm).1
  by_cases hc : x.core = core ∧ x.line = line ∧ x.buffered
  · rw [if_pos hc] at hk he ⊢
    exact h.lines x hx hk e (List.mem_filter.1 he).1
  · rw [if_neg hc] at hk he ⊢
    exact h.lines x hx hk e he

theorem homed_prepare {r : Req} (hr : r.kind = .store) (h : Homed s) : Homed (prepare s r) := by
  unfold prepare
  rw [hr]
  dsimp only
  split
  · exact h
  · exact homed_freshLine (homed_overwrite h)

end

/-! ## A byte with no dirty copy reads as its home gives it -/

/-- A list of cells that all belong to one line holds no byte of another. -/
theorem find_other_line {c : Cells Byte} {line a : Nat} (h : ∀ e ∈ c, e.1 / 64 = line) (ha : a / 64 ≠ line) :
    c.find a = none := by
  induction c with
  | nil => rfl
  | cons e r ih =>
    have hne : a ≠ e.1 := fun he => ha (he ▸ h e List.mem_cons_self)
    rw [Cells.find, if_neg hne, ih fun x hx => h x (List.mem_cons_of_mem _ hx)]

theorem ownedByte_none {ls : List L1Line} {a : Nat} (h : ∀ l ∈ ls, l.kind = .owned → l.bytes.find a = none) :
    ownedByte ls a = none := by
  induction ls with
  | nil => rfl
  | cons l r ih =>
    have hr : ownedByte r a = none := ih fun x hx => h x (List.mem_cons_of_mem _ hx)
    rw [ownedByte, hr]
    split
    · rename_i hk
      rw [h l List.mem_cons_self hk]
    · rfl

/-- No stash entry in the format of memory has been filled from the line. -/
def StashFree (s : State) (line : Nat) : Prop :=
  ∀ c ∈ s.crews, ∀ e ∈ c.stash, e.sfmt = 0 → ∀ f ∈ e.filled, f.2 ≠ line

theorem stashByte_none {s : State} {a : Nat} (h : StashFree s (a / 64)) : stashByte s a = none := by
  unfold stashByte
  dsimp only
  rw [Option.map_eq_none_iff, List.findSome?_eq_none_iff]
  intro c hc
  rw [List.findSome?_eq_none_iff]
  intro e he
  split
  · rename_i hf
    rw [List.findSome?_eq_none_iff]
    exact fun f hm => if_neg fun hx => h c hc e he hf f hm hx.1
  · rfl

theorem cohByte_of_home {s : State} {a : Nat} (ho : ownedByte s.mem.l1 a = none) (hs : StashFree s (a / 64)) :
    cohByte s a = homeByte s.mem a := by
  unfold cohByte
  rw [ho, stashByte_none hs]

/-! ## A recall leaves no dirty copy of its line -/

theorem stashFree_recallStash (s : State) (line : Nat) : StashFree (recallStash s line true) line := by
  intro c hc e he hf f hm
  obtain ⟨c0, -, rfl⟩ := List.mem_map.1 hc
  obtain ⟨e0, -, rfl⟩ := List.mem_map.1 he
  split at hm
  · simpa using (List.mem_filter.1 hm).2
  · rename_i hn
    rw [if_neg hn] at hf
    exact absurd hf hn

theorem stashFree_recallBy (s : State) (w : Writer) (line : Nat) : StashFree (recallBy s w line) line := by
  unfold recallBy
  split
  · exact stashFree_recallStash s line
  · exact stashFree_recallStash s line

/-- No owned line of the line that is recalled stays. -/
theorem recallL1_owned {m : Mem} {line : Nat} {keep : L1Line → Bool} {l : L1Line} (hm : l ∈ (recallL1 m line keep).l1)
    (hk : l.kind = .owned) : l.line ≠ line := by
  have h := (List.mem_filter.1 hm).2
  simpa [hk] using h

theorem recallBy_owned {s : State} {w : Writer} {line : Nat} {l : L1Line} (hm : l ∈ (recallBy s w line).mem.l1)
    (hk : l.kind = .owned) : l.line ≠ line := by
  unfold recallBy at hm
  split at hm
  · obtain ⟨x, hx, rfl⟩ := List.mem_map.1 hm
    split at hk
    · cases hk
    · rename_i hn
      rw [if_neg hn]
      exact recallL1_owned hx hk
  · exact recallL1_owned hm hk

/-! ## A store within one line -/

theorem linesOf_one {pa n : Nat} (hn : n ≠ 0) (h1 : pa % 64 + n ≤ 64) : linesOf pa n = [pa / 64] := by
  have hlast : (pa + n - 1) / 64 = pa / 64 := by omega
  have hsome : ∀ i, (if n ≠ 0 ∧ pa / 64 + i ≤ pa / 64 then some (pa / 64 + i) else none) =
      if i = 0 then some (pa / 64) else none := by
    intro i
    by_cases hi : i = 0
    · simp [hi, hn]
    · rw [if_neg (by omega), if_neg hi]
  unfold linesOf
  simp only [hlast, hsome]
  rw [show n / 64 + 2 = (n / 64 + 1) + 1 by omega, List.range_succ_eq_map, List.filterMap_cons, List.filterMap_map]
  simp

/-- With no object, bytes within one line are written by one store at its home. -/
theorem writeBy_one {s : State} {w : Writer} {pa : Nat} {bs : List Byte} (ho : s.coh.objs = []) (hb : bs ≠ [])
    (h1 : pa % 64 + bs.length ≤ 64) : writeBy s w pa bs = homeStore s w pa bs := by
  have htake : bs.take (64 - pa % 64) = bs := List.take_of_length_le (by omega)
  have hdrop : bs.drop (64 - pa % 64) = [] := List.drop_eq_nil_of_le (by omega)
  unfold writeBy
  cases bs with
  | nil => exact absurd rfl hb
  | cons b r =>
    rw [writeLines, htake, hdrop, writeLine_noObjs ho]
    · cases (b :: r).length / 64 + 1 <;> rfl
    · exact hb

/-- What the store at a home leaves, before its line goes on to the pool. -/
def storedHome (s : State) (w : Writer) (pa : Nat) (bs : List Byte) : State :=
  let t := recallBy (touchSector s (pa / 64)) w (pa / 64)
  { t with mem := homePuts t.mem pa bs }

theorem homeStore_one {s : State} {w : Writer} {pa : Nat} {bs : List Byte} (hb : bs ≠ [])
    (h1 : pa % 64 + bs.length ≤ 64) : homeStore s w pa bs = sendHome (storedHome s w pa bs) (pa / 64) := by
  unfold homeStore
  rw [linesOf_one (by simpa using hb) h1]
  rfl

/-- A byte of the line that a store at its home writes is read at that home. -/
theorem cohByte_homeStore {s : State} {w : Writer} {pa : Nat} {bs : List Byte} (hs : Homed s)
    (hw : memWf s.mem = true) (hb : bs ≠ []) (h1 : pa % 64 + bs.length ≤ 64) {k : Nat} (hk : k < bs.length) :
    cohByte (homeStore s w pa bs) (pa + k) = bs.getD k 0 := by
  have hline : (pa + k) / 64 = pa / 64 := by omega
  have hr : Homed (recallBy (touchSector s (pa / 64)) w (pa / 64)) := homed_recallBy (homed_touchSector hs)
  have hwf : memWf (storedHome s w pa bs).mem = true :=
    memWf_homePuts _ _ (memWf_recallBy _ _ (memWf_touchSector _ hw))
  rw [homeStore_one hb h1, cohByte_of_home, homeByte_sendHome _ hwf]
  · rw [storedHome, homeByte_homePuts, if_pos (by omega), Nat.add_sub_cancel_left]
  · rw [sendHome_l1, storedHome, homePuts_l1]
    exact ownedByte_none fun l hm hk =>
      find_other_line (hr.lines l hm hk) (hline ▸ (recallBy_owned hm hk).symm)
  · unfold StashFree
    rw [sendHome_crews, hline]
    exact stashFree_recallBy _ _ _

/-! ## A store that takes the line -/

/-- A writer that takes a line has put away its own copies of it, and the line has been recalled from the others. -/
def taken (s : State) (w : Writer) (holder line : Nat) : State :=
  recallBy { s with mem := { s.mem with
    l1 := s.mem.l1.filter fun l => !(l.core == holder && l.line == line && l.kind != .si)
    invals := s.mem.invals.filter fun i => !(i.core == holder && i.line == line) } } w line

/-- Its L1 then holds an owned line of the bytes that it held owned and, over them, those that it writes. -/
theorem ownWrite_l1 (s : State) (w : Writer) (holder line pa : Nat) (bs : List Byte) :
    ∃ l, (ownWrite s w holder line pa bs).mem.l1 = l :: (taken s w holder line).mem.l1 ∧ l.kind = .owned ∧
      ∀ a, l.bytes.find a = if pa ≤ a ∧ a < pa + bs.length then some (bs.getD (a - pa) 0)
        else (ownedBytes s holder line).find a :=
  ⟨_, rfl, rfl, fun a => find_putBytes _ pa 0 bs a⟩

/-- A byte that is written in a line which its writer takes is read from that line. -/
theorem cohByte_ownWrite {s : State} {w : Writer} {holder line pa : Nat} {bs : List Byte} {k : Nat}
    (hk : k < bs.length) : cohByte (ownWrite s w holder line pa bs) (pa + k) = bs.getD k 0 := by
  obtain ⟨l, hl, hkind, hfind⟩ := ownWrite_l1 s w holder line pa bs
  unfold cohByte
  rw [hl, ownedByte, if_pos hkind, hfind, if_pos (by omega), Nat.add_sub_cancel_left]

/-! ## Memory with no dirty copy -/

/-- No holder has a line dirty, the LLC has room for `n` more sectors, and each byte has its value at its home. -/
structure Quiet (home : Nat → Byte) (n : Nat) (s : State) : Prop where
  lines : ∀ l ∈ s.mem.l1, l.kind ≠ .owned ∧ l.buffered = false
  stash : ∀ c ∈ s.crews, c.stash = []
  room : s.mem.sectors.length + n ≤ 8192
  home : ∀ a, homeByte s.mem a = home a

section
variable {home : Nat → Byte} {n : Nat} {s : State}

theorem Quiet.stashFree (h : Quiet home n s) (line : Nat) : StashFree s line := by
  intro c hc e he
  rw [h.stash c hc] at he
  cases he

theorem Quiet.cohByte (h : Quiet home n s) (a : Nat) : cohByte s a = home a := by
  rw [cohByte_of_home (ownedByte_none fun l hm hk => absurd hk (h.lines l hm).1) (h.stashFree _), h.home]

theorem Quiet.bufferedSi (h : Quiet home n s) (core : Nat) (line : Option Nat) : bufferedSi s core line = [] := by
  unfold Machine.bufferedSi
  rw [List.filter_eq_nil_iff]
  intro l hm
  simp [(h.lines l hm).2]

theorem Quiet.ownedBytes (h : Quiet home n s) (core line : Nat) : ownedBytes s core line = [] := by
  unfold Machine.ownedBytes
  have hnone : (s.mem.l1.find? fun l => l.core == core && l.line == line && l.kind == .owned) = none := by
    rw [List.find?_eq_none]
    intro l hm
    simp [(h.lines l hm).1]
  rw [hnone]

/-- With room in its slice, a sector comes in and none goes out. -/
theorem quiet_touchSector {line : Nat} (h : Quiet home (n + 1) s) : Quiet home n (touchSector s line) := by
  have hroom := h.room
  have hkeep : sectorRoom s (line / 64) = s := by
    refine if_pos (lt_of_le_of_lt (List.length_filter_le _ _) ?_)
    rw [sliceSectors]
    omega
  unfold touchSector
  dsimp only
  split_ifs
  · exact ⟨h.lines, h.stash, by omega, h.home⟩
  · refine ⟨h.lines, h.stash, ?_, h.home⟩
    have hlen := List.length_filter_le (fun p => decide (p ≠ line / 64)) s.mem.sectors
    rw [List.length_cons]
    omega
  · rw [hkeep]
    refine ⟨h.lines, h.stash, ?_, h.home⟩
    change (line / 64 :: s.mem.sectors).length + n ≤ 8192
    rw [List.length_cons]
    omega

theorem quiet_useHome {line : Nat} (h : Quiet home n s) : Quiet home n (useHome s line) := by
  unfold useHome
  split
  · exact ⟨h.lines, h.stash, h.room, h.home⟩
  · exact h

theorem quiet_atSlice {line : Nat} (h : Quiet home (n + 1) s) : Quiet home n (atSlice s line) := by
  have ht : Quiet home n (touchSector (useHome s line) line) := quiet_touchSector (quiet_useHome h)
  unfold atSlice countOwn
  dsimp only
  split
  · exact ht
  · exact ⟨ht.lines, ht.stash, ht.room, ht.home⟩

theorem quiet_recallStash {line : Nat} {drop : Bool} (h : Quiet home n s) : Quiet home n (recallStash s line drop) := by
  have hdirty : stashDirty s line = [] := by
    unfold stashDirty
    rw [List.flatMap_eq_nil_iff]
    intro c hc
    rw [h.stash c hc, List.flatMap_nil]
  unfold recallStash
  rw [hdirty]
  refine ⟨h.lines, fun c hc => ?_, h.room, h.home⟩
  obtain ⟨x, hx, rfl⟩ := List.mem_map.1 hc
  dsimp only
  rw [h.stash x hx, List.map_nil]

/-- With no owned line, a recall writes nothing back. -/
theorem recallL1_quiet {line : Nat} {keep : L1Line → Bool} (h : Quiet home n s) :
    recallL1 s.mem line keep =
      { s.mem with l1 := s.mem.l1.filter fun l => l.line != line || l.kind == .si || (l.kind != .owned && keep l) } := by
  have howned : (s.mem.l1.filter fun l => l.line = line ∧ l.kind = .owned) = [] := by
    rw [List.filter_eq_nil_iff]
    intro l hm
    simp [(h.lines l hm).1]
  unfold recallL1
  rw [howned]
  rfl

theorem quiet_recallBy {w : Writer} {line : Nat} (h : Quiet home n s) : Quiet home n (recallBy s w line) := by
  have hr : Quiet home n (recallStash s line true) := quiet_recallStash h
  unfold recallBy recallLate recallNow
  dsimp only
  rw [recallL1_quiet hr, recallL1_quiet hr]
  split
  · refine ⟨fun l hm => ?_, hr.stash, hr.room, hr.home⟩
    obtain ⟨x, hx, rfl⟩ := List.mem_map.1 hm
    have hline := hr.lines x (List.mem_filter.1 hx).1
    split
    · exact ⟨nofun, hline.2⟩
    · exact hline
  · exact ⟨fun l hm => hr.lines l (List.mem_filter.1 hm).1, hr.stash, hr.room, hr.home⟩

theorem flushSi_quiet {gid core : Nat} {line : Option Nat} (h : Quiet home n s) : flushSi s gid core line = s :=
  if_pos (h.bufferedSi core line)

theorem quiet_serveRelease {r : Req} (h : Quiet home n s) : Quiet home n (serveRelease s r) := by
  unfold serveRelease releaseL1
  rw [flushSi_quiet h, flushSi_quiet h]
  split_ifs
  · exact ⟨h.lines, h.stash, h.room, h.home⟩
  · exact h
  · exact h

theorem quiet_dropOld {core : Nat} {ms : List Msg} (h : Quiet home n s) : Quiet home n (dropOld s core ms) := by
  unfold dropOld
  split
  · exact h
  · refine ⟨h.lines, fun c hc => ?_, h.room, h.home⟩
    obtain ⟨x, hx, rfl⟩ := List.mem_map.1 hc
    split
    · dsimp only
      rw [h.stash x hx, List.map_nil]
    · exact h.stash x hx

theorem quiet_freshLine {core line : Nat} (h : Quiet home n s) : Quiet home n (freshLine s core line) := by
  have hi : Quiet home n (freshImages s core line) := by
    unfold freshImages
    split
    · exact h
    · exact quiet_dropOld h
  exact ⟨fun l hm => hi.lines l (List.mem_filter.1 hm).1, hi.stash, hi.room, hi.home⟩

theorem quiet_overwrite {core line : Nat} {ps : List Part} (h : Quiet home n s) :
    Quiet home n (overwrite s core line ps) := by
  refine ⟨fun l hm => ?_, h.stash, h.room, h.home⟩
  obtain ⟨x, hx, rfl⟩ := List.mem_map.1 (List.mem_filter.1 hm).1
  have hline := h.lines x hx
  rw [if_neg (fun hc => by simp [hline.2] at hc)]
  exact hline

theorem quiet_prepare {r : Req} (hr : r.kind = .store) (h : Quiet home n s) : Quiet home n (prepare s r) := by
  unfold prepare
  rw [hr]
  dsimp only
  split
  · exact h
  · exact quiet_freshLine (quiet_overwrite h)

/-- A store at a home leaves every other byte as it was. -/
theorem cohByte_homeStore_other {w : Writer} {pa : Nat} {bs : List Byte} (h : Quiet home (n + 1) s)
    (hw : memWf s.mem = true) (hb : bs ≠ []) (h1 : pa % 64 + bs.length ≤ 64) {a : Nat}
    (ha : a < pa ∨ pa + bs.length ≤ a) : cohByte (homeStore s w pa bs) a = home a := by
  have hq : Quiet home n (recallBy (touchSector s (pa / 64)) w (pa / 64)) := quiet_recallBy (quiet_touchSector h)
  have hwf : memWf (storedHome s w pa bs).mem = true :=
    memWf_homePuts _ _ (memWf_recallBy _ _ (memWf_touchSector _ hw))
  rw [homeStore_one hb h1, cohByte_of_home, homeByte_sendHome _ hwf]
  · rw [storedHome, homeByte_homePuts, if_neg (by omega), hq.home]
  · rw [sendHome_l1, storedHome, homePuts_l1]
    exact ownedByte_none fun l hm hk => absurd hk (hq.lines l hm).1
  · unfold StashFree
    rw [sendHome_crews]
    exact hq.stashFree _

/-- A write in a line which its writer takes leaves every other byte as it was. -/
theorem cohByte_ownWrite_other {w : Writer} {holder line pa : Nat} {bs : List Byte} (h : Quiet home n s) {a : Nat}
    (ha : a < pa ∨ pa + bs.length ≤ a) : cohByte (ownWrite s w holder line pa bs) a = home a := by
  have hq : Quiet home n (taken s w holder line) :=
    quiet_recallBy ⟨fun l hm => h.lines l (List.mem_filter.1 hm).1, h.stash, h.room, h.home⟩
  obtain ⟨l, hl, hkind, hfind⟩ := ownWrite_l1 s w holder line pa bs
  have hnone : l.bytes.find a = none := by
    rw [hfind, if_neg (by omega), h.ownedBytes]
    rfl
  have hfree : StashFree (ownWrite s w holder line pa bs) (a / 64) := hq.stashFree _
  rw [cohByte_of_home _ hfree]
  · exact hq.home a
  · rw [hl, ownedByte, if_pos hkind, hnone]
    exact ownedByte_none fun x hm hk => absurd hk (hq.lines x hm).1

end

/-! ## The store that is performed -/

theorem perform_store {s : State} {r : Req} (hr : r.kind = .store) :
    perform s r = serveStore (if l1Hit s r then prepare s r else atSlice (prepare s r) r.line) r := by
  have hsend : sendsBuffer r = false := by unfold sendsBuffer; rw [hr]
  unfold perform
  rw [hsend, hr]
  rfl

theorem serveStore_one {s : State} {r : Req} {p : Part} (hp : r.parts = [p]) (hq : r.rq ≠ .si) :
    serveStore s r =
      writePart (serveRelease s r) r p p.data.toNat (if r.rq = .own then some r.core else none) := by
  unfold serveStore
  rw [hp]
  cases hc : r.rq with
  | si => exact absurd hc hq
  | own => rfl
  | wt => rfl
  | nc => rfl

/-- With no object, a part of a store takes its line, or writes through. -/
theorem writePart_store {s : State} {r : Req} {p : Part} {v : Nat} {holder : Option Nat} (hr : r.kind = .store)
    (ho : s.coh.objs = []) :
    writePart s r p v holder =
      match holder with
      | some h => ownWrite s (writerOf r p) h r.line p.pa (leBytes p.size v)
      | none => writeBy s (writerOf r p) p.pa (leBytes p.size v) := by
  have htouch : touchesObj s r p = false := by simp [touchesObj, elemsOf_noObjs ho]
  have hport : atThePort r = false := by simp [atThePort, hr]
  unfold writePart
  cases holder with
  | some h => simp [htouch, hr]
  | none => simp [htouch, hport]

section
variable {s : State} {r : Req} {p : Part} {holder : Option Nat}

/-- A part of a store is the coherent value of its bytes. -/
theorem cohByte_writePart (hr : r.kind = .store) (hs : Homed s) (hw : memWf s.mem = true)
    (h1 : p.pa % 64 + p.size ≤ 64) {v k : Nat} (hk : k < p.size) :
    cohByte (writePart s r p v holder) (p.pa + k) = BitVec.ofNat 8 (v / 256 ^ k) := by
  have hlen : (leBytes p.size v).length = p.size := length_leBytes _ _
  have hne : leBytes p.size v ≠ [] := List.ne_nil_of_length_pos (by omega)
  rw [writePart_store hr hs.objs, ← getD_leBytes v hk]
  cases holder with
  | some h => exact cohByte_ownWrite (by omega)
  | none =>
    dsimp only
    rw [writeBy_one hs.objs hne (by omega)]
    exact cohByte_homeStore hs hw hne (by omega) (by omega)

/-- A part of a store changes no other byte, where no holder has a line dirty. -/
theorem cohByte_writePart_other {home : Nat → Byte} {n : Nat} (hr : r.kind = .store) (ho : s.coh.objs = [])
    (hq : Quiet home (n + 1) s) (hw : memWf s.mem = true) (h1 : p.pa % 64 + p.size ≤ 64) {v a : Nat}
    (ha : a < p.pa ∨ p.pa + p.size ≤ a) : cohByte (writePart s r p v holder) a = home a := by
  have hlen : (leBytes p.size v).length = p.size := length_leBytes _ _
  rw [writePart_store hr ho]
  cases holder with
  | some h => exact cohByte_ownWrite_other hq (by omega)
  | none =>
    dsimp only
    by_cases hne : leBytes p.size v = []
    · rw [hne]
      exact hq.cohByte a
    · rw [writeBy_one ho hne (by omega)]
      exact cohByte_homeStore_other hq hw hne (by omega) (by omega)

end

/-- The state in which a store that is performed writes its parts. -/
def readyToWrite (s : State) (r : Req) : State :=
  serveRelease (if l1Hit s r then prepare s r else atSlice (prepare s r) r.line) r

theorem perform_one {s : State} {r : Req} {p : Part} (hr : r.kind = .store) (hp : r.parts = [p]) (hq : r.rq ≠ .si) :
    perform s r =
      writePart (readyToWrite s r) r p p.data.toNat (if r.rq = .own then some r.core else none) := by
  rw [perform_store hr, serveStore_one hp hq]
  rfl

theorem canon_readyToWrite {s : State} {r : Req} (h : Canon s) : Canon (readyToWrite s r) :=
  canon_serveRelease (canon_ite (canon_prepare h) (memWf_atSlice _ (canon_prepare h)))

theorem homed_readyToWrite {s : State} {r : Req} (hr : r.kind = .store) (h : Homed s) : Homed (readyToWrite s r) := by
  have hp : Homed (prepare s r) := homed_prepare hr h
  refine homed_serveRelease ?_
  split
  · exact hp
  · exact homed_atSlice hp

theorem quiet_readyToWrite {home : Nat → Byte} {n : Nat} {s : State} {r : Req} (hr : r.kind = .store)
    (h : Quiet home (n + 1) s) : Quiet home n (readyToWrite s r) := by
  have hp : Quiet home (n + 1) (prepare s r) := quiet_prepare hr h
  refine quiet_serveRelease ?_
  split
  · exact ⟨hp.lines, hp.stash, by have := hp.room; omega, hp.home⟩
  · exact quiet_atSlice hp

/-- Settles O39: the owned line or the home holds the bytes, and where nothing was dirty every other byte reads at its home,
which no step of the store changes. -/
theorem servedStoreIsRead : Obligations.ServedStoreIsRead := by
  intro s r p hr hp hq _ h1 hobjs hw hlines
  have hhomed : Homed (readyToWrite s r) := homed_readyToWrite hr ⟨hobjs, fun l hm _ => hlines l hm⟩
  have hcanon : memWf (readyToWrite s r).mem = true := canon_readyToWrite hw
  rw [perform_one hr hp hq]
  refine ⟨fun k hk => cohByte_writePart hr hhomed hcanon h1 hk, fun hclean hstash hroom a ha => ?_⟩
  have hquiet : Quiet (homeByte s.mem) 2 s := ⟨hclean, hstash, by omega, fun _ => rfl⟩
  rw [hquiet.cohByte]
  exact cohByte_writePart_other hr hhomed.objs (quiet_readyToWrite hr hquiet) hcanon h1 ha

end Sys2Proof.Machine
end

section
/-! PROOF. A lane instruction that is ready: its body runs, behind a probe that finds every page and a stack cache that has been
written back as far as it must. -/

namespace Sys2Proof.Machine

/-- A lane instruction that is ready runs its body (R44). -/
theorem laneExec_ready {s : State} {i : Instr} {g : Group} {q : QEntry} (h : LaneReady s i g q)
    (body : Group → QEntry → State) : laneExec s i body = body g q := by
  obtain ⟨hc, hq, hrows, hpoison⟩ := h
  obtain ⟨l, hl⟩ := List.head?_eq_some_iff.1 hq
  exact laneExec_go hc hl (gate_go hrows hpoison) body

/-- A probe that every page passes goes on with what it found (R261). -/
theorem probeG_found {s : State} {g : Group} {els : List Asked}
    (hm : misses (oneXlate s g.asid (els.map (·.va))) g.asid els = []) (isLane : Bool) (k : State → List Found → State) :
    probeG s g isLane els k =
      k (learnAll (oneXlate s g.asid (els.map (·.va))) g.asid els)
        (founds (oneXlate s g.asid (els.map (·.va))) g.asid els) := by
  simp only [probeG, hm]

/-- What goes on behind the stack cache goes on once the bytes that it must write back have been (R119). -/
theorem spilled_go {s s1 : State} {g g1 : Group} {p : Nat → Bool} (h : Spilled s g p s1 g1) (k : State → Group → State) :
    spilled s g p k = k s1 g1 := by
  rcases h with ⟨hn, rfl, rfl⟩ | ⟨hy, hc, rfl⟩
  · rw [spilled, if_neg (Bool.eq_false_iff.1 hn)]
  · simp only [spilled, hy, hc, if_true]

end Sys2Proof.Machine
end

section
/-! PROOF. Operations on memory and translations leave every group as it is: one lemma for each, in the order in which the model
states them. -/

namespace Sys2Proof.Machine

/-- A fold of operations that each leave the groups alone leaves them alone. -/
theorem groups_foldl {β : Type} {f : State → β → State} (hf : ∀ s b, (f s b).groups = s.groups) (l : List β)
    (s : State) : (l.foldl f s).groups = s.groups :=
  foldl_keeps (p := fun t : State => t.groups = s.groups) (fun t b h => (hf t b).trans h) l rfl

section
variable (s : State)

/-! ### Memory -/

@[simp] theorem useHome_groups (line : Nat) : (useHome s line).groups = s.groups := by
  unfold useHome
  split <;> rfl

@[simp] theorem claim_groups (who : Asker) (cls n : Nat) (rs : List Nat) : (claim s who cls n rs).1.groups = s.groups := by
  obtain ⟨gov, h⟩ := claim_frame s who cls n rs
  rw [h]

@[simp] theorem recallStash_groups (line : Nat) (drop : Bool) : (recallStash s line drop).groups = s.groups := rfl

@[simp] theorem sendHome_groups (line : Nat) : (sendHome s line).groups = s.groups := by
  unfold sendHome
  split <;> rfl

@[simp] theorem recallLine_groups (line : Nat) : (recallLine s line).groups = s.groups := by
  simp [recallLine]

@[simp] theorem flushLlc_groups (page : Nat) : (flushLlc s page).groups = s.groups := by
  unfold flushLlc
  dsimp only
  split <;> rfl

@[simp] theorem recallPage_groups (page : Nat) : (recallPage s page).groups = s.groups :=
  groups_foldl (fun s i => recallLine_groups s (64 * page + i)) _ s

@[simp] theorem evictSector_groups (page : Nat) : (evictSector s page).groups = s.groups := by
  have h : (flushLlc (recallPage s page) page).groups = s.groups := by simp
  unfold evictSector sectorLoses
  generalize flushLlc (recallPage s page) page = t at h
  exact h

@[simp] theorem sectorRoom_groups (page : Nat) : (sectorRoom s page).groups = s.groups := by
  unfold sectorRoom
  dsimp only
  split
  · rfl
  · exact evictSector_groups _ _

@[simp] theorem touchSector_groups (line : Nat) : (touchSector s line).groups = s.groups := by
  unfold touchSector
  dsimp only
  split_ifs
  · rfl
  · rfl
  · exact sectorRoom_groups s _

@[simp] theorem countOwn_groups (line : Nat) : (countOwn s line).groups = s.groups := by
  unfold countOwn
  dsimp only
  split <;> rfl

@[simp] theorem recallBy_groups (w : Writer) (line : Nat) : (recallBy s w line).groups = s.groups := by
  unfold recallBy
  split <;> rfl

@[simp] theorem homeStore_groups (w : Writer) (pa : Nat) (bs : List Byte) : (homeStore s w pa bs).groups = s.groups := by
  unfold homeStore
  rw [sendHome_groups]
  exact groups_foldl (fun s l => by simp) _ s

@[simp] theorem writeLine_groups (w : Writer) (pa : Nat) (bs : List Byte) : (writeLine s w pa bs).groups = s.groups := by
  unfold writeLine
  dsimp only
  split
  · exact homeStore_groups s w pa bs
  · refine (groups_foldl ?_ _ _).trans (homeStore_groups s w pa bs)
    exact fun _ _ => rfl

@[simp] theorem writeLines_groups (w : Writer) (pa : Nat) (bs : List Byte) (fuel : Nat) :
    (writeLines s w pa bs fuel).groups = s.groups := by
  induction fuel generalizing s w pa bs with
  | zero => cases bs <;> rfl
  | succ n ih =>
    cases bs with
    | nil => rfl
    | cons b r => exact (ih _ _ _ _).trans (writeLine_groups s w pa _)

@[simp] theorem writeBy_groups (w : Writer) (pa : Nat) (bs : List Byte) : (writeBy s w pa bs).groups = s.groups :=
  writeLines_groups s w pa bs _

@[simp] theorem flushSi_groups (gid core : Nat) (line : Option Nat) : (flushSi s gid core line).groups = s.groups := by
  unfold flushSi
  dsimp only
  split
  · rfl
  · refine (groups_foldl ?_ _ _).trans rfl
    exact fun s x => writeBy_groups s _ _ _

/-! ### Translations -/

@[simp] theorem walked_groups (asid va : Nat) : (walked s asid va).groups = s.groups := by
  unfold walked
  split
  · rfl
  · split <;> rfl

@[simp] theorem keepXlate_groups (asid va : Nat) : (keepXlate s asid va).groups = s.groups := by
  unfold keepXlate
  split
  · rfl
  · split
    · rfl
    · exact walked_groups s asid va

@[simp] theorem learnEach_groups (asid : Nat) (vas : List Nat) : (learnEach s asid vas).groups = s.groups := by
  unfold learnEach
  split
  · rfl
  · exact groups_foldl (fun s va => keepXlate_groups s asid va) vas s

@[simp] theorem learnAll_groups (asid : Nat) (els : List Asked) : (learnAll s asid els).groups = s.groups :=
  learnEach_groups s asid _

@[simp] theorem oneXlate_groups (asid : Nat) (vas : List Nat) : (oneXlate s asid vas).groups = s.groups := by
  unfold oneXlate
  split
  · rfl
  · rfl
  · dsimp only
    split
    · rfl
    · refine groups_foldl ?_ _ s
      exact fun _ _ => rfl

/-! ### Cache instructions -/

section
variable (g : Group) (scope : Scope)

@[simp] theorem cleanCopies_groups (line : Nat) : (cleanCopies s g scope line).groups = s.groups := by
  unfold cleanCopies
  dsimp only
  have hflush : ∀ l : List L1Line, (l.foldl (fun s l => flushSi s g.gid l.core (some line)) s).groups = s.groups :=
    fun l => groups_foldl (fun s l => flushSi_groups s _ _ _) l s
  split
  · exact (sendHome_groups _ _).trans (hflush _)
  · exact hflush _

@[simp] theorem dropCopies_groups (line : Nat) : (dropCopies s g scope line).groups = s.groups := by
  unfold dropCopies
  dsimp only
  split <;> rfl

@[simp] theorem discardCopies_groups (line : Nat) : (discardCopies s g scope line).groups = s.groups :=
  dropCopies_groups _ g scope line

@[simp] theorem cacheLine_groups (a : CacheAct) (dsc : Bool) (x : State × Nat) (line : Nat) :
    (cacheLine a g scope dsc x line).1.groups = x.1.groups := by
  cases a with
  | clean => exact cleanCopies_groups x.1 g scope line
  | invalidate => simp [cacheLine]
  | discard =>
    unfold cacheLine
    split_ifs <;> simp

theorem cleanLines_groups (ls : List Nat) : (cleanLines s g scope ls).1.groups = s.groups := by
  induction ls generalizing s with
  | nil => rfl
  | cons l r ih =>
    unfold cleanLines
    dsimp only
    split_ifs
    · exact ih s
    · rfl
    · rw [ih]
      simp
    · exact claim_groups s _ _ _ _

theorem cacheAll_groups (a : CacheAct) (n : Need) (ranges : List (Nat × Nat)) :
    (cacheAll s g a scope n ranges).1.groups = s.groups := by
  refine foldl_keeps (p := fun x : State × Nat => x.1.groups = s.groups) (fun x r hx => ?_) ranges rfl
  refine foldl_keeps (p := fun x : State × Nat => x.1.groups = s.groups) (fun x page hx => ?_) _ hx
  split
  · exact hx
  · exact foldl_keeps (p := fun x : State × Nat => x.1.groups = s.groups)
      (fun x line hx => (cacheLine_groups g scope a _ x line).trans hx) _ hx

end

end

end Sys2Proof.Machine
end

section
/-! PROOF. The state after reset, and the stages of a line request. -/

namespace Sys2Proof.Machine

/-- Settles O6: each field as the state at reset gives it, and memory by the lemma about its canonical form there. -/
theorem resetIsBringUp : Obligations.ResetIsBringUp :=
  ⟨rfl, rfl, rfl, rfl, rfl, rfl, rfl, memWf_reset⟩

/-! ## Line requests -/

section
variable {s : State} {r : Req}

/-- A claim with nothing of its class ahead of it and room in its budgets is charged, and leaves the order of arrival (R29). -/
theorem claim_charged {who : Asker} {cls n : Nat} {rs : List Nat} {t : State} (ha : aheadOf s who cls rs = false)
    (hc : chargeAll s cls n rs = some t) : claim s who cls n rs = (leaveWait t who, true) := by
  simp [claim, ha, hc]

/-- A request that its L1 answers needs no budget (R132). -/
theorem acceptReq_hit (h0 : r.stage = 0) (hh : l1Hit s r = true) : acceptReq s r = setStage s r.id 1 := by
  simp [acceptReq, h0, hh]

/-- Any other is charged as it is accepted (R29, R157). -/
theorem acceptReq_charged {t : State} (h0 : r.stage = 0) (hh : l1Hit s r = false) (hd : deliveredLater s r = false)
    (hs : sendable s [r.line] = true)
    (ha : aheadOf s (.req r.id) r.cls (reqResources s r.line ++ portResources s r) = false)
    (hc : chargeAll s r.cls 64 (reqResources s r.line ++ portResources s r) = some t) :
    acceptReq s r = setPaid (setStage (useHome (leaveWait t (.req r.id)) r.line) r.id 1) r.id := by
  simp [acceptReq, h0, hh, hd, hs, claim_charged ha hc]

/-- A request that is ready, and has been charged if its L1 does not answer it, is served (R28, R132). -/
theorem serveReq_ready {s1 : State} (hp : l1Hit s r = true ∨ r.paid = true) (hr : readyReq s r = (s1, true)) :
    serveReq s r = serveNow s1 r := by
  have hcharged : (!l1Hit s r && !r.paid) = false := by rcases hp with h | h <;> simp [h]
  simp [serveReq, hcharged, hr]

/-- A return frees the request's slot and no other (R131). -/
theorem returnReq_reqs (s : State) (r : Req) : (returnReq s r).reqs = s.reqs.filter fun x => x.id ≠ r.id := by
  unfold returnReq
  dsimp only
  split <;> rfl

end

/-- Settles O38: each stage of a request by the lemma about the operation that its turn runs. -/
theorem lineRequests : Obligations.LineRequests := by
  refine ⟨fun s r hf h0 => ⟨fun hh => ?_, fun t hh hd hs => ?_⟩,
    fun s s1 r hf h1 hm hp hr => ⟨fun hc => ?_, fun hc => ?_⟩, fun s r hf h2 => ⟨returnReq s r, ?_, returnReq_reqs s r⟩⟩
  · change execGovernedRequestAdmit r.id s = _
    simp [execGovernedRequestAdmit, hf, acceptReq_hit h0 hh]
  · intro rs ha hc
    change execGovernedRequestAdmit r.id s = _
    simp [execGovernedRequestAdmit, hf, acceptReq_charged h0 hh hd hs ha hc]
  · change execMemoryRequestAtHome r.id s = _
    simp [execMemoryRequestAtHome, hf, h1, hm, hc, serveReq_ready hp hr]
  · change execLineRecall r.id s = _
    simp [execLineRecall, hf, h1, hm, hc, serveReq_ready hp hr]
  · change execRequestReturn r.id s = _
    simp [execRequestReturn, hf, h2]

end Sys2Proof.Machine
end

section
/-! PROOF. SC.TRAP −1: the return from a handler. -/

namespace Sys2Proof.Machine

/-- The scalar registers after values have been put in the ones from a number on, one after another. -/
theorem scal_putSaved {b : Nat} (hb : b ≠ 0) (vs : List Nat) (n : Nat) (g : Group) (m : Nat) :
    scal ((vs.zipIdx n).foldl (fun g v => setScal g (b + v.2) (dw v.1)) g) m =
      if b + n ≤ m ∧ m < b + n + vs.length then dw (vs.getD (m - (b + n)) 0) else scal g m := by
  induction vs generalizing n g with
  | nil => simp
  | cons v r ih =>
    rw [List.zipIdx_cons, List.foldl_cons, ih, List.length_cons, scal_setScal]
    dsimp only
    by_cases h0 : m = b + n
    · subst h0
      simp [hb]
    · by_cases h1 : b + (n + 1) ≤ m ∧ m < b + (n + 1) + r.length
      · rw [if_pos h1, if_pos (by omega), show m - (b + n) = (m - (b + (n + 1))) + 1 by omega, List.getD_cons_succ]
      · rw [if_neg h1, if_neg (by simp [h0]), if_neg (by omega)]

/-- The return reloads s56 to s63 from what the trap saved (R273). -/
theorem scal_returned (g : Group) {x : Return} (hx : x.ssave.length = 8) {k : Nat} (hk : k < 8) :
    scal (returned g x) (56 + k) = dw (x.ssave.getD k 0) := by
  have hput := scal_putSaved (b := 56) (by decide) x.ssave 0 g (56 + k)
  rw [if_pos (by omega), show 56 + k - (56 + 0) = k by omega] at hput
  exact hput

/-- The return finds s56 to s63 in the header. -/
theorem length_ssave (s : State) (g : Group) : (readReturn s g).ssave.length = 8 := length_tab _ _

/-- A return whose header and image pass their checks is made (R273, R275). -/
theorem doReturn_ok {s : State} {g : Group} {k : Kernel} {w : Word} (hl : (readReturn s g).lrem = 0)
    (hq : (readReturn s g).qn ≤ 16) (hs : stackBad g (dw ((readReturn s g).ssave.getD 7 0)) = false)
    (hc : checkImage k (readReturn s g).entries 0 = none) :
    doReturn s g k w = setG s (returned g (readReturn s g)) := by
  have hchecks : ¬ (16 < (readReturn s g).qn ∨ 31 < (readReturn s g).lrem ∨
      (!lremOk (readReturn s g).lrem w) = true) := by
    rw [hl]
    simpa [lremOk] using hq
  rw [doReturn, if_neg hchecks, if_neg (Bool.eq_false_iff.1 hs), hc]

/-- Settles O24: outside a handler by the abort, and in one by what reading the header back gives. -/
theorem trapReturn : Obligations.TrapReturn := by
  intro s s1 g r hc
  refine ⟨fun hh => ?_, fun hh hq hi hb hr hf ho => ?_⟩
  · change execScTrapReturn s = _
    simp [execScTrapReturn, onG_some hc, hh, causeTrap, tIllegal]
  · intro s2 x hl hn hs hk
    refine ⟨?_, rfl, rfl, rfl, rfl, rfl, fun k hk => scal_returned g (length_ssave s2 g) hk⟩
    have hidle : laneIdle g = true := by simp [laneIdle, hq, hi]
    have hlrem : (readReturn s1 g).lrem = 0 := hl -- noting reads leaves what they read as it was
    change execScTrapReturn s = _
    simp [execScTrapReturn, onG_some hc, hh, hidle, hb, hr, hf, ho, hlrem]
    exact doReturn_ok hl hn hs hk

end Sys2Proof.Machine
end

section
/-! PROOF. PREF, FENCE and the cache instructions. -/

namespace Sys2Proof.Machine

section
variable {s : State} {g : Group} {q : QEntry} {f : LaneForm}

/-- PREF makes its prefetches once no fence stands and the tables of its lines can be reached (R341, R376). -/
theorem exec_pref {lvl : PrefLvl} {rq : ReqTy} (h : LaneReady s (.pref f lvl rq) g q)
    (hf : fenced s g false = false ∨ actives g q f = [])
    (hw : ∀ t ∈ actives g q f, walkOpen s g.asid (addrAB g q f t).toNat = true) :
    exec (.pref f lvl rq) s = .next (setG
      ((((actives g q f).map fun t => (addrAB g q f t).toNat / 64).eraseDups).foldl
        (fun s l => prefOne s g lvl rq (64 * l)) s) (entered g f)) := by
  have hfence : ¬ (fenced s g false && actives g q f != []) = true := by rcases hf with h | h <;> simp [h]
  have hopen : ¬ ((actives g q f).any fun t => !walkOpen s g.asid (addrAB g q f t).toNat) = true := by simpa using hw
  change execPref f lvl rq s = _
  rw [execPref, laneExec_ready h, if_neg hfence, if_neg hopen]

/-- A fence with no active thread does nothing (R341). -/
theorem exec_fence_idle {m : FenceMod} (h : LaneReady s (.fence f m) g q) (ha : actives g q f = []) :
    exec (.fence f m) s = .next (setG s (entered g f)) := by
  change execFence f m s = _
  rw [execFence, laneExec_ready h]
  simp only [ha]

/-- A fence stands for its active threads once the core's buffered stores have gone home (R123, R341). -/
theorem exec_fence_stands {m : FenceMod} {s1 : State} (h : LaneReady s (.fence f m) g q) (ha : actives g q f ≠ [])
    (hs : flushPaid s (laneWho g) g.gid g.core none = (s1, true)) :
    exec (.fence f m) s = .next (setG s1 (entered (addFence s1 g false (maskOf (actives g q f)) m) f)) := by
  change execFence f m s = _
  rw [execFence, laneExec_ready h]
  cases hact : actives g q f with
  | nil => exact absurd hact ha
  | cons u us => simp only [hs, if_true]

/-- The elements that a cache instruction probes: one in each page that its threads' ranges touch and that is resident (R326). -/
def cacheAsked (s : State) (g : Group) (n : Need) (rs : List (Nat × Nat × Nat)) : List Asked :=
  asking n ((rs.flatMap fun x => (rangePages x.2.1 x.2.2).map fun va => (x.1, va)).filter
    fun e => match look s g.asid e.2 n with | .absent _ => false | _ => true)

/-- A cache instruction that nothing holds back acts for every active thread, and is pending with its count (R326 to R329). -/
theorem cacheOp_acts {a : CacheAct} {scope : Scope} {n : Need} {sreg : Option SReg} {s2 : State}
    {rs : List (Nat × Nat × Nat)} {els : List Asked} {s0 s1 : State} {out : State × Nat} (ha : actives g q f ≠ [])
    (hc : curG s = some g) (hf : fenced s g false = false)
    (hrs : rs = (actives g q f).map fun u => (u, cacheRange g q f u)) (hels : els = cacheAsked s g n rs)
    (hs0 : s0 = oneXlate s g.asid (els.map (·.va))) (hs1 : s1 = learnAll s0 g.asid els)
    (hout : out = cacheAll s2 g a scope n (rs.map Prod.snd)) (hm : misses s0 g.asid els = [])
    (hw : cacheWaits s1 g n (rs.map Prod.snd) (founds s0 g.asid els) = false)
    (hclean : cleanLines s1 g scope (cleanedLines s1 g a n (rs.map Prod.snd)) = (s2, true)) :
    cacheOp s f a scope n sreg g q =
      enterPending out.1 ((findGroup out.1.groups g.gid).getD g) f (actives g q f)
        { newInfl out.1 g q f .cache [] with
          sreg := sreg, sval := dw out.2, aux := out.2, vpages := pagesOf (founds s0 g.asid els) } := by
  have hgroups : out.1.groups = s.groups := by
    have h2 : s2.groups = s1.groups := by
      rw [← cleanLines_groups s1 g scope (cleanedLines s1 g a n (rs.map Prod.snd)), hclean]
    rw [hout, cacheAll_groups, h2, hs1, hs0, learnAll_groups, oneXlate_groups]
  have hfind : (findGroup out.1.groups g.gid).getD g = g := by
    rw [hgroups, curG_gid hc]
    exact congrArg (Option.getD · g) hc
  rw [hfind]
  unfold cacheOp
  cases hact : actives g q f with
  | nil => exact absurd hact ha
  | cons u us =>
    rw [hact] at hrs
    subst hs0 hs1 hout
    simp only [hf, Bool.false_eq_true, if_false]
    rw [← hrs]
    change probeG s g true (cacheAsked s g n rs) _ = _
    rw [← hels, probeG_found hm]
    simp only [hw, Bool.false_eq_true, if_false, hclean, Bool.not_true, hfind]

/-- The three cache instructions are one operation, with its action, its need and its scalar destination. -/
theorem exec_cache {a : CacheAct} {scope : Scope} {i : Instr}
    (hi : (i, a) ∈ [(Instr.cinv f scope, CacheAct.invalidate), (.cwb f scope, .clean), (.cdisc f scope, .discard)])
    (h : LaneReady s i g q) :
    exec i s = .next (cacheOp s f a scope (if a = .discard then needStore else needLoad) (scalarDest i) g q) := by
  simp only [List.mem_cons, Prod.mk.injEq, List.not_mem_nil, or_false] at hi
  rcases hi with ⟨rfl, rfl⟩ | ⟨rfl, rfl⟩ | ⟨rfl, rfl⟩
  · change execCinv f scope s = _
    rw [execCinv, laneExec_ready h]
    rfl
  · change execCwb f scope s = _
    rw [execCwb, laneExec_ready h]
    rfl
  · change execCdisc f scope s = _
    rw [execCdisc, laneExec_ready h]
    rfl

end

/-- Settles O41: each instruction by the lemma about it. -/
theorem prefetchFenceAndCache : Obligations.PrefetchFenceAndCache := by
  intro s g q f
  refine ⟨fun lvl rq h hf hw => exec_pref h hf hw,
    fun m h => ⟨exec_fence_idle h, fun s1 ha hs => exec_fence_stands h ha hs⟩, fun a scope i s2 hi h ha hf => ?_⟩
  intro n rs els s0 s1 out hm hw hc
  rw [exec_cache hi h]
  exact congrArg Host.Outcome.next (cacheOp_acts ha h.1 hf rfl rfl rfl rfl rfl hm hw hc)

end Sys2Proof.Machine
end

section
/-! PROOF. The raster unit, the sampler and the merge units. -/

namespace Sys2Proof.Machine

section
variable {s : State} {g : Group} {q : QEntry} {f : LaneForm}

/-- RAST scans its triangle for its active threads; their rows and the token are pending (R249, R382). -/
theorem exec_rast (h : LaneReady s (.rast f) g q) (ha : actives g q f ≠ []) :
    let out := rastOut q.caps (actives g q f) f.d.toNat (candCount (triOf q.caps))
    exec (.rast f) s = .next (enterPending s g f (actives g q f) { newInfl s g q f .rast (rowsFrom f.d.toNat 3) with
      writes := out.1, sreg := scalarDest (.rast f), sval := out.2 }) := by
  change execRast f s = _
  rw [execRast, laneExec_ready h]
  cases hact : actives g q f with
  | nil => exact absurd hact ha
  | cons u us => simp only [newInfl, hact]

/-- SAMP and SAMPG are one operation. -/
theorem exec_samp {i : Instr} {gather : Bool} (hi : (i, gather) ∈ [(Instr.samp f, false), (.sampg f, true)]) (s : State) :
    exec i s = .next (sampOp s i f gather) := by
  simp only [List.mem_cons, Prod.mk.injEq, List.not_mem_nil, or_false] at hi
  rcases hi with ⟨rfl, rfl⟩ | ⟨rfl, rfl⟩ <;> rfl

/-- The group of a number that is found, or else one of that number, has it. -/
theorem findGroup_getD_gid (gs : List Group) (g : Group) : ((findGroup gs g.gid).getD g).gid = g.gid := by
  cases h : findGroup gs g.gid with
  | none => rfl
  | some x => exact findGroup_gid h

/-- What the sampler keeps of an instruction that it takes up, with its first thread in progress (R257, R258). -/
def sampBegun (s2 s3 : State) (g : Group) (q : QEntry) (f : LaneForm) (gather : Bool) (u : Nat) (us : List Nat) (pa : Nat) :
    Samp :=
  { infl := s2.nextId, gather := gather, desc := opdDword g q 1 f.c u, arow := f.a.toNat, dst := f.d.toNat
    act := maskOf (u :: us), done := 0, thr := u, tmask := 0, stage := [], fva := none, left := 0, trap := none, entry := q
    tex := BitVec.ofNat 256 (cohNat s3 pa 32), bad := false }

/-- SAMP and SAMPG, once their threads' earlier accesses have been performed and their descriptor has been read, hold row a and
run their footprints (R156, R256, R257). -/
theorem sampOp_runs {u pa pte : Nat} {us : List Nat} {i : Instr} {gather : Bool} {sA s1 s2 : State} {gA : Group}
    (h : LaneReady s i g q) (hact : actives g q f = u :: us) (hx : (opdDword g q 1 f.c u).toNat % 32 = 0)
    (hf : fenced s g false = false) (hi : ∀ r ∈ g.infl, r.kind ≠ .samp)
    (ho : outstanding s g false (maskOf (u :: us)) (fun _ => true) = false)
    (he : engineReads s g.gid (maskOf (u :: us)) s.nextId = false) (hw : writesOnWay s g (maskOf (u :: us)) = false)
    (hs : Spilled s g (fun _ => true) sA gA) (hl : look sA gA.asid (opdDword g q 1 f.c u).toNat needLoad = .ok pa pte)
    (hr : readWords (learnAll sA gA.asid (asking needLoad [(u, (opdDword g q 1 f.c u).toNat)])) gA (maskOf (u :: us))
      ((linesOf pa 32).map fun l => (l, pteOk pte)) .sys = (s1, true))
    (hp : poisoned s1 pa 32 = false) (hb : flushPaid s1 (laneWho gA) gA.gid gA.core none = (s2, true))
    (hw2 : writesOnWay s2 gA (maskOf (u :: us)) = false) :
    let s3 := enterPending s2 gA f (List.range 32) { newInfl s2 gA q f .samp (rowsFrom f.d.toNat 2) with
      needs := 1, writes := lateZeroes f (rowsFrom f.d.toNat 2) (u :: us) }
    sampOp s i f gather = sampLoop (setG s3 { (findGroup s3.groups gA.gid).getD gA with
      samp := some (sampBegun s2 s3 g q f gather u us pa), held := [f.a.toNat] }) gA.gid sampFuel := by
  intro s3
  have hinfl : (g.infl.any fun i => i.kind == .samp) = false := by simpa using hi
  unfold sampOp
  rw [laneExec_ready h]
  simp only [hact, hx, hf, hinfl, ho, he, hw, spilled_go hs, probeG_single hl, hr, hp, hb, hw2, ne_eq, not_true_eq_false,
    Bool.or_self, Bool.false_eq_true, Bool.not_true, if_false, findGroup_getD_gid]
  rfl

/-- OMRG sends its fragments and closes once its record has been read and every die has room (R252, R255, R372). -/
theorem exec_omrg {seq : SReg} {close : Bool} {pa pte d : Nat} {sA s2 : State} {gA : Group}
    (h : LaneReady s (.omrg f seq close) g q) (ha : actives g q f ≠ [] ∨ close = true) (hf : fenced s g false = false) :
    let u := (actives g q f).headD 0
    let x := (opdDword g q 1 f.c u).toNat
    let s1 := learnAll sA gA.asid (asking needLoad [(u, x)])
    let out := fragsOf s2 gA q f close (actives g q f) x (BitVec.ofNat 512 d)
    x % 64 = 0 → Spilled s g (fun va => decide (x ≤ va ∧ va < x + 64)) sA gA → look sA gA.asid x needLoad = .ok pa pte →
    poisoned s1 pa 64 = false → readDesc s1 gA (maskOf [u]) (pteOk pte) pa 64 = (s2, some d) →
    (∀ k ∈ out.map Prod.fst, mergeRoom s2 gA.asid x out k = true) →
    exec (.omrg f seq close) s = .next (out.foldl sendFrag
      (countDrops (setG s2 (entered gA f)) gA.asid x (badFrags gA f (actives g q f) (BitVec.ofNat 512 d)))) := by
  intro u x s1 out hx hs hl hp hr hroom
  have hidle : ¬ (actives g q f = [] ∧ (!close) = true) := by
    rcases ha with h | h <;> simp [h]
  have hall : ((out.map Prod.fst).eraseDups.all (mergeRoom s2 gA.asid x out)) = true := by
    rw [List.all_eq_true]
    exact fun k hk => hroom k (List.mem_eraseDups.1 hk)
  simp only [s1, x, u] at hx hs hl hp hr
  change execOmrg f seq close s = _
  rw [execOmrg, laneExec_ready h]
  dsimp only
  rw [if_neg hidle, if_neg (fun hn => hn hx), hf, spilled_go hs, probeG_single hl]
  simp only [Bool.false_eq_true, if_false, hp, hr]
  exact congrArg Host.Outcome.next (if_pos hall)

/-- A fragment that is first of its core on the way to its die is taken up there (R253, R254). -/
theorem exec_fragmentArrival {die : Nat} {x : Frag}
    (hx : ((mergeUnit s die).transit.find? fun y => y.id == x.id && !y.close) = some x)
    (hfirst : fragFirst (mergeUnit s die) x = true) :
    exec (.fragmentArrival die x.id) s = .next (arriveFrag s die x) := by
  change execFragmentArrival die x.id s = _
  simp only [execFragmentArrival, hx, hfirst, if_true]

/-- A close likewise (R253, R254). -/
theorem exec_streamClose {die : Nat} {x : Frag}
    (hx : ((mergeUnit s die).transit.find? fun y => y.id == x.id && y.close) = some x)
    (hfirst : fragFirst (mergeUnit s die) x = true) :
    exec (.streamClose die x.id) s = .next (arriveClose s die x) := by
  change execStreamClose die x.id s = _
  simp only [execStreamClose, hx, hfirst, if_true]

end

/-- Settles O47: each instruction and event by the lemma about it. -/
theorem graphicsUnits : Obligations.GraphicsUnits := by
  refine ⟨fun s g q f h ha => exec_rast h ha, ?_, fun s g m hg hm hl hc => ⟨fun t ht => ?_, fun ht hv => ?_, fun ht hv hb => ?_⟩,
    ?_, fun s die x hx hfirst => ⟨fun hc => ?_, fun hc => ?_⟩⟩
  · intro s g q f u us i gather pa pte sA s1 s2 gA hi h hact x hx hf hinfl ho he hw hs hl hr hp hb hw2 s3 m
    rw [exec_samp hi, sampOp_runs h hact hx hf hinfl ho he hw hs hl hr hp hb hw2]
    rfl
  · change execSamplerResume g.gid s = _
    simp [execSamplerResume, hg, hm, hl, hc, ht]
  · change execSamplerResume g.gid s = _
    simp [execSamplerResume, hg, hm, hl, hc, ht, hv]
  · change execSamplerResume g.gid s = _
    simp [execSamplerResume, hg, hm, hl, hc, ht, hv, hb]
  · intro s g q f seq close pa pte d sA s2 gA h ha hf u x hx hs s1 out hl hp hr hroom
    exact exec_omrg h ha hf hx hs hl hp hr hroom
  · exact exec_fragmentArrival (by simpa [hc] using hx) hfirst
  · exact exec_streamClose (by simpa [hc] using hx) hfirst

end Sys2Proof.Machine
end

section
/-! PROOF. The package and its power: bring-up, the pod, the governor's periods, root pointers, bias and ports. -/

namespace Sys2Proof.Machine

section
variable {s : State}

/-! ## Bring-up and the pod -/

/-- PACKAGE_RESET: a descriptor whose signature or whose unit map fails is logged, and else the units of the map are enabled (R20
to R22). -/
theorem exec_packageReset (s : State) (umap : BitVec 1024) (frames : Nat) (body sig : List Byte) :
    let d := Config.shake (leBytes 128 umap.toNat ++ body)
    exec (.packageReset umap frames body sig) s = .next (
      if Config.falconOk d sig = false then logEvent (resetPackage s) srcFirmware causeSignature
      else if umapOk umap = false then logEvent (resetPackage s) srcFirmware causeUnitMap
      else { resetPackage s with pkg := enabled umap (min frames (786432 * (umChans umap).length)) d }) := by
  change execPackageReset umap frames body sig s = _
  simp [execPackageReset, chanFrames]

/-- A package behind the pod steps its counter forward (R23). -/
theorem exec_podTimeAligned_behind {p : Dword} (hp : s.pkg.podPos.isSome = true) (ht : s.pkg.podTraffic = false)
    (h : s.pkg.time.toNat < p.toNat) :
    exec (.podTimeAligned p) s = .next (flushFaults { s with pkg := { s.pkg with time := p, podTraffic := true } }) := by
  have hgo : ¬ (s.pkg.podPos.isNone ∨ s.pkg.podTraffic) := by simpa [ht, ← Option.isSome_iff_ne_none] using hp
  change execPodTimeAligned p s = _
  rw [execPodTimeAligned, if_neg hgo, if_pos h]

/-- One that agrees with the pod sends traffic, and one that is ahead waits (R23). -/
theorem exec_podTimeAligned_ahead {p : Dword} (hp : s.pkg.podPos.isSome = true) (ht : s.pkg.podTraffic = false)
    (h : p.toNat ≤ s.pkg.time.toNat) :
    exec (.podTimeAligned p) s =
      .next (if s.pkg.time.toNat ≤ p.toNat + 2 then { s with pkg := { s.pkg with podTraffic := true } } else s) := by
  have hgo : ¬ (s.pkg.podPos.isNone ∨ s.pkg.podTraffic) := by simpa [ht, ← Option.isSome_iff_ne_none] using hp
  change execPodTimeAligned p s = _
  rw [execPodTimeAligned, if_neg hgo, if_neg (by omega)]
  rfl

/-- The state in which the traffic for a destination takes a link (R307). -/
def rerouted (s : State) (dest link : Nat) : State :=
  { s with pkg := { s.pkg with routes := (dest, link) :: s.pkg.routes.filter fun r => r.1 ≠ dest } }

theorem routeOf_rerouted (s : State) (dest link : Nat) : routeOf (rerouted s dest link) dest = some link := by
  simp [routeOf, rerouted]

/-- The traffic for every other destination keeps its link. -/
theorem routeOf_rerouted_other (s : State) {dest d : Nat} (link : Nat) (hd : d ≠ dest) :
    routeOf (rerouted s dest link) d = routeOf s d := by
  have hkeep : ∀ l : List (Nat × Nat),
      (l.filter fun r => decide (r.1 ≠ dest)).find? (fun r => r.1 == d) = l.find? fun r => r.1 == d := by
    intro l
    rw [List.find?_filter]
    refine congrArg (List.find? · l) (funext fun r => ?_)
    by_cases hr : r.1 = d
    · simp [hr, hd]
    · simp [hr]
  have hhead : (dest == d) = false := by simpa using Ne.symm hd
  simp only [routeOf, rerouted, List.find?_cons, hhead, hkeep]

theorem exec_podLinkReroute {dest link : Nat} (hp : s.pkg.podPos.isSome = true) (hl : link < s.pkg.links.length)
    (hd : downSince s link = none) (ho : onRoute s dest = false)
    (hr : routeOf s dest = none ∨ ∃ l t, routeOf s dest = some l ∧ downSince s l = some t ∧ t + 1000000 < s.pkg.time.toNat) :
    exec (.podLinkReroute dest link) s = .next (rerouted s dest link) := by
  have hneeds : needsRoute s dest = true := by
    unfold needsRoute
    rcases hr with hn | ⟨l, t, hs, ht, hlt⟩
    · rw [hn]
    · rw [hs]
      simp only [ht, linkTicks, hlt, decide_true]
  have hgo : ¬ (s.pkg.podPos.isNone ∨ s.pkg.links.length ≤ link ∨ (downSince s link).isSome ∨ (!needsRoute s dest) = true ∨
      onRoute s dest) := by
    simp [hd, hneeds, ho, hl, ← Option.isSome_iff_ne_none, hp]
  change execPodLinkReroute dest link s = _
  rw [execPodLinkReroute, if_neg hgo]
  rfl

/-! ## The governor -/

/-- A period boundary that is due loads fresh budgets; stopped dies issue again and sleeping fetchers look again (R26, R29, R30). -/
theorem exec_governorPeriodBoundary {bs : List Budget} {e : List (Nat × Nat)} (hu : s.pkg.up = true)
    (ht : 4000 * s.gov.periods ≤ s.pkg.time.toNat) (hb : ∀ r ∈ govResources s, budgetOk bs r = true)
    (he : energyOk s e = true) :
    ∃ t, exec (.governorPeriodBoundary bs e) s = .next t ∧ t.gov.left = loadBudgets s bs ∧ t.gov.stopped = [] ∧
      t.gov.periods = s.gov.periods + 1 ∧ (∀ q ∈ t.queues, q.awake = true) ∧ t.mem = s.mem := by
  have hall : (govResources s).all (budgetOk bs) = true := List.all_eq_true.2 hb
  have hgo : ¬ ((!s.pkg.up) = true ∨ s.pkg.time.toNat < nextPeriod s ∨ (!(govResources s).all (budgetOk bs)) = true ∨
      (!energyOk s e) = true) := by
    rw [hu, hall, he, nextPeriod, periodTicks]
    simpa using ht
  refine ⟨_, congrArg Host.Outcome.next (if_neg hgo), rfl, rfl, rfl, fun q hq => ?_, rfl⟩
  obtain ⟨x, -, rfl⟩ := List.mem_map.1 hq
  rfl

/-- A die whose energy is used up stops, and its ready groups park (R30, R51). -/
theorem exec_dieEnergyExhausted {die : Nat} (hd : die < s.pkg.dies.length) (hn : die ∉ s.gov.stopped) :
    exec (.dieEnergyExhausted die) s = .next { s with
      gov := { s.gov with stopped := die :: s.gov.stopped }, groups := s.groups.map (energyPark s die) } := by
  have hgo : ¬ (s.pkg.dies.length ≤ die ∨ s.gov.stopped.contains die = true) := by simpa [hn] using hd
  exact congrArg Host.Outcome.next (if_neg hgo)

/-- Above the power limit every die's budget is halved, and the event is logged (R309). -/
theorem exec_powerLimitExceeded (hu : s.pkg.up = true) (hl : s.gov.overLimit = false) :
    exec .powerLimitExceeded s = .next (logEvent { s with
      gov := { s.gov with overLimit := true, energy := (s.gov.energy.map fun e => (e.1, e.2 / 2)).filter fun e => e.2 ≠ 0 } }
      srcFirmware causePower) := by
  have hgo : ¬ ((!s.pkg.up) = true ∨ s.gov.overLimit = true) := by simp [hu, hl]
  exact congrArg Host.Outcome.next (if_neg hgo)

/-! ## Address spaces, bias and ports -/

theorem exec_deviceBiasSet {region : Nat} (hh : (65536 * region).testBit 51 = true) (hb : region ∉ s.pkg.bias)
    (ha : region ∈ s.mem.asked) :
    exec (.deviceBiasSet region) s = .next { s with pkg := { s.pkg with bias := region :: s.pkg.bias } } := by
  have hgo : ¬ (!(65536 * region).testBit 51 || s.pkg.bias.contains region || !s.mem.asked.contains region) = true := by
    simp [hh, hb, ha]
  exact congrArg Host.Outcome.next (if_neg hgo)

/-- Marking lines changes the marks alone, and marks each of them. -/
theorem markPoison_foldl (s : State) (ls : List Nat) :
    ∃ p, ls.foldl markPoison s = { s with mem := { s.mem with poison := p } } ∧ (∀ l ∈ s.mem.poison, l ∈ p) ∧
      ∀ l ∈ ls, l ∈ p := by
  induction ls generalizing s with
  | nil => exact ⟨s.mem.poison, rfl, fun _ h => h, nofun⟩
  | cons l r ih =>
    obtain ⟨p, heq, hold, hnew⟩ := ih (markPoison s l)
    have hl : l ∈ (markPoison s l).mem.poison ∧ ∀ x ∈ s.mem.poison, x ∈ (markPoison s l).mem.poison := by
      unfold markPoison
      dsimp only
      split
      · rename_i h
        exact ⟨by simpa using h, fun _ hx => hx⟩
      · exact ⟨List.mem_cons_self, fun _ hx => List.mem_cons_of_mem _ hx⟩
    refine ⟨p, heq, fun x hx => hold x (hl.2 x hx), fun x hx => ?_⟩
    rcases List.mem_cons.1 hx with rfl | hx
    · exact hold _ hl.1
    · exact hnew x hx

/-- A pool port that fails answers what was in flight on it as poison, and its number stays (R21, R304). -/
theorem exec_cxlPortFailure {port : Nat} (h0 : port ≠ 0) (hp : port ∈ livePorts s) :
    ∃ t, exec (.cxlPortFailure port) s = .next t ∧ t.pkg.portsDown = port :: s.pkg.portsDown ∧ t.pkg.ports = s.pkg.ports ∧
      (∀ j ∈ s.jobs, onPort s port j.page = true → ∀ k < 64, 64 * j.page + k ∈ t.mem.poison) ∧
      t.reqs = s.reqs.map fun r => { r with lost := r.lost || atPort s port r } := by
  have hgo : ¬ (port = 0 ∨ (!(livePorts s).contains port) = true) := by simpa [h0] using hp
  obtain ⟨p, heq, -, hmark⟩ := markPoison_foldl s
    (((s.jobs.filter fun j => onPort s port j.page).map (·.page)).flatMap fun p => tab 64 fun k => 64 * p + k)
  rw [List.foldl_flatMap] at heq
  refine ⟨_, congrArg Host.Outcome.next (if_neg hgo), ?_⟩
  dsimp only
  rw [heq]
  refine ⟨rfl, rfl, fun j hj ho k hk => hmark _ (List.mem_flatMap.2 ⟨j.page, ?_, ?_⟩), rfl⟩
  · exact List.mem_map.2 ⟨j, List.mem_filter.2 ⟨hj, ho⟩, rfl⟩
  · exact List.mem_map.2 ⟨k, List.mem_range.2 hk, rfl⟩

end

/-- Settles O51: each event by the lemma about it. -/
theorem packageAndPower : Obligations.PackageAndPower := by
  refine ⟨fun s umap frames body sig => ⟨rfl, rfl, rfl, exec_packageReset s umap frames body sig, rfl, rfl⟩,
    fun s p hp ht => ⟨fun h => exec_podTimeAligned_behind hp ht h, fun h h2 => ?_, fun h => ?_⟩,
    fun s dest link hp hl hd ho hr => ⟨_, exec_podLinkReroute hp hl hd ho hr, routeOf_rerouted s dest link,
      fun d hne => routeOf_rerouted_other s link hne⟩,
    fun s bs e hu ht hb he => exec_governorPeriodBoundary hu ht hb he, fun s die hd hn => exec_dieEnergyExhausted hd hn,
    fun s hu hl => ⟨_, exec_powerLimitExceeded hu hl, rfl, rfl, rfl⟩,
    fun s asid root => ⟨_, rfl, Cells.find_put_same _ _ _, Cells.get_set_same 0 s.xl.afflags _ 0, fun a ha => Cells.find_put_ne _ _ ha⟩,
    fun s region hh hb ha => exec_deviceBiasSet hh hb ha, fun s port h0 hp => exec_cxlPortFailure h0 hp⟩
  · rw [exec_podTimeAligned_ahead hp ht h, if_pos h2]
  · rw [exec_podTimeAligned_ahead hp ht (by omega), if_neg (by omega)]

end Sys2Proof.Machine
end

section
/-! PROOF. Tile tasks: the checks at issue, the effect on one engine or on both engines of a pair, the rows of a memory task, and
retirement. -/

namespace Sys2Proof.Machine

/-! ## The sequencer -/

/-- The state in which the sequencer has issued a task (R208). -/
def issuedTask (t : Task) : Task := { t with stage := .issued }

section
variable {s : State} {core kind : Nat} {t : Task} {run : State → Task → State}

/-- An issued task that the driver's answer trap has ended (R206, R263). -/
theorem goTask_fail (hf : t.fail = true) : goTask s core t run = endTask s core t 4 0 := by
  rw [goTask, if_pos hf]
  rfl

/-- An issued task whose accumulator or whose other half is not ready waits (R209, R219). -/
theorem goTask_waits (hf : t.fail = false) (hw : accReady (engineOf s core) t = false ∨ pairReady s core t = false) :
    goTask s core t run = s := by
  have hn : (accReady (engineOf s core) t && pairReady s core t) = false := by rcases hw with h | h <;> simp [h]
  simp only [goTask, hf, hn, Bool.false_eq_true, if_false]

/-- An issued task runs once its accumulator and its other half are ready (R209, R219). -/
theorem goTask_runs (hf : t.fail = false) (ha : accReady (engineOf s core) t = true) (hp : pairReady s core t = true) :
    goTask s core t run = run s t := by
  simp only [goTask, hf, ha, hp, Bool.false_eq_true, if_false, Bool.and_self, if_true]

section
variable (hfind : findTask (engineOf s core) t.key = some t) (hup : s.pkg.up = true) (hkind : tkKind t.desc = kind)
include hfind hup hkind

theorem taskStep_issued (h : t.stage = .issued) : taskStep s core t.key kind run = goTask s core t run := by
  simp [taskStep, hfind, hup, hkind, h]

section
variable (h : t.stage = .accepted) (hmay : engineMay s core = true) (hsave : engineSaving s core t = false)
  (hturn : mayIssue (engineOf s core) t = true)
include h hmay hsave hturn

/-- A task whose turn has come and that fails a check ends with its status (R208). -/
theorem taskStep_fails (hs : issueStatus t ≠ 0) :
    taskStep s core t.key kind run = endTask s core t (issueStatus t) 0 := by
  simp [taskStep, hfind, hup, hkind, h, hmay, hsave, hturn, hs]

/-- A TMMA whose scale chain does not fit on some engine ends with SCALECHAIN (R208, R214). -/
theorem taskStep_chain (hs : issueStatus t = 0) (hk : kind = 3)
    (hc : (taskCores core t).any (fun c => !chainOk (engineOf s core).window (engineOf s c) t) = true) :
    taskStep s core t.key kind run = endTask s core t 2 0 := by
  have hbad : tkKind t.desc = kTmma ∧ (taskCores core t).any fun c => !chainOk (engineOf s core).window (engineOf s c) t :=
    ⟨hkind.trans hk, hc⟩
  simp only [taskStep, hfind, hup, hkind, h, hmay, hsave, hturn, hs, Bool.not_true, bne_self_eq_false, Bool.or_self,
    Bool.false_eq_true, if_false, ne_eq, not_true_eq_false]
  rw [if_pos (hkind ▸ hbad)]
  rfl

/-- A task that passes its checks is issued (R208). -/
theorem taskStep_issues (hs : issueStatus t = 0)
    (hc : kind = 3 → (taskCores core t).any (fun c => !chainOk (engineOf s core).window (engineOf s c) t) = false) :
    taskStep s core t.key kind run = goTask (setTask s core (issuedTask t)) core (issuedTask t) run := by
  have hgood : ¬ (kind = kTmma ∧ (taskCores core t).any fun c => !chainOk (engineOf s core).window (engineOf s c) t) :=
    fun hb => Bool.eq_false_iff.1 (hc hb.1) hb.2
  simp only [taskStep, hfind, hup, hkind, h, hmay, hsave, hturn, hs, Bool.not_true, bne_self_eq_false, Bool.or_self,
    Bool.false_eq_true, if_false, ne_eq, not_true_eq_false]
  rw [if_neg hgood]
  rfl

end

end

end

/-! ## Tasks that touch no memory -/

/-- The tasks that touch no memory, each with its kind and its effect on an engine. -/
inductive InEngine (core key : Nat) : Instr → Nat → (Matrix → Task → Matrix × Flags) → Prop where
  | tmma : InEngine core key (.tmma core key) 3 tmmaOn
  | thad : InEngine core key (.thad core key) 4 thadOn
  | tzero : InEngine core key (.tzero core key) 5 tzeroOn
  | tcvt : InEngine core key (.tcvt core key) 6 tcvtOn
  | tjoin : InEngine core key (.tjoin core key) 7 fun m _ => (m, 0)

section
variable {s : State} {core key kind : Nat} {i : Instr} {op : Matrix → Task → Matrix × Flags} {t : Task}

theorem inEngine_of_mem (h : (i, kind, op) ∈ [(Instr.tmma core key, 3, tmmaOn), (.thad core key, 4, thadOn),
    (.tzero core key, 5, tzeroOn), (.tcvt core key, 6, tcvtOn), (.tjoin core key, 7, fun m _ => (m, 0))]) :
    InEngine core key i kind op := by
  simp only [List.mem_cons, Prod.mk.injEq, List.not_mem_nil, or_false] at h
  rcases h with ⟨rfl, rfl, rfl⟩ | ⟨rfl, rfl, rfl⟩ | ⟨rfl, rfl, rfl⟩ | ⟨rfl, rfl, rfl⟩ | ⟨rfl, rfl, rfl⟩
  · exact .tmma
  · exact .thad
  · exact .tzero
  · exact .tcvt
  · exact .tjoin

theorem InEngine.exec (h : InEngine core key i kind op) (s : State) :
    exec i s = .next (taskStep s core key kind fun s t => runOn s core t op) := by
  cases h <;> rfl

/-- TJOIN leaves its engine as it is (R213). -/
theorem InEngine.tjoin_keeps (h : InEngine core key i kind op) (hk : kind = 7) (m : Matrix) : (op m t).1 = m := by
  cases h with
  | tjoin => rfl
  | _ => exact absurd hk (by decide)

/-- A task takes its effect on its engine (R212, R213). -/
theorem runOn_single (hp : t.pair = false) (hb : usesBad (engineOf s core) t = false) :
    runOn s core t op =
      endTask (setEngine s core (op (engineOf s core) t).1) core t 0 (op (engineOf s core) t).2 := by
  simp [runOn, badCore, taskCores, hp, hb]

/-- A paired task takes its effect on the even engine, and then on the odd one (R218). -/
theorem runOn_pair (hp : t.pair = true) (h0 : usesBad (engineOf s core) t = false)
    (h1 : usesBad (engineOf s (core + 1)) t = false) :
    let even := op (engineOf s core) t
    let s1 := setEngine s core even.1
    let odd := op (engineOf s1 (core + 1)) t
    runOn s core t op = endTask (setEngine s1 (core + 1) odd.1) core t 0 (even.2 ||| odd.2) := by
  simp [runOn, badCore, taskCores, hp, h0, h1]

/-- A paired task consumes poison at the first of its engines that has it (R282, R283). -/
theorem runOn_poison {h : Nat} (hp : t.pair = true) (hh : h < 2) (hb : usesBad (engineOf s (core + h)) t = true)
    (h0 : h = 1 → usesBad (engineOf s core) t = false) : runOn s core t op = consumeTask s core h t 2 0 0 := by
  have hcase : h = 0 ∨ h = 1 := by omega
  rcases hcase with rfl | rfl
  · have hb0 : usesBad (engineOf s core) t = true := hb
    simp [runOn, badCore, taskCores, hp, hb0]
  · simp [runOn, badCore, taskCores, hp, hb, h0 rfl]

/-- Whether the other half of a paired task is there is what the holder of the odd engine says (R219). -/
theorem pairReady_pair (hp : t.pair = true) :
    pairReady s core t = ((engineOf s (core + 1)).holder == some (t.grid, t.mate)) := by
  simp [pairReady, hp]

theorem pairReady_single (hp : t.pair = false) : pairReady s core t = true := by simp [pairReady, hp]

end

/-! ## Tasks that touch memory -/

section
variable {s : State} {core : Nat} {t : Task} {load : Bool}

/-- The rows of a half that are all done are not run again. -/
theorem runRows_done {half n : Nat} (hfind : findTask (engineOf s core) t.key = some t) (hd : memRows t ≤ progOf t half) :
    runRows s core t.key half load n = s := by
  cases n with
  | zero => rfl
  | succ n => simp [runRows, hfind, hd]

/-- With every row of both halves staged, a paired task commits them together (R218). -/
theorem runMem_commits (hfind : findTask (engineOf s core) t.key = some t) (hi : t.stage = .issued) (hp : t.pair = true)
    (hh : t.holds = []) (h0 : memRows t ≤ t.prog) (h1 : memRows t ≤ t.prog1) (hb : load = false → badCore s core t = none) :
    runMem s core t load = if load then commitLoad s core t else commitStore s core t := by
  have hbad : (if load then none else badCore s core t) = none := by
    cases load with
    | true => rfl
    | false => exact hb rfl
  have hr0 : runRows s core t.key 0 load 64 = s := runRows_done hfind h0
  have hr1 : runRows s core t.key 1 load 64 = s := runRows_done hfind h1
  have hd0 : halfDone t 0 = true := by simpa [halfDone, progOf] using h0
  have hd1 : halfDone t 1 = true := by simpa [halfDone, progOf] using h1
  simp [runMem, hbad, hr0, hr1, hfind, hi, hp, hh, hd0, hd1]

theorem exec_memTask {i : Instr} (h : (i, load) ∈ [(Instr.tload core t.key, true), (.tstore core t.key, false)]) (s : State) :
    exec i s = .next (taskStep s core t.key (if load then 1 else 2) fun s t => runMem s core t load) := by
  simp only [List.mem_cons, Prod.mk.injEq, List.not_mem_nil, or_false] at h
  rcases h with ⟨rfl, rfl⟩ | ⟨rfl, rfl⟩ <;> rfl

/-! ## Retirement -/

section
variable (hfind : findTask (engineOf s core) t.key = some t) (hs : t.stage = .ended) (hh : 2 ∉ t.holds)
  (hm : ∀ m ∈ s.coh.msgs, m.gid ≠ taskAgent t)
include hfind hs hh hm

/-- A task with no status word to write retires (R206, R210). -/
theorem exec_matrixTaskRetire_plain (hw : tkStat t.desc = 0 ∨ t.skip = true) :
    exec (.matrixTaskRetire core t.key) s = .next (retireTask s core t) := by
  have hmsgs : (s.coh.msgs.any fun m => m.gid == taskAgent t) = false := by simpa using hm
  change execMatrixTaskRetire core t.key s = _
  simp [execMatrixTaskRetire, hfind, hs, hh, hmsgs, hw]

/-- Any other retires once its status word is written and what that sends has arrived (R206, R210). -/
theorem exec_matrixTaskRetire_status {ps : List (Nat × Nat × Nat)} {s1 : State} (hn : tkStat t.desc ≠ 0) (hk : t.skip = false)
    (hp : rowProbe s core t 2 (tkStat t.desc) 8 needStore = .ok ps) (hc : rowCharge s core 2 t ps = (s1, true))
    (hm2 : ∀ m ∈ (rowWrite s1 core t ps (leBytes 8 (statusWord t))).coh.msgs, m.gid ≠ taskAgent t) :
    exec (.matrixTaskRetire core t.key) s =
      .next (retireTask (rowWrite s1 core t ps (leBytes 8 (statusWord t))) core t) := by
  have hmsgs : (s.coh.msgs.any fun m => m.gid == taskAgent t) = false := by simpa using hm
  have hmsgs2 : ((rowWrite s1 core t ps (leBytes 8 (statusWord t))).coh.msgs.any fun m => m.gid == taskAgent t) = false := by
    simpa using hm2
  change execMatrixTaskRetire core t.key s = _
  simp only [execMatrixTaskRetire, hfind, hs, hmsgs, hn, hk, hp, hc, hmsgs2]
  simp [hh]

end

end

/-- A write of cr.tmask that waits takes effect once neither engine of the pair is busy (R217). -/
theorem exec_tmaskPairWriteResume {s : State} {g : Group} {v : BitVec 64} (hg : findGroup s.groups g.gid = some g)
    (hv : g.pairWait = some v) (hb : pairBusy s g.core = false) :
    exec (.tmaskPairWriteResume g.gid) s = .next (setG (setEngine s g.core { engineOf s g.core with tmask := v })
      (nextSpc { g with pairWait := none })) := by
  change execTmaskPairWriteResume g.gid s = _
  simp [execTmaskPairWriteResume, hg, hv, hb]

/-- Settles O57: each kind of task by what the sequencer does with it, and then by what running it comes to. -/
theorem tileTasks : Obligations.TileTasks := by
  refine ⟨?_, ?_, ?_, ?_, fun s g v hg hv hb => exec_tmaskPairWriteResume hg hv hb⟩
  · intro i kind core op s t hi hfind hup hkind hp runs
    have he := inEngine_of_mem hi
    have hcores : taskCores core t = [core] := by simp [taskCores, hp]
    refine ⟨fun h hmay hsave hturn => ⟨fun hs => ?_, fun hs hk hc => ?_, fun hs hc hf ha hb => ?_⟩,
      fun h => ⟨fun hf => ?_, fun hf ha hb => ?_⟩, fun m' hk => he.tjoin_keeps hk m'⟩
    · rw [he.exec, taskStep_fails hfind hup hkind h hmay hsave hturn hs]
    · rw [he.exec, taskStep_chain hfind hup hkind h hmay hsave hturn hs hk (by simp [hcores, hc])]
    · rw [he.exec, taskStep_issues hfind hup hkind h hmay hsave hturn hs fun hk => by simp [hcores, hc hk]]
      exact congrArg Host.Outcome.next ((goTask_runs hf ha (pairReady_single hp)).trans (runOn_single hp hb))
    · rw [he.exec, taskStep_issued hfind hup hkind h, goTask_fail hf]
    · rw [he.exec, taskStep_issued hfind hup hkind h, goTask_runs hf ha (pairReady_single hp), runOn_single hp hb]
  · intro i kind core op s t hi hfind hup hkind hp
    have he := inEngine_of_mem hi
    have hcores : taskCores core t = [core, core + 1] := by simp [taskCores, hp]
    refine ⟨fun h hmay hsave hturn => ⟨fun hs => ?_, fun hs hk hc => ?_⟩, fun h hf => ?_, fun h hf hn => ?_,
      fun h hf ha hh => ?_⟩
    · rw [he.exec, taskStep_fails hfind hup hkind h hmay hsave hturn hs]
    · rw [he.exec, taskStep_chain hfind hup hkind h hmay hsave hturn hs hk (by simpa [hcores] using hc)]
    · rw [he.exec, taskStep_issued hfind hup hkind h, goTask_fail hf]
    · rw [he.exec, taskStep_issued hfind hup hkind h, goTask_waits hf (.inr (by simpa [pairReady_pair hp] using hn))]
    · have hgo : ∀ run : State → Task → State, goTask s core t run = run s t := fun run =>
        goTask_runs hf ha (by simpa [pairReady_pair hp] using hh)
      rw [he.exec, taskStep_issued hfind hup hkind h, hgo]
      exact ⟨fun k hk hb h0 => congrArg Host.Outcome.next (runOn_poison hp hk hb h0),
        fun h0 h1 => congrArg Host.Outcome.next (runOn_pair hp h0 h1)⟩
  · intro s core t i load hi hfind hup hkind
    have hnot3 : (if load then 1 else 2) ≠ 3 := by cases load <;> decide
    refine ⟨fun h hmay hsave hturn => ⟨fun hs => ?_, fun hs hf => ?_⟩, fun h hf => ?_, fun h hf hp => ?_,
      fun h hf ha hp => ⟨?_, fun hpair hh h0 h1 hb => ?_⟩⟩
    · rw [exec_memTask hi, taskStep_fails hfind hup hkind h hmay hsave hturn hs]
    · intro t1 s1 ha hp
      rw [exec_memTask hi, taskStep_issues hfind hup hkind h hmay hsave hturn hs fun hk => absurd hk hnot3]
      exact congrArg Host.Outcome.next (goTask_runs hf ha hp)
    · rw [exec_memTask hi, taskStep_issued hfind hup hkind h, goTask_fail hf]
    · rw [exec_memTask hi, taskStep_issued hfind hup hkind h, goTask_waits hf (.inr hp)]
    · rw [exec_memTask hi, taskStep_issued hfind hup hkind h, goTask_runs hf ha hp]
    · rw [exec_memTask hi, taskStep_issued hfind hup hkind h, goTask_runs hf ha hp,
        runMem_commits hfind h hpair hh h0 h1 hb]
  · intro s core t hfind hs hh hm
    refine ⟨fun hw => exec_matrixTaskRetire_plain hfind hs hh hm hw, fun ps s1 hn hk hp hc => ?_⟩
    exact exec_matrixTaskRetire_status hfind hs hh hm hn hk hp hc

end Sys2Proof.Machine
end

section
/-! PROOF. The driver's registers and commands, shoot-downs and the switch of a live update. -/

namespace Sys2Proof.Machine

/-! ## One dword of the command area -/

/-- A dword of a number is replaced bit by bit. -/
theorem testBit_putDword {x i v : Nat} (hv : v < 2 ^ 64) (b : Nat) :
    (x - nbits x (64 * i) 64 * 2 ^ (64 * i) + v * 2 ^ (64 * i)).testBit b =
      if 64 * i ≤ b ∧ b < 64 * i + 64 then v.testBit (b - 64 * i) else x.testBit b := by
  have hsplit : x - nbits x (64 * i) 64 * 2 ^ (64 * i) + v * 2 ^ (64 * i) =
      2 ^ (64 * i) * (2 ^ 64 * (x / 2 ^ (64 * i) / 2 ^ 64) + v) + x % 2 ^ (64 * i) := by
    have hlow := Nat.div_add_mod x (2 ^ (64 * i))
    have hmid := Nat.div_add_mod (x / 2 ^ (64 * i)) (2 ^ 64)
    rw [nbits, Nat.shiftRight_eq_div_pow]
    generalize x / 2 ^ (64 * i) = q at hlow hmid ⊢
    generalize q / 2 ^ 64 = h at hmid ⊢
    generalize q % 2 ^ 64 = m at hmid ⊢
    generalize x % 2 ^ (64 * i) = r at hlow ⊢
    generalize 2 ^ (64 * i) = B at hlow ⊢
    rw [← hlow, ← hmid]
    have hcalc : B * (2 ^ 64 * h + m) + r = m * B + (B * (2 ^ 64 * h) + r) := by ring
    rw [hcalc, Nat.add_sub_cancel_left]
    ring
  rw [hsplit, Nat.testBit_two_pow_mul_add _ (Nat.mod_lt _ (by positivity)), Nat.testBit_two_pow_mul_add _ hv]
  by_cases h1 : b < 64 * i
  · rw [if_pos h1, if_neg (by omega), Nat.testBit_mod_two_pow]
    simp [h1]
  · rw [if_neg h1]
    by_cases h2 : b - 64 * i < 64
    · rw [if_pos h2, if_pos (by omega)]
    · rw [if_neg h2, if_neg (by omega), Nat.testBit_div_two_pow, Nat.testBit_div_two_pow]
      congr 1
      omega

theorem testBit_nbits (x lo n b : Nat) : (nbits x lo n).testBit b = (decide (b < n) && x.testBit (lo + b)) := by
  rw [nbits, Nat.testBit_mod_two_pow, Nat.testBit_shiftRight]

/-- The dword that is replaced reads as given, and every other one as it was (R306). -/
theorem nbits_setCmd (c : BitVec 512) {i k : Nat} (hi : i < 8) (hk : k < 8) (v : Dword) :
    nbits (setCmd c i v).toNat (64 * k) 64 = if k = i then v.toNat else nbits c.toNat (64 * k) 64 := by
  apply Nat.eq_of_testBit_eq
  intro b
  rw [testBit_nbits, setCmd, ← BitVec.getLsbD, BitVec.getLsbD_ofNat, testBit_putDword v.isLt]
  by_cases hb : b < 64
  · have h512 : 64 * k + b < 512 := by omega
    by_cases hki : k = i
    · subst hki
      simp [hb, h512]
    · rw [if_neg (by omega), if_neg hki, testBit_nbits]
      simp only [h512, hb, decide_true, Bool.true_and]
  · have hv : v.toNat.testBit b = false :=
      Nat.testBit_lt_two_pow (lt_of_lt_of_le v.isLt (Nat.pow_le_pow_right (by decide) (by omega)))
    by_cases hki : k = i
    · simp [hb, hki, hv]
    · simp [hb, hki, testBit_nbits]

/-! ## Commands -/

section
variable {s : State}

/-- The write of a dword of the command area (R306). -/
theorem exec_registerWrite_cmd {i : Nat} (hi : i < 8) (v : Dword) :
    exec (.registerWrite (0x1000 + 8 * i) v) s = .next (setRegs s { s.regs with cmd := setCmd s.regs.cmd i v }) := by
  have hidx : (0x1000 + 8 * i - 0x1000) / 8 = i := by omega
  change execRegisterWrite (0x1000 + 8 * i) v s = _
  rw [execRegisterWrite, if_neg (by omega), if_neg (by omega), if_neg (by omega), if_neg (by omega), if_neg (by omega),
    if_neg (by omega), if_pos ⟨by omega, by omega, by omega⟩, hidx]

/-- A write to GO (R306). -/
theorem exec_registerWrite_go (v : Dword) (s : State) : exec (.registerWrite 0x1040 v) s = .next (goCommand s) := rfl

/-- The commands of the driver, with the codes that the command area names them by (R306). -/
def driverCommands : List (Instr × Nat) :=
  [(.qcreate, 1), (.qdestroy, 2), (.shootdown, 3), (.faultans, 4), (.update, 5), (.attest, 6), (.podjoin, 7)]

/-- A command in the command area is run by a write to GO (R306). -/
theorem exec_command {i : Instr} {code : Nat} (h : (i, code) ∈ driverCommands) (hc : cmdCode s = code) : exec i s = .next (goCommand s) := by
  have hgo : command s code = goCommand s := if_pos hc
  rw [← hgo]
  simp only [driverCommands, List.mem_cons, Prod.mk.injEq, List.not_mem_nil, or_false] at h
  rcases h with ⟨rfl, rfl⟩ | ⟨rfl, rfl⟩ | ⟨rfl, rfl⟩ | ⟨rfl, rfl⟩ | ⟨rfl, rfl⟩ | ⟨rfl, rfl⟩ | ⟨rfl, rfl⟩ <;> rfl

section
variable (hd : s.regs.cdone = true)
include hd

/-- A bit that the command's table does not assign is refused (R306). -/
theorem goCommand_bad (hk : cmdOk s = false) : goCommand s = finish s 0xFF 0 := by
  simp [goCommand, hd, hk]

/-- A command whose operands cannot be read yet waits (R23). -/
theorem goCommand_waits (hk : cmdOk s = true) (ho : cmdOpen s = false) :
    goCommand s = { s with regs := { s.regs with cdone := false, held := some s.regs.cmd } } := by
  simp [goCommand, hd, hk, ho, pending]

/-- A command that its table allows, and that can read its operands, runs (R306). -/
theorem exec_command_runs {i : Instr} {code : Nat} (hk : cmdOk s = true) (ho : cmdOpen s = true)
    (h : (i, code) ∈ driverCommands) (hc : cmdCode s = code) : exec i s = .next (runCommand s) := by
  rw [exec_command h hc]
  simp [goCommand, hd, hk, ho]

end

/-- QCREATE of a descriptor that passes its checks (R287, R306). -/
theorem runQcreate_ok {q : HostQueue} (ha : cmdArg s 1 % 64 = 0)
    (hq : queueOf (noteReads s [poolAt (cmdArg s 1) / 64]) (nextQueue (noteReads s [poolAt (cmdArg s 1) / 64]))
      (cohNat (noteReads s [poolAt (cmdArg s 1) / 64]) (poolAt (cmdArg s 1)) 64) = some q) :
    let s1 := noteReads s [poolAt (cmdArg s 1) / 64]
    runQcreate s =
      finish (devWrite { s1 with queues := s1.queues ++ [q] } q.stat (leBytes 8 0)) 0 (nextQueue s1) := by
  intro s1
  have hnum : q.num = nextQueue s1 := by
    unfold queueOf at hq
    dsimp only at hq
    split at hq
    · rw [← Option.some.inj hq]
    · cases hq
  rw [runQcreate, if_neg (fun hn => hn ha)]
  dsimp only
  rw [hq, ← hnum]

/-- Ending subscriptions leaves the registers alone. -/
theorem endSub_regs (s : State) (b : Sub) : (endSub s b).regs = s.regs := by
  have hdrop : ∀ (t : State) (core : Nat) (ms : List Msg), (dropOld t core ms).regs = t.regs := by
    intro t core ms
    unfold dropOld
    split <;> rfl
  unfold endSub
  dsimp only
  split
  · exact hdrop _ _ _
  · rfl

theorem endSubs_regs (s : State) (asid obj : Nat) : (endSubs s asid obj).regs = s.regs :=
  foldl_keeps (p := fun t : State => t.regs = s.regs) (fun t b h => (endSub_regs t b).trans h) _ rfl

/-- A SHOOTDOWN of a range of pages is under way (R116, R306). -/
theorem runShootdown_pending (hb : cmdArg s 2 % 4096 = 0) (hl : cmdArg s 3 % 4096 = 0) (hn : cmdArg s 3 ≠ 0) :
    (runShootdown s).regs.cdone = false := by
  have hgo : ¬ (cmdArg s 2 % 4096 ≠ 0 ∨ cmdArg s 3 % 4096 ≠ 0 ∨ cmdArg s 3 = 0) := by simp [hb, hl, hn]
  have hwait : ∀ (l : List Nat) (t : State) (w : Waiter),
      (l.foldl (fun s p => addPageWait s p srcFirmware w false) t).regs = t.regs := fun l t w =>
    foldl_keeps (p := fun u : State => u.regs = t.regs) (f := fun s p => addPageWait s p srcFirmware w false)
      (fun _ _ h => h) l rfl
  have hsubs : ∀ (l : List Obj) (t : State) (asid : Nat),
      (l.foldl (fun s o => endSubs s asid o.num) t).regs = t.regs := fun l t asid =>
    foldl_keeps (p := fun u : State => u.regs = t.regs) (fun u o h => (endSubs_regs u asid o.num).trans h) l rfl
  unfold runShootdown
  dsimp only
  rw [if_neg hgo]
  dsimp only
  rw [hwait]
  dsimp only
  rw [hsubs]
  rfl

/-- An answer to a fault that a waiter stands behind (R263). -/
theorem runFaultans_found {f : FaultRec} {w : Waiter} (hf : (s.faults.find? fun x => x.index == some (cmdArg s 1)) = some f)
    (hw : f.waiter = some w) (h3 : cmdArg s 2 ≠ 3) :
    let s1 := { finish s 0 0 with faults := s.faults.filter fun x => x.id ≠ f.id }
    runFaultans s = if cmdArg s 2 = 0 then releaseWaiter s1 w else if cmdArg s 2 = 1 then answerTrapTo s1 f w
      else answerEnd s1 f w := by
  have hfind : ((finish s 0 0).faults.find? fun x => x.index == some (cmdArg (finish s 0 0) 1)) = some f := hf
  have hcode : cmdArg (finish s 0 0) 2 ≠ 3 := h3
  unfold runFaultans
  dsimp only
  rw [hfind]
  dsimp only
  rw [if_neg hcode, hw]
  rfl

/-- Whether an image can import every save. -/
theorem cannotImport_iff (s : State) (d : BitVec 256) :
    cannotImport s d = true ↔ ∃ v ∈ s.saved, v.version ∉ Config.imageLayouts d := by
  simp [cannotImport]

/-- UPDATE with none pending: a bad signature, an old version and a layout that cannot import a save are refused in this order
(R299, R301). -/
theorem runUpdate_new (hu : s.fw.update = none) :
    let x := imageDigest s (poolAt (cmdArg s 1))
    let s1 := noteReads s (imageLines s (poolAt (cmdArg s 1)))
    runUpdate s =
      if Config.falconOk x.1 x.2 = false then finish s1 2 0
      else if Config.imageVersion x.1 < s.fw.floor then finish s1 4 0
      else if ∃ v ∈ s.saved, v.version ∉ Config.imageLayouts x.1 then finish s1 1 0
      else pending { s1 with fw := { s.fw with
        update := some x.1, floor := max s.fw.floor (Config.imageVersion x.1) } } := by
  intro x s1
  have hnone : ¬ s.fw.update.isSome = true := by simp [hu]
  unfold runUpdate
  dsimp only
  rw [if_neg hnone]
  exact if_congr (by simp [x]) rfl (if_congr Iff.rfl rfl (if_congr (cannotImport_iff s1 x.1) rfl rfl))

/-! ## Shoot-downs and live updates -/

/-- A SHOOTDOWN completes once its pages are there and no access from before it is left: no translation of its range stays
(R116, R126). -/
theorem exec_shootdownComplete {c : Shoot} (hc : (s.xl.shoots.find? fun x => x.id == c.id) = some c) (hl : c.left = 0)
    (ho : oldAccess s c = false) :
    ∃ t, exec (.shootdownComplete c.id) s = .next t ∧ t.regs.cdone = true ∧ t.regs.cstatus = (if c.full then 1 else 0) ∧
      ∀ e ∈ t.xl.tlb, ¬ (e.asid = c.asid ∧ c.base ≤ 4096 * e.vpage ∧ 4096 * e.vpage < c.base + c.len) := by
  have hgo : ¬ (c.left ≠ 0 ∨ oldAccess s c = true) := by simp [hl, ho]
  have hexec : exec (.shootdownComplete c.id) s = .next (finish
      (dropRange { s with xl := { s.xl with shoots := s.xl.shoots.filter fun x => x.id ≠ c.id } } c.asid c.base c.len)
      (if c.full then 1 else 0) 0) := by
    change execShootdownComplete c.id s = _
    rw [execShootdownComplete, hc]
    exact congrArg Host.Outcome.next (if_neg hgo)
  refine ⟨_, hexec, rfl, ?_, fun e he => ?_⟩
  · change BitVec.ofNat 8 (if c.full then 1 else 0) = _
    split <;> rfl
  · rintro ⟨ha, hb, hlt⟩
    have hkeep := (List.mem_filter.1 he).2
    simp [inShoot, ha, hb, hlt] at hkeep

/-- Between packets an updated complex becomes active, unless it cannot import a save (R299). -/
theorem exec_liveUpdateSwitch {d : BitVec 256} (hu : s.fw.update = some d) (hq : ∀ q ∈ s.queues, inPacket q = false) :
    ∃ t, exec .liveUpdateSwitch s = .next t ∧ t.fw.update = none ∧ t.regs.cdone = true ∧
      ((∀ v ∈ s.saved, v.version ∈ Config.imageLayouts d) → t.fw.active = 1 - s.fw.active ∧ t.regs.cstatus = 0) ∧
      ((∃ v ∈ s.saved, v.version ∉ Config.imageLayouts d) → t.fw.active = s.fw.active ∧ t.regs.cstatus = 1) := by
  have hbetween : s.queues.any inPacket = false := by simpa using hq
  change ∃ t, execLiveUpdateSwitch s = .next t ∧ _
  simp only [execLiveUpdateSwitch, hu, hbetween, Bool.false_eq_true, if_false]
  by_cases hc : cannotImport s d = true
  · rw [if_pos hc]
    obtain ⟨v, hv, hn⟩ := (cannotImport_iff s d).1 hc
    exact ⟨_, rfl, rfl, rfl, fun hall => absurd (hall v hv) hn, fun _ => ⟨rfl, rfl⟩⟩
  · rw [if_neg hc]
    exact ⟨_, rfl, rfl, rfl, fun _ => ⟨rfl, rfl⟩, fun hex => absurd ((cannotImport_iff s d).2 hex) hc⟩

end

/-- Settles O59: each register, command and event by the lemma about it. -/
theorem driverEvents : Obligations.DriverEvents := by
  refine ⟨fun s q hq => ?_, fun s v => ⟨rfl, rfl, rfl, rfl, fun hp => ?_, fun hp => ?_, fun i hi => ?_⟩, fun s hd => ?_,
    fun s c hc hl ho => exec_shootdownComplete hc hl ho, fun s d hu hq => exec_liveUpdateSwitch hu hq⟩
  · change execDoorbell q.num s = _
    simp only [execDoorbell, hq]
  · change execRegisterWrite 0x0208 v s = _
    simp [execRegisterWrite, hp, setRegs, pageAligned]
  · change execRegisterWrite 0x0208 v s = _
    simp [execRegisterWrite, hp]
  · refine ⟨_, exec_registerWrite_cmd hi v, ?_, fun k hk hne => ?_⟩
    · exact (nbits_setCmd _ hi hi v).trans (if_pos rfl)
    · exact (nbits_setCmd _ hi hk v).trans (if_neg hne)
  · refine ⟨fun i code hi hc => ⟨fun hk => ?_, ?_⟩, fun hk ho => ?_, fun hk ho => ?_⟩
    · rw [exec_command hi hc, goCommand_bad hd hk]
      rfl
    · rw [exec_command hi hc, exec_registerWrite_go]
    · rw [exec_registerWrite_go, goCommand_waits hd hk ho]
    · have hrun := fun i code hi => exec_command_runs (i := i) (code := code) hd hk ho hi
      refine ⟨fun q hc ha => ?_, fun q hc hq => ?_, fun hc hb hl hn => ?_, fun f w hc hf hw => ?_, fun hc hu => ?_,
        fun hc hu => ?_, fun hc => ?_, fun hc => ?_⟩
      · intro s1 hq
        rw [hrun .qcreate 1 (by decide) hc, runCommand, hc]
        exact congrArg Host.Outcome.next (runQcreate_ok ha hq)
      · rw [hrun .qdestroy 2 (by decide) hc, runCommand, hc]
        simp only [runQdestroy, hq]
      · rw [hrun .shootdown 3 (by decide) hc, runCommand, hc]
        exact ⟨rfl, runShootdown_pending hb hl hn⟩
      · intro s1
        rw [hrun .faultans 4 (by decide) hc, runCommand, hc]
        refine ⟨fun h => ?_, fun h => ?_, fun h => ?_⟩ <;>
          exact congrArg Host.Outcome.next ((runFaultans_found hf hw (by omega)).trans (by simp [h, s1]))
      · rw [hrun .update 5 (by decide) hc, runCommand, hc]
        simp [runUpdate, hu, upBusy]
      · intro x s1
        rw [hrun .update 5 (by decide) hc, runCommand, hc]
        exact congrArg Host.Outcome.next (runUpdate_new hu)
      · intro body s1
        rw [hrun .attest 6 (by decide) hc, runCommand, hc]
        rfl
      · rw [hrun .podjoin 7 (by decide) hc, runCommand, hc]
        rfl

end Sys2Proof.Machine
end

section
/-! PROOF. LD, ST, ATOM and RED on global memory: the probe and what it reports, and the requests of the lines that are touched. -/

namespace Sys2Proof.Machine

/-! ## What a probe and a request leave alone -/

/-- The groups, the streams and everything that memory reads as stand as they were. -/
structure SameView (s t : State) : Prop where
  cur : t.cur = s.cur
  groups : t.groups = s.groups
  streams : t.streams = s.streams
  crews : t.crews = s.crews
  spad : t.spad = s.spad
  l1 : t.mem.l1 = s.mem.l1
  llc : t.mem.llc = s.mem.llc
  loc : t.mem.loc = s.mem.loc
  pool : t.mem.pool = s.mem.pool

/-- So do the requests. -/
structure Aside (s t : State) : Prop extends SameView s t where
  reqs : t.reqs = s.reqs

theorem SameView.refl (s : State) : SameView s s := ⟨rfl, rfl, rfl, rfl, rfl, rfl, rfl, rfl, rfl⟩
theorem Aside.refl (s : State) : Aside s s := ⟨.refl s, rfl⟩

theorem SameView.trans {s t u : State} (h : SameView s t) (k : SameView t u) : SameView s u :=
  ⟨k.cur.trans h.cur, k.groups.trans h.groups, k.streams.trans h.streams, k.crews.trans h.crews, k.spad.trans h.spad,
    k.l1.trans h.l1, k.llc.trans h.llc, k.loc.trans h.loc, k.pool.trans h.pool⟩

theorem Aside.trans {s t u : State} (h : Aside s t) (k : Aside t u) : Aside s u :=
  ⟨h.toSameView.trans k.toSameView, k.reqs.trans h.reqs⟩

theorem aside_foldl {β : Type} {f : State → β → State} (hf : ∀ s b, Aside s (f s b)) (l : List β) (s : State) :
    Aside s (l.foldl f s) :=
  foldl_keeps (p := Aside s) (fun t b h => h.trans (hf t b)) l (.refl s)

/-- What memory reads as is all that its bytes show. -/
theorem SameView.memory {s t : State} (h : SameView s t) : SameMemory s t := by
  have hhome : ∀ a, homeByte t.mem a = homeByte s.mem a := fun a => by
    unfold homeByte
    rw [h.llc, h.loc, h.pool]
  refine ⟨fun a => ?_, hhome, fun core off => ?_⟩
  · unfold cohByte stashByte
    rw [h.l1, h.crews, h.spad, hhome]
  · unfold spadByte
    rw [h.spad]

theorem SameView.curG {s t : State} (h : SameView s t) : curG t = curG s := by
  unfold Machine.curG
  rw [h.groups, h.cur]

/-! ### The probe -/

theorem aside_walked (s : State) (asid va : Nat) : Aside s (walked s asid va) := by
  unfold walked
  split
  · exact .refl s
  · split <;> exact ⟨⟨rfl, rfl, rfl, rfl, rfl, rfl, rfl, rfl, rfl⟩, rfl⟩

theorem aside_keepXlate (s : State) (asid va : Nat) : Aside s (keepXlate s asid va) := by
  unfold keepXlate
  split
  · exact .refl s
  · split
    · exact .refl s
    · exact (aside_walked s asid va).trans ⟨⟨rfl, rfl, rfl, rfl, rfl, rfl, rfl, rfl, rfl⟩, rfl⟩

theorem aside_learnAll (s : State) (asid : Nat) (els : List Asked) : Aside s (learnAll s asid els) := by
  unfold learnAll learnEach
  split
  · exact .refl s
  · exact (aside_foldl (fun s va => aside_keepXlate s asid va) _ s).trans ⟨⟨rfl, rfl, rfl, rfl, rfl, rfl, rfl, rfl, rfl⟩, rfl⟩

theorem aside_oneXlate (s : State) (asid : Nat) (vas : List Nat) : Aside s (oneXlate s asid vas) := by
  unfold oneXlate
  split
  · exact .refl s
  · exact .refl s
  · dsimp only
    split
    · exact .refl s
    · refine aside_foldl (fun t p => ?_) _ s
      exact ⟨⟨rfl, rfl, rfl, rfl, rfl, rfl, rfl, rfl, rfl⟩, rfl⟩

section
variable {asid source gid die : Nat} {w : Waiter} {grid : Option Nat}

theorem aside_report (s : State) (va : Nat) (n : Need) (h : Hit) (thr : Nat) :
    Aside s (report s asid source gid va n h w grid die thr) := by
  have hw := aside_walked s asid va
  cases h <;> exact hw.trans ⟨⟨rfl, rfl, rfl, rfl, rfl, rfl, rfl, rfl, rfl⟩, rfl⟩

theorem aside_reportEach (s : State) (ms : List (Asked × Hit)) :
    Aside s (reportEach s asid source gid w grid die ms) := 
by
  unfold reportEach
  exact aside_foldl (fun s m => aside_report s m.1.va m.1.need m.2 m.1.thr) ms s

end

/-! ### Requests -/

theorem aside_claim (s : State) (who : Asker) (cls n : Nat) (rs : List Nat) :
    Aside s (claim s who cls n rs).1 := by
  obtain ⟨gov, h⟩ := claim_frame s who cls n rs
  rw [h]
  exact ⟨⟨rfl, rfl, rfl, rfl, rfl, rfl, rfl, rfl, rfl⟩, rfl⟩

theorem aside_useHome (s : State) (line : Nat) : Aside s (useHome s line) := by
  unfold useHome
  split <;> exact ⟨⟨rfl, rfl, rfl, rfl, rfl, rfl, rfl, rfl, rfl⟩, rfl⟩

/-- What a request asks for: its group, its kind, its line and its parts. -/
def asks4 (r : Req) : Nat × ReqKind × Nat × List Part := (r.gid, r.kind, r.line, r.parts)

/-- A request that is accepted, or waits, asks for the same. -/
structure Accepting (s t : State) : Prop extends SameView s t where
  asks : t.reqs.map asks4 = s.reqs.map asks4

theorem Aside.accepting {s t : State} (h : Aside s t) : Accepting s t := ⟨h.toSameView, by rw [h.reqs]⟩

theorem Accepting.trans {s t u : State} (h : Accepting s t) (k : Accepting t u) : Accepting s u :=
  ⟨h.toSameView.trans k.toSameView, k.asks.trans h.asks⟩

theorem accepting_setStage (s : State) (id stage : Nat) : Accepting s (setStage s id stage) := by
  refine ⟨⟨rfl, rfl, rfl, rfl, rfl, rfl, rfl, rfl, rfl⟩, ?_⟩
  simp only [setStage, List.map_map]
  refine List.map_congr_left fun r _ => ?_
  simp only [Function.comp_apply]
  split <;> rfl

theorem accepting_setPaid (s : State) (id : Nat) : Accepting s (setPaid s id) := by
  refine ⟨⟨rfl, rfl, rfl, rfl, rfl, rfl, rfl, rfl, rfl⟩, ?_⟩
  simp only [setPaid, List.map_map]
  refine List.map_congr_left fun r _ => ?_
  simp only [Function.comp_apply]
  split <;> rfl

theorem accepting_acceptReq (s : State) (r : Req) : Accepting s (acceptReq s r) := by
  unfold acceptReq
  split
  · exact (Aside.refl s).accepting
  · split
    · exact accepting_setStage s r.id 1
    · split
      · exact (Aside.refl s).accepting
      · have hclaim := (aside_claim s (.req r.id) r.cls 64 (reqResources s r.line ++ portResources s r)).accepting
        dsimp only
        split
        · exact ((hclaim.trans (aside_useHome _ r.line).accepting).trans (accepting_setStage _ r.id 1)).trans
            (accepting_setPaid _ r.id)
        · exact hclaim

/-- A request that is put on the list stands behind the others, whether it is accepted or waits. -/
theorem pushReq_asks (s : State) (r : Req) :
    SameView s (pushReq s r) ∧ (pushReq s r).reqs.map asks4 = s.reqs.map asks4 ++ [asks4 r] := by
  let r' : Req := { r with id := s.nextId, stage := 0, grid := ((findGroup s.groups r.gid).map (·.grid)).getD 0 }
  let s' : State := { s with nextId := s.nextId + 1, reqs := s.reqs ++ [r'] }
  have hlist : SameView s s' := ⟨rfl, rfl, rfl, rfl, rfl, rfl, rfl, rfl, rfl⟩
  have haccept := accepting_acceptReq s' r'
  refine ⟨hlist.trans haccept.toSameView, haccept.asks.trans ?_⟩
  rw [List.map_append]
  rfl

/-- One request for each run, in their order (R131). -/
theorem pushRuns_asks (r : Req) (o : GlobalOp) (xs : List Run) (s : State) :
    SameView s (pushRuns s r o xs) ∧ (pushRuns s r o xs).reqs.map asks4 =
      s.reqs.map asks4 ++ xs.map fun x => (r.gid, r.kind, x.line, x.els.map (partOf o)) := by
  induction xs generalizing s with
  | nil => exact ⟨.refl s, by simp [pushRuns]⟩
  | cons x xs ih =>
    obtain ⟨hview, hasks⟩ := pushReq_asks s { r with line := x.line, ok := x.ok, parts := x.els.map (partOf o) }
    obtain ⟨hview', hasks'⟩ := ih (pushReq s { r with line := x.line, ok := x.ok, parts := x.els.map (partOf o) })
    refine ⟨hview.trans hview', hasks'.trans ?_⟩
    rw [hasks, List.append_assoc]
    rfl

/-- A core without streams advances none. -/
theorem advanceStreams_none {s : State} {core : Nat} (h : ∀ t ∈ s.streams, t.core ≠ core) (asid : Nat) (fs : List Found) :
    advanceStreams s core asid fs = s := by
  have hnone : (s.streams.filter fun t => t.core == core && t.asid == asid) = [] :=
    List.filter_eq_nil_iff.2 fun t ht => by simp [h t ht]
  unfold advanceStreams
  exact foldl_keeps (p := fun t => t = s) (fun t f e => by subst e; rw [hnone]; rfl) fs rfl

/-! ## The accesses themselves -/

/-- The state once a lane instruction's entry has entered, before its requests are made. -/
def issued (s : State) (g : Group) (q : QEntry) (f : LaneForm) (act : List Nat) (o : GlobalOp) (fs : List Found) : State :=
  match o.res with
  | some kind => enterPending s g f act { newInfl s g q f kind [f.d.toNat] with
      needs := (foundRuns fs).length, vpages := pagesOf fs }
  | none => setG { s with nextId := s.nextId + 1 } (entered g f)

/-- What stands once the entry has entered: the entry is gone, its row pending, and memory reads the same. -/
structure Issued (s : State) (g : Group) (f : LaneForm) (o : GlobalOp) (t : State) (g' : Group) : Prop where
  group : curG t = some g'
  queue : g'.queue = g.queue.tail
  pend : g'.pend = if o.res.isSome then addRows g.pend [f.d.toNat] else g.pend
  reqs : t.reqs = s.reqs
  streams : t.streams = s.streams
  memory : SameMemory s t

theorem issued_spec {s : State} {g : Group} (hc : curG s = some g) (q : QEntry) (f : LaneForm) (act : List Nat)
    (o : GlobalOp) (fs : List Found) : ∃ g', Issued s g f o (issued s g q f act o fs) g' := by
  unfold issued
  cases hres : o.res with
  | none =>
    exact ⟨_, curG_setG (s := { s with nextId := s.nextId + 1 }) hc (entered_gid g f), entered_queue g f,
      by simp [hres], rfl, rfl, fun _ => rfl, fun _ => rfl, fun _ _ => rfl⟩
  | some kind =>
    exact ⟨_, curG_setG (s := { s with nextId := s.nextId + 1 }) hc (entered_gid _ f), entered_queue _ f,
      by simp [hres, newInfl], rfl, rfl, fun _ => rfl, fun _ => rfl, fun _ _ => rfl⟩

section
variable {s : State} {g : Group} {o : GlobalOp} {fs : List Found} (hstack : ∀ x ∈ fs, stackServes g x.va = false)
  (hbytes : g.stack = []) (hc : findGroup s.groups g.gid = some g)
  (hslots : slotsOk s g.core ((foundRuns fs).map (·.line)) = true)
include hbytes

theorem spillFor_empty : spillFor s g o fs = (s, true) := by
  unfold spillFor
  split
  · simp [spillCharged, hbytes]
  · rfl

include hstack hc hslots

/-- Accesses of which the stack cache serves none, with free slots: the entry enters, and each run makes its request. -/
theorem laneAccess_issued (f : LaneForm) (q : QEntry) (act : List Nat) :
    laneAccess f o g q act s fs =
      advanceStreams (pushRuns (issued s g q f act o fs) (reqOf g f o s.nextId) o (foundRuns fs)) g.core g.asid fs := by
  have hstk : (fs.filter fun x => o.kind != .atomic && o.kind != .red && stackServes g x.va) = [] :=
    List.filter_eq_nil_iff.2 fun x hx => by simp [hstack x hx]
  have hmem : (fs.filter fun x => !([] : List Found).contains x) = fs := List.filter_eq_self.2 fun x _ => by simp
  have hwaits : stackWaits s g o [] = false := by simp [stackWaits]
  have hfetch : stackFetch s g (laneWho g) (([] : List Found).map (·.va)) = (s, true) := rfl
  have horder : stackOrder s g o [] = (s, true) := if_pos (.inl rfl)
  unfold laneAccess issued
  simp only [hstk, hmem, hwaits, hslots, hfetch, spillFor_empty hbytes, horder, hc, Bool.not_true, Bool.or_false,
    Bool.false_eq_true, if_false, List.find?_nil, ite_self, Option.getD_some, List.foldl_nil]
  cases o.res <;> rfl

end

/-! ## A lane instruction on global memory -/

/-- Each of the four instructions does its operation at its addresses once it is issued. -/
theorem exec_globalForm {s : State} {g : Group} {q : QEntry} {f : LaneForm} {i : Instr} {o : GlobalOp} {addr : Nat → Dword}
    (hi : GlobalForm g q f i o addr) (hr : LaneReady s i g q) : exec i s = .next (laneGlobal s f o addr g q) := by
  cases hi with
  | ld m =>
    change execLd f m s = _
    rw [execLd, laneExec_ready hr]
    rfl
  | st m =>
    change execSt f m s = _
    rw [execSt, laneExec_ready hr]
    rfl
  | atom m hm =>
    change execAtom f m s = _
    rw [execAtom, laneExec_ready hr, hm]
    rfl
  | red m hm =>
    change execRed f m s = _
    rw [execRed, laneExec_ready hr, hm]
    rfl

section
variable {s : State} {g : Group} {q : QEntry} {f : LaneForm} {o : GlobalOp} {addr : Nat → Dword}

/-- A misaligned element of an active thread takes ALIGN (R143). -/
theorem laneGlobal_align {u : Nat} (hq : g.queue.head? = some q)
    (hu : (actives g q f).find? (fun u => decide ((addr u).toNat % o.size ≠ 0)) = some u) :
    laneGlobal s f o addr g q =
      takeTrap s g { code := 4, info := (addr u).toNat, lane := true, thr := u, tlpc := q.addr } := by
  unfold laneGlobal
  cases hact : actives g q f with
  | nil => simp [hact] at hu
  | cons t r =>
    rw [hact] at hu
    simp only [hu]
    rw [trapLane, hq]
    rfl

/-- With every element aligned and no fence in force, the elements are probed (R261). -/
theorem laneGlobal_probe (hact : actives g q f ≠ []) (hal : ∀ u ∈ actives g q f, (addr u).toNat % o.size = 0)
    (hf : fenced s g false = false) :
    laneGlobal s f o addr g q = probeG s g true (asking o.need ((actives g q f).map fun u => (u, (addr u).toNat)))
      (laneAccess f o g q (actives g q f)) := by
  have hnone : (actives g q f).find? (fun u => decide ((addr u).toNat % o.size ≠ 0)) = none :=
    List.find?_eq_none.2 fun u hu => by simp [hal u hu]
  unfold laneGlobal
  obtain ⟨t, r, htr⟩ := List.exists_cons_of_ne_nil hact
  rw [htr] at hnone
  simp only [htr, hnone, hf, Bool.false_eq_true, if_false]

end

/-! ## The pages that fail the probe -/

theorem mem_misses {s : State} {asid : Nat} {els : List Asked} {x : Asked × Hit} (hx : x ∈ misses s asid els) :
    x.1 ∈ els := by
  obtain ⟨e, he, h⟩ := List.mem_filterMap.1 hx
  split at h
  · cases h
  · cases h
    exact he

theorem asking_need {n : Need} {els : List (Nat × Nat)} {e : Asked} (he : e ∈ asking n els) : e.need = n := by
  obtain ⟨x, -, rfl⟩ := List.mem_map.1 he
  rfl

theorem mem_quarOf {ms : List (Asked × Hit)} {pa : Nat} {y : Asked} (h : quarOf ms = some (pa, y)) : ∃ x ∈ ms, x.1 = y := by
  obtain ⟨x, hx, h⟩ := List.exists_of_findSome?_eq_some h
  split at h
  · cases h
    exact ⟨x, hx, rfl⟩
  · cases h

/-- Of the failing elements, one for each page that has none yet, and no other (R261). -/
theorem onePerPage_spec (ms : List (Asked × Hit)) (seen : List Nat) :
    (∀ x ∈ onePerPage ms seen, x ∈ ms ∧ x.1.va / 4096 ∉ seen) ∧ ((onePerPage ms seen).map fun x => x.1.va / 4096).Nodup ∧
    ∀ x ∈ ms, x.1.va / 4096 ∉ seen → ∃ y ∈ onePerPage ms seen, y.1.va / 4096 = x.1.va / 4096 := by
  induction ms generalizing seen with
  | nil => exact ⟨by simp [onePerPage], by simp [onePerPage], by simp⟩
  | cons m r ih =>
    by_cases hm : m.1.va / 4096 ∈ seen
    · obtain ⟨hmem, hnodup, hcover⟩ := ih seen
      have hdrop : onePerPage (m :: r) seen = onePerPage r seen := if_pos (by simpa using hm)
      rw [hdrop]
      refine ⟨fun x hx => ⟨List.mem_cons_of_mem _ (hmem x hx).1, (hmem x hx).2⟩, hnodup, fun x hx hs => ?_⟩
      rcases List.mem_cons.1 hx with rfl | hx
      · exact absurd hm hs
      · exact hcover x hx hs
    · obtain ⟨hmem, hnodup, hcover⟩ := ih (m.1.va / 4096 :: seen)
      have hkeep : onePerPage (m :: r) seen = m :: onePerPage r (m.1.va / 4096 :: seen) := if_neg (by simpa using hm)
      rw [hkeep]
      refine ⟨fun x hx => ?_, ?_, fun x hx hs => ?_⟩
      · rcases List.mem_cons.1 hx with rfl | hx
        · exact ⟨List.mem_cons_self, hm⟩
        · exact ⟨List.mem_cons_of_mem _ (hmem x hx).1, fun h => (hmem x hx).2 (List.mem_cons_of_mem _ h)⟩
      · refine List.nodup_cons.2 ⟨fun h => ?_, hnodup⟩
        obtain ⟨x, hx, hpage⟩ := List.mem_map.1 h
        exact (hmem x hx).2 (hpage ▸ List.mem_cons_self)
      · by_cases hpage : x.1.va / 4096 = m.1.va / 4096
        · exact ⟨m, List.mem_cons_self, hpage.symm⟩
        · rcases List.mem_cons.1 hx with rfl | hx
          · exact absurd rfl hpage
          · obtain ⟨y, hy, e⟩ := hcover x hx (by simp [hpage, hs])
            exact ⟨y, List.mem_cons_of_mem _ hy, e⟩

theorem awaited_waits {ms : List (Asked × Hit)} {x : Asked × Hit} (hx : x ∈ awaited ms) : x.2.waits = true :=
  (List.mem_filter.1 ((onePerPage_spec _ []).1 x hx).1).2

/-! ### What is reported -/

theorem walked_faults (s : State) (asid va : Nat) : (walked s asid va).faults = s.faults := by
  unfold walked
  split
  · rfl
  · split <;> rfl

theorem walked_waits (s : State) (asid va : Nat) : (walked s asid va).waits = s.waits := by
  unfold walked
  split
  · rfl
  · split <;> rfl

/-- A report stands as long as no record goes. -/
theorem Reported.mono {s t : State} {g : Group} {va : Nat} {h : Hit} (hr : Reported s g va h) (hw : s.waits ⊆ t.waits)
    (hf : s.faults ⊆ t.faults) : Reported t g va h := by
  cases h with
  | absent pa => exact hr.imp fun w h => ⟨hw h.1, h.2⟩
  | xlate l e => exact hr.imp fun w h => ⟨hf h.1, h.2⟩
  | prot e => exact hr.imp fun w h => ⟨hf h.1, h.2⟩
  | _ => exact hr.elim

section
variable {source die : Nat} {grid : Option Nat} {g : Group}

theorem report_keeps {asid gid : Nat} {w : Waiter} (s : State) (va : Nat) (n : Need) (h : Hit) (thr : Nat) :
    s.waits ⊆ (report s asid source gid va n h w grid die thr).waits ∧
    s.faults ⊆ (report s asid source gid va n h w grid die thr).faults := by
  rw [← walked_waits s asid va, ← walked_faults s asid va]
  cases h <;> constructor <;> simp [report, addPageWait, addFault]

theorem report_reported (s : State) (va : Nat) (n : Need) {h : Hit} (hh : h.waits = true) (thr : Nat) :
    Reported (report s g.asid source g.gid va n h (.group g.gid) grid die thr) g va h := by
  cases h with
  | absent pa => exact ⟨_, List.mem_append_right _ (List.mem_singleton.2 rfl), rfl, rfl⟩
  | xlate l e => exact ⟨_, List.mem_append_right _ (List.mem_singleton.2 rfl), rfl, rfl, rfl, rfl, rfl, rfl⟩
  | prot e => exact ⟨_, List.mem_append_right _ (List.mem_singleton.2 rfl), rfl, rfl, rfl, rfl, rfl, rfl⟩
  | _ => cases hh

theorem reportEach_keeps {asid gid : Nat} {w : Waiter} (ms : List (Asked × Hit)) (s : State) :
    s.waits ⊆ (reportEach s asid source gid w grid die ms).waits ∧
    s.faults ⊆ (reportEach s asid source gid w grid die ms).faults := by
  induction ms generalizing s with
  | nil => exact ⟨fun _ h => h, fun _ h => h⟩
  | cons m r ih =>
    obtain ⟨hw, hf⟩ := report_keeps (asid := asid) (source := source) (gid := gid) (w := w) (grid := grid) (die := die)
      s m.1.va m.1.need m.2 m.1.thr
    obtain ⟨hw', hf'⟩ := ih (report s asid source gid m.1.va m.1.need m.2 w grid die m.1.thr)
    exact ⟨List.Subset.trans hw hw', List.Subset.trans hf hf'⟩

/-- Every failing page that is reported has its record (R261 to R265). -/
theorem reportEach_reported (ms : List (Asked × Hit)) (hms : ∀ x ∈ ms, x.2.waits = true) (s : State) :
    ∀ x ∈ ms, Reported (reportEach s g.asid source g.gid (.group g.gid) grid die ms) g x.1.va x.2 := by
  induction ms generalizing s with
  | nil => exact fun x hx => absurd hx (List.not_mem_nil)
  | cons m r ih =>
    obtain ⟨hm, hr⟩ := List.forall_mem_cons.1 hms
    have hfirst := report_reported (source := source) (grid := grid) (die := die) (g := g) s m.1.va m.1.need hm m.1.thr
    obtain ⟨hw, hf⟩ := reportEach_keeps (asid := g.asid) (source := source) (gid := g.gid) (w := .group g.gid)
      (grid := grid) (die := die) r
      (report s g.asid source g.gid m.1.va m.1.need m.2 (.group g.gid) grid die m.1.thr)
    exact List.forall_mem_cons.2 ⟨hfirst.mono hw hf, ih hr _⟩

end

/-! ### What a probe with failing pages does -/

section
variable {s : State} {g : Group} {els : List Asked} (isLane : Bool) (k : State → List Found → State)
variable {s0 : State} {ms : List (Asked × Hit)} {told : State}
  (hs0 : s0 = oneXlate s g.asid (els.map (·.va))) (hms : ms = misses s0 g.asid els) (hne : ms ≠ [])
  (htold : told = reportEach s0 g.asid (srcCore g.core) g.gid (.group g.gid) (some g.grid) (dieOf s0 g.core) (awaited ms))
include hs0 hms hne

/-- With a table out of reach the probe is made again later (R23). -/
theorem probeG_far (hfar : ∃ x ∈ ms, x.2 = .far) : probeG s g isLane els k = s0 := by
  obtain ⟨m, r, hmr⟩ := List.exists_cons_of_ne_nil hne
  have hany : (m :: r).any (fun x => x.2 == .far) = true := by
    obtain ⟨x, hx, e⟩ := hfar
    exact List.any_eq_true.2 ⟨x, hmr ▸ hx, by simp [e]⟩
  subst hs0
  simp only [probeG, ← hms, hmr, hany, if_true]

variable (hnear : ∀ x ∈ ms, x.2 ≠ .far)
include hnear htold

/-- A quarantined page is consumed once the others are reported (R262). -/
theorem probeG_quar {pa : Nat} {y : Asked} (hq : quarOf ms = some (pa, y)) :
    probeG s g isLane els k = consume told g 3 pa y.va y.need.acc := by
  obtain ⟨m, r, hmr⟩ := List.exists_cons_of_ne_nil hne
  have hany : (m :: r).any (fun x => x.2 == .far) = false :=
    List.any_eq_false.2 fun x hx => by simpa using hnear x (hmr ▸ hx)
  subst hs0 htold
  rw [hmr] at hq
  simp only [probeG, ← hms, hmr, hany, hq, Bool.false_eq_true, if_false]

/-- Pages that are only reported park the group till they are settled (R261). -/
theorem probeG_parks (hq : quarOf ms = none) (hd : ms.find? (fun x => x.2 == .devOnly) = none) :
    probeG s g isLane els k = parkG told g (.probe (awaited ms).length) .none isLane := by
  obtain ⟨m, r, hmr⟩ := List.exists_cons_of_ne_nil hne
  have hany : (m :: r).any (fun x => x.2 == .far) = false :=
    List.any_eq_false.2 fun x hx => by simpa using hnear x (hmr ▸ hx)
  subst hs0 htold
  rw [hmr] at hq hd
  simp only [probeG, ← hms, hmr, hany, hq, hd, Bool.false_eq_true, if_false]

/-- A device-only page is trap PROT, at once or once the others are settled (R268). -/
theorem probeG_devOnly {x : Asked × Hit} (hq : quarOf ms = none) (hd : ms.find? (fun x => x.2 == .devOnly) = some x) :
    probeG s g isLane els k = if awaited ms = [] then trapG told g isLane tProt x.1.va x.1.thr
      else parkG told { g with answer := some (tProt, dw x.1.va, x.1.thr) } (.probe (awaited ms).length) .none isLane := by
  obtain ⟨m, r, hmr⟩ := List.exists_cons_of_ne_nil hne
  have hany : (m :: r).any (fun x => x.2 == .far) = false :=
    List.any_eq_false.2 fun x hx => by simpa using hnear x (hmr ▸ hx)
  subst hs0 htold
  rw [hmr] at hq hd
  simp only [probeG, ← hms, hmr, hany, hq, hd, Bool.false_eq_true, if_false]

end

/-! ## The statement's two parts -/

section
variable {s : State} {g : Group} {q : QEntry} {f : LaneForm} {o : GlobalOp} (act : List Nat)

/-- Elements that all passed their probe, with free slots and nothing in the stack cache, make their requests. -/
theorem laneAccess_requests (hc : curG s = some g) {fs : List Found}
    (hstack : ∀ x ∈ fs, stackServes g x.va = false) (hbytes : g.stack = [])
    (hslots : slotsOk s g.core ((foundRuns fs).map (·.line)) = true) (hstreams : ∀ t ∈ s.streams, t.core ≠ g.core) :
    ∃ g', let t := laneAccess f o g q act s fs
      curG t = some g' ∧ g'.queue = g.queue.tail ∧
      g'.pend = (if o.res.isSome then addRows g.pend [f.d.toNat] else g.pend) ∧
      t.reqs.map asks4 =
        s.reqs.map asks4 ++ (foundRuns fs).map (fun r => (g.gid, o.kind, r.line, r.els.map (partOf o))) ∧
      ∀ a, cohByte t a = cohByte s a := by
  have hfind : findGroup s.groups g.gid = some g := by
    rw [curG_gid hc]
    exact hc
  obtain ⟨g', hissued⟩ := issued_spec hc q f act o fs
  obtain ⟨hview, hasks⟩ := pushRuns_asks (reqOf g f o s.nextId) o (foundRuns fs) (issued s g q f act o fs)
  have hadvance := advanceStreams_none (s := pushRuns (issued s g q f act o fs) (reqOf g f o s.nextId) o (foundRuns fs))
    (by rw [hview.streams, hissued.streams]; exact hstreams) g.asid fs
  refine ⟨g', ?_⟩
  dsimp only
  rw [laneAccess_issued hstack hbytes hfind hslots, hadvance]
  refine ⟨hview.curG.trans hissued.group, hissued.queue, hissued.pend, ?_, fun a => ?_⟩
  · rw [hasks, hissued.reqs]
    rfl
  · rw [hview.memory.1, hissued.memory.1]

/-- A group that parks at its probe keeps its queue and its rows, and makes no request. -/
theorem parkG_probe {told : State} (ha : Aside s told) (hc : curG s = some g) (n : Nat) :
    ∃ g', curG (parkG told g (.probe n) .none true) = some g' ∧ g'.park = .probe n ∧ g'.parkLane = true ∧
      g'.queue = g.queue ∧ g'.lanes = g.lanes ∧ (parkG told g (.probe n) .none true).reqs = s.reqs ∧
      SameMemory s (parkG told g (.probe n) .none true) :=
  ⟨_, curG_setG (ha.curG.trans hc) rfl, rfl, rfl, rfl, rfl, ha.reqs, ha.memory⟩

end

/-- What is reported and awaited is none of the other kinds of failure. -/
theorem waits_kinds {h : Hit} (hw : h.waits = true) : h ≠ .far ∧ h ≠ .devOnly ∧ ∀ pa, h ≠ .quar pa := by
  refine ⟨?_, ?_, fun pa => ?_⟩ <;> rintro rfl <;> cases hw

/-- Where only pages that are reported and awaited fail, there is none of the other kinds. -/
theorem all_waits {ms : List (Asked × Hit)} (h : ∀ x ∈ ms, x.2.waits = true) :
    (∀ x ∈ ms, x.2 ≠ .far) ∧ quarOf ms = none ∧ ms.find? (fun x => x.2 == .devOnly) = none := by
  refine ⟨fun x hx => (waits_kinds (h x hx)).1, List.findSome?_eq_none_iff.2 fun x hx => ?_,
    List.find?_eq_none.2 fun x hx => by simpa using (waits_kinds (h x hx)).2.1⟩
  split
  next pa hq => exact absurd hq ((waits_kinds (h x hx)).2.2 pa)
  next => rfl

/-- Settles O37: past ALIGN and the probe each run of each line makes its request; a page that fails the probe is reported,
consumed or answered. -/
theorem globalAccesses : Obligations.GlobalAccesses := by
  refine ⟨?_, ?_⟩
  · intro s g q f i o addr hi hr hact hal hf els s0 fs hms hstack hbytes hslots hstreams
    have ha : Aside s (learnAll s0 g.asid els) := (aside_oneXlate s g.asid _).trans (aside_learnAll s0 g.asid els)
    obtain ⟨g', hcur, hqueue, hpend, hasks, hcoh⟩ := laneAccess_requests (q := q) (f := f) (o := o) (actives g q f)
      (ha.curG.trans hr.1) hstack hbytes hslots (by rw [ha.streams]; exact hstreams)
    refine ⟨_, g', exec_globalForm hi hr, ?_⟩
    rw [laneGlobal_probe hact hal hf, probeG_found hms]
    refine ⟨hcur, hqueue, hpend, ?_, fun a => (hcoh a).trans (ha.memory.1 a)⟩
    rw [ha.reqs] at hasks
    exact hasks
  · intro s g q f i o addr hi hr
    refine ⟨fun u hu => ?_, ?_⟩
    · rw [exec_globalForm hi hr, laneGlobal_align hr.2.1 hu]
    · intro hact hal hf els s0 ms
      have hexec : exec i s = .next (probeG s g true els (laneAccess f o g q (actives g q f))) := by
        rw [exec_globalForm hi hr, laneGlobal_probe hact hal hf]
      refine ⟨?_, ?_⟩
      · intro hne hwaits
        obtain ⟨hnear, hquar, hdev⟩ := all_waits hwaits
        obtain ⟨-, hnodup, hcover⟩ := onePerPage_spec (ms.filter fun x => x.2.waits) []
        let told := reportEach s0 g.asid (srcCore g.core) g.gid (.group g.gid) (some g.grid) (dieOf s0 g.core) (awaited ms)
        have ha : Aside s told := (aside_oneXlate s g.asid _).trans (aside_reportEach s0 (awaited ms))
        obtain ⟨g', hcur, hpark, hlane, hqueue, hlanes, hreqs, hmem⟩ := parkG_probe ha hr.1 (awaited ms).length
        refine ⟨_, g', hexec, ?_⟩
        rw [probeG_parks true _ rfl rfl hne rfl hnear hquar hdev]
        exact ⟨hcur, hpark, hlane, hqueue, hlanes, hreqs,
          fun x hx => hcover x (List.mem_filter.2 ⟨hx, hwaits x hx⟩) (List.not_mem_nil), hnodup,
          reportEach_reported (awaited ms) (fun x hx => awaited_waits hx) s0, hmem⟩
      · intro told
        refine ⟨fun hfar => ?_, fun hnear => ⟨fun pa y hquar => ?_, fun x hquar hdev => ?_⟩⟩
        · have hne : ms ≠ [] := List.ne_nil_of_mem hfar.choose_spec.1
          rw [hexec, probeG_far true _ rfl rfl hne hfar]
        · obtain ⟨x, hx, hy⟩ := mem_quarOf hquar
          have hneed : y.need = o.need := asking_need (hy ▸ mem_misses hx)
          rw [hexec, probeG_quar true _ rfl rfl (List.ne_nil_of_mem hx) rfl hnear hquar, hneed]
        · have hne : ms ≠ [] := List.ne_nil_of_mem (List.mem_of_find?_eq_some hdev)
          rw [hexec, probeG_devOnly true _ rfl rfl hne rfl hnear hquar hdev]
          refine ⟨fun hnil => ?_, fun hsome => ?_⟩
          · have htold : told = s0 := by
              simp only [told, hnil]
              rfl
            rw [if_pos hnil]
            simp only [trapG, trapLane, hr.2.1]
            exact congrArg (fun s1 => Host.Outcome.next (takeTrap s1 g _)) htold
          · rw [if_neg hsome]
            rfl

end Sys2Proof.Machine
end

section
/-! PROOF. A write of the device that is sent: the lines it touches are settled at their homes first, then each is written there. -/

namespace Sys2Proof.Machine

/-! ## Lines that are settled -/

/-- A line whose home's sector is in the LLC, or whose home is known to be another package: one more access of it brings no
sector in. -/
def Settled (s : State) (line : Nat) : Prop :=
  line / 64 ∈ s.mem.sectors ∨ (remote s line = true ∧ (s.pkg.homes.find (line / 1024)).isSome)

/-- A home position that has been recorded tells whether a line is remote, whatever memory holds (R307). -/
theorem remote_congr {s t : State} {line : Nat} (hpos : t.pkg.podPos = s.pkg.podPos)
    (hhome : t.pkg.homes.find (line / 1024) = s.pkg.homes.find (line / 1024))
    (hknown : (s.pkg.homes.find (line / 1024)).isSome) : remote t line = remote s line := by
  obtain ⟨b, hb⟩ := Option.isSome_iff_exists.1 hknown
  unfold remote podHome podByte
  rw [hpos, hhome, hb]

/-- A settled line stays settled as long as no sector leaves and no recorded home position changes. -/
theorem Settled.mono {s t : State} {line : Nat} (h : Settled s line) (hsec : ∀ p ∈ s.mem.sectors, p ∈ t.mem.sectors)
    (hpos : t.pkg.podPos = s.pkg.podPos)
    (hhomes : ∀ r, (s.pkg.homes.find r).isSome → t.pkg.homes.find r = s.pkg.homes.find r) : Settled t line := by
  rcases h with h | ⟨hr, hk⟩
  · exact .inl (hsec _ h)
  · refine .inr ⟨(remote_congr hpos (hhomes _ hk) hk).trans hr, ?_⟩
    rw [hhomes _ hk]
    exact hk

/-- No holder has a line dirty, the lines of a list are settled, the LLC has room for `n` more sectors, and each byte has its
value at its home. -/
structure Calm (home : Nat → Byte) (n : Nat) (ls : List Nat) (s : State) : Prop where
  wf : memWf s.mem = true
  lines : ∀ l ∈ s.mem.l1, l.kind ≠ .owned
  stash : ∀ c ∈ s.crews, c.stash = []
  home : ∀ a, homeByte s.mem a = home a
  room : s.mem.sectors.length + n ≤ 8192
  settled : ∀ l ∈ ls, Settled s l

section
variable {home : Nat → Byte} {n : Nat} {ls : List Nat} {s : State}

theorem Calm.of_subset {ls' : List Nat} (h : Calm home n ls s) (hsub : ∀ l ∈ ls', l ∈ ls) : Calm home n ls' s :=
  ⟨h.wf, h.lines, h.stash, h.home, h.room, fun l hl => h.settled l (hsub l hl)⟩

/-! ### An access reaches its home -/

/-- With room in its slice, or for a line that is settled, a sector may come in and none goes out (R125). -/
theorem touchSector_room {line : Nat} (h : s.mem.sectors.length < 8192 ∨ Settled s line) :
    ∃ sectors frames, touchSector s line = { s with mem := { s.mem with sectors := sectors, frames := frames } } ∧
      (∀ p ∈ s.mem.sectors, p ∈ sectors) ∧ sectors.length ≤ s.mem.sectors.length + 1 ∧
      (Settled s line → sectors.length ≤ s.mem.sectors.length) ∧ (remote s line = true ∨ line / 64 ∈ sectors) := by
  unfold touchSector
  dsimp only
  by_cases hhead : s.mem.sectors.head? = some (line / 64) ∨ remote s line = true
  · rw [if_pos hhead]
    exact ⟨_, _, rfl, fun _ h => h, Nat.le_succ _, fun _ => le_rfl, hhead.symm.imp_right List.mem_of_mem_head?⟩
  · rw [if_neg hhead]
    by_cases hmem : line / 64 ∈ s.mem.sectors
    · rw [if_pos (by simpa using hmem)]
      have hlen : (s.mem.sectors.filter fun p => p ≠ line / 64).length < s.mem.sectors.length :=
        List.length_filter_lt_length_iff_exists.2 ⟨_, hmem, by simp⟩
      refine ⟨_, _, rfl, fun p hp => ?_, ?_, fun _ => ?_, .inr List.mem_cons_self⟩
      · by_cases e : p = line / 64
        · exact e ▸ List.mem_cons_self
        · exact List.mem_cons_of_mem _ (List.mem_filter.2 ⟨hp, by simpa using e⟩)
      · rw [List.length_cons]
        omega
      · rw [List.length_cons]
        omega
    · have hnew : ¬ Settled s line := fun hs => hs.elim hmem fun hr => hhead (.inr hr.1)
      have hkeep : sectorRoom s (line / 64) = s :=
        if_pos (lt_of_le_of_lt (List.length_filter_le _ _) (h.resolve_right hnew))
      rw [if_neg (by simpa using hmem), hkeep]
      exact ⟨_, _, rfl, fun p hp => List.mem_cons_of_mem _ hp, le_rfl, fun hs => absurd hs hnew, .inr List.mem_cons_self⟩

/-- A package that uses a line records its region's home position; those that it has recorded stay (R307). -/
theorem useHome_homes (s : State) (line : Nat) :
    ∃ homes, useHome s line = { s with pkg := { s.pkg with homes := homes } } ∧
      (∀ r, (s.pkg.homes.find r).isSome → homes.find r = s.pkg.homes.find r) ∧
      (podHome s line = none ∨ (homes.find (line / 1024)).isSome) := by
  unfold useHome
  cases hp : podHome s line with
  | none => exact ⟨_, rfl, fun _ _ => rfl, .inl rfl⟩
  | some b =>
    cases hf : s.pkg.homes.find (line / 1024) with
    | some c => exact ⟨_, rfl, fun _ _ => rfl, .inr (by rw [hf]; rfl)⟩
    | none =>
      refine ⟨_, rfl, fun r hr => Cells.find_put_ne _ _ fun e => ?_, .inr (by rw [Cells.find_put_same]; rfl)⟩
      rw [e, hf] at hr
      cases hr

/-- A line with no home position stays so as its package uses it. -/
theorem podHome_useHome_none {line : Nat} (h : podHome s line = none) : useHome s line = s := by
  unfold useHome
  rw [h]

theorem calm_useHome (line : Nat) (h : Calm home n ls s) : Calm home n ls (useHome s line) := by
  obtain ⟨homes, he, hkept, -⟩ := useHome_homes s line
  rw [he]
  exact ⟨h.wf, h.lines, h.stash, h.home, h.room, fun l hl => (h.settled l hl).mono (fun _ hp => hp) rfl hkept⟩

/-- After its package has used it, a line that is remote has its home position recorded. -/
theorem remote_useHome {line : Nat} (hr : remote (useHome s line) line = true) :
    ((useHome s line).pkg.homes.find (line / 1024)).isSome := by
  obtain ⟨homes, he, -, hnone | hsome⟩ := useHome_homes s line
  · rw [podHome_useHome_none hnone, remote, hnone] at hr
    cases hr
  · rw [he]
    exact hsome

/-- The first access of a line that its package uses settles it. -/
theorem calm_touchSector_new {line : Nat} (hknown : remote s line = true → (s.pkg.homes.find (line / 1024)).isSome)
    (h : Calm home (n + 1) ls s) : Calm home n (line :: ls) (touchSector s line) := by
  have hroom := h.room
  obtain ⟨sectors, frames, he, hkept, hlen, -, hin⟩ := touchSector_room (s := s) (line := line) (.inl (by omega))
  rw [he]
  refine ⟨h.wf, h.lines, h.stash, h.home, ?_, List.forall_mem_cons.2 ⟨?_, fun l hl => ?_⟩⟩
  · change sectors.length + n ≤ 8192
    omega
  · rcases hin with hr | hin
    · exact Settled.mono (s := s) (.inr ⟨hr, hknown hr⟩) hkept rfl fun _ _ => rfl
    · exact .inl hin
  · exact (h.settled l hl).mono hkept rfl fun _ _ => rfl

/-- A further access of a settled line brings nothing in. -/
theorem calm_touchSector_settled {line : Nat} (hl : line ∈ ls) (h : Calm home n ls s) :
    Calm home n ls (touchSector s line) := by
  have hroom := h.room
  have hset := h.settled line hl
  obtain ⟨sectors, frames, he, hkept, -, hlen, -⟩ := touchSector_room (.inr hset)
  rw [he]
  refine ⟨h.wf, h.lines, h.stash, h.home, ?_, fun l hl => (h.settled l hl).mono hkept rfl fun _ _ => rfl⟩
  have := hlen hset
  change sectors.length + n ≤ 8192
  omega

theorem owe_frame (s : State) (rs : List Nat) : ∃ next gov, owe s rs = { s with nextId := next, gov := gov } := by
  unfold owe
  split
  · exact ⟨_, _, rfl⟩
  · obtain ⟨gov, h⟩ := claim_frame { s with nextId := s.nextId + 1 } (.device s.nextId) clsDemand 64 rs
    exact ⟨_, gov, h⟩

theorem calm_owe (rs : List Nat) (h : Calm home n ls s) : Calm home n ls (owe s rs) := by
  obtain ⟨next, gov, he⟩ := owe_frame s rs
  rw [he]
  exact ⟨h.wf, h.lines, h.stash, h.home, h.room, h.settled⟩

theorem calm_countOwn (line : Nat) (h : Calm home n ls s) : Calm home n ls (countOwn s line) := by
  unfold countOwn
  dsimp only
  split
  · exact h
  · exact ⟨h.wf, h.lines, h.stash, h.home, h.room, h.settled⟩

/-- An access by a unit of the device settles its line (R125, R128, R307). -/
theorem calm_deviceAt {line : Nat} (h : Calm home (n + 1) ls s) : Calm home n (line :: ls) (deviceAt s line) :=
  calm_countOwn line (calm_touchSector_new remote_useHome (calm_useHome line (calm_owe _ h)))

theorem calm_deviceEach (xs : List Nat) (h : Calm home (xs.length + n) ls s) :
    Calm home n (xs ++ ls) (xs.foldl deviceAt s) := by
  induction xs generalizing s ls with
  | nil => exact Nat.zero_add n ▸ h
  | cons x xs ih =>
    have hx : Calm home (xs.length + n + 1) ls s := by
      rw [List.length_cons] at h
      rwa [Nat.add_right_comm]
    exact (ih (calm_deviceAt (line := x) hx)).of_subset fun l hl => by
      simp only [List.mem_append, List.mem_cons] at hl ⊢
      tauto

/-! ### A store at a home -/

/-- A recall with no dirty copy drops copies, and writes nothing back (R121, R124). -/
theorem calm_recallNow (w : Writer) (line : Nat) (h : Calm home n ls s) : Calm home n ls (recallNow s w line) := by
  have hstash : stashDirty s line = [] := by
    unfold stashDirty
    rw [List.flatMap_eq_nil_iff]
    intro c hc
    rw [h.stash c hc, List.flatMap_nil]
  have howned : (s.mem.l1.filter fun l => l.line = line ∧ l.kind = .owned) = [] := by
    rw [List.filter_eq_nil_iff]
    intro l hm
    simp [h.lines l hm]
  unfold recallNow recallStash recallL1
  simp only [hstash, List.foldl_nil, howned]
  refine ⟨h.wf, fun l hm => h.lines l (List.mem_filter.1 hm).1, fun c hc => ?_, h.home, h.room,
    fun l hl => (h.settled l hl).mono (fun _ hp => hp) rfl fun _ _ => rfl⟩
  obtain ⟨x, hx, rfl⟩ := List.mem_map.1 hc
  dsimp only
  rw [h.stash x hx, List.map_nil]

theorem homePuts_other (m : Mem) (pa : Nat) (bs : List Byte) :
    (homePuts m pa bs).l1 = m.l1 ∧ (homePuts m pa bs).sectors = m.sectors := by
  induction bs generalizing m pa with
  | nil => exact ⟨rfl, rfl⟩
  | cons b r ih => exact ih (homePut m pa b) (pa + 1)

theorem poolFold_other (c : Cells Byte) (m : Mem) :
    (c.foldl (fun m e => poolPut m e.1 e.2) m).l1 = m.l1 ∧ (c.foldl (fun m e => poolPut m e.1 e.2) m).sectors = m.sectors :=
  foldl_keeps (p := fun t : Mem => t.l1 = m.l1 ∧ t.sectors = m.sectors) (f := fun m (e : Nat × Byte) => poolPut m e.1 e.2)
    (fun _ _ h => h) c ⟨rfl, rfl⟩

theorem lineToPool_other (m : Mem) (line : Nat) :
    (lineToPool m line).l1 = m.l1 ∧ (lineToPool m line).sectors = m.sectors := by
  unfold lineToPool
  simp only [(poolFold_other _ _).1, (poolFold_other _ _).2, and_self]

/-- The values at a home with bytes written over those from an address on. -/
def overlay (home : Nat → Byte) (pa : Nat) (bs : List Byte) (a : Nat) : Byte :=
  if pa ≤ a ∧ a < pa + bs.length then bs.getD (a - pa) 0 else home a

theorem calm_homePuts (pa : Nat) (bs : List Byte) (h : Calm home n ls s) :
    Calm (overlay home pa bs) n ls { s with mem := homePuts s.mem pa bs } := by
  obtain ⟨hl1, hsec⟩ := homePuts_other s.mem pa bs
  refine ⟨memWf_homePuts pa bs h.wf, ?_, h.stash, fun a => ?_, ?_, fun l hl => ?_⟩
  · rw [hl1]
    exact h.lines
  · rw [homeByte_homePuts, h.home]
    rfl
  · rw [hsec]
    exact h.room
  · exact (h.settled l hl).mono (fun p hp => hsec.symm ▸ hp) rfl fun _ _ => rfl

theorem calm_sendHome (line : Nat) (h : Calm home n ls s) : Calm home n ls (sendHome s line) := by
  obtain ⟨hl1, hsec⟩ := lineToPool_other s.mem line
  unfold sendHome
  split
  · refine ⟨memWf_lineToPool line h.wf, ?_, h.stash, fun a => (homeByte_lineToPool line h.wf a).trans (h.home a), ?_,
      fun l hl => (h.settled l hl).mono (fun p hp => hsec.symm ▸ hp) rfl fun _ _ => rfl⟩
    · rw [hl1]
      exact h.lines
    · rw [hsec]
      exact h.room
  · exact h

/-- A store within a settled line writes its bytes at their home and no other (R124, R125). -/
theorem calm_homeStore {w : Writer} (hw : w.late = false) {pa : Nat} {bs : List Byte} (hb : bs ≠ [])
    (h1 : pa % 64 + bs.length ≤ 64) (hl : pa / 64 ∈ ls) (h : Calm home n ls s) :
    Calm (overlay home pa bs) n ls (homeStore s w pa bs) := by
  have hrecall : recallBy (touchSector s (pa / 64)) w (pa / 64) = recallNow (touchSector s (pa / 64)) w (pa / 64) :=
    if_neg (by simp [hw])
  rw [homeStore_one hb h1, storedHome, hrecall]
  exact calm_sendHome _ (calm_homePuts pa bs (calm_recallNow w _ (calm_touchSector_settled hl h)))

/-- A write adds only its messages to what its store leaves (R168). -/
theorem writeLine_frame (s : State) (w : Writer) (pa : Nat) (bs : List Byte) :
    ∃ next coh, writeLine s w pa bs = { homeStore s w pa bs with nextId := next, coh := coh } := by
  unfold writeLine
  dsimp only
  split
  · exact ⟨_, _, rfl⟩
  · refine foldl_keeps (p := fun t => ∃ next coh, t = { homeStore s w pa bs with nextId := next, coh := coh }) ?_ _
      ⟨(homeStore s w pa bs).nextId, (homeStore s w pa bs).coh, rfl⟩
    rintro _ o ⟨next, coh, rfl⟩
    exact ⟨_, _, rfl⟩

theorem calm_writeLine {w : Writer} (hw : w.late = false) {pa : Nat} {bs : List Byte} (hb : bs ≠ [])
    (h1 : pa % 64 + bs.length ≤ 64) (hl : pa / 64 ∈ ls) (h : Calm home n ls s) :
    Calm (overlay home pa bs) n ls (writeLine s w pa bs) := by
  obtain ⟨next, coh, he⟩ := writeLine_frame s w pa bs
  have hs := calm_homeStore hw hb h1 hl h
  rw [he]
  exact ⟨hs.wf, hs.lines, hs.stash, hs.home, hs.room, hs.settled⟩

end

/-! ## The lines of a write -/

theorem mem_linesOf {pa n l : Nat} : l ∈ linesOf pa n ↔ n ≠ 0 ∧ pa / 64 ≤ l ∧ 64 * l < pa + n := by
  unfold linesOf
  rw [List.mem_filterMap]
  constructor
  · rintro ⟨i, -, h⟩
    split at h
    next hi =>
      cases h
      omega
    · cases h
  · rintro ⟨hn, hlo, hhi⟩
    refine ⟨l - pa / 64, List.mem_range.2 (by omega), ?_⟩
    rw [if_pos (by omega)]
    congr 1
    omega

theorem nodup_linesOf (pa n : Nat) : (linesOf pa n).Nodup := by
  refine List.Nodup.filterMap (fun i j l hi hj => ?_) List.nodup_range
  split at hi
  · split at hj
    · cases hi
      have := Option.some.inj hj
      omega
    · cases hj
  · cases hi

/-- Bytes touch no more lines than there are bytes. -/
theorem length_linesOf_le (pa n : Nat) : (linesOf pa n).length ≤ n := by
  have hsub : linesOf pa n ⊆ List.range' (pa / 64) n := fun l hl => by
    rw [mem_linesOf] at hl
    exact List.mem_range'_1.2 (by omega)
  have hlen := ((nodup_linesOf pa n).subperm hsub).length_le
  rwa [List.length_range'] at hlen

/-! ## A write, line by line -/

/-- Bytes written in two parts are written whole. -/
theorem overlay_split (home : Nat → Byte) (pa m : Nat) (bs : List Byte) :
    overlay (overlay home pa (bs.take m)) (pa + m) (bs.drop m) = overlay home pa bs := by
  funext a
  unfold overlay
  rw [List.length_take, List.length_drop]
  by_cases hlo : pa + m ≤ a
  · by_cases hhi : a < pa + bs.length
    · have hi : m + (a - (pa + m)) = a - pa := by omega
      rw [if_pos (by omega), if_pos (by omega), List.getD_eq_getElem?_getD, List.getElem?_drop, hi,
        List.getD_eq_getElem?_getD]
    · rw [if_neg (by omega), if_neg (by omega), if_neg (by omega)]
  · rw [if_neg (by omega)]
    by_cases hin : pa ≤ a ∧ a < pa + bs.length
    · rw [if_pos (by omega), if_pos hin, List.getD_eq_getElem?_getD, List.getElem?_take_of_lt (by omega),
        List.getD_eq_getElem?_getD]
    · rw [if_neg (by omega), if_neg hin]

/-- Bytes written line by line, each line settled before: they are at their home, and no other byte has changed. -/
theorem homeByte_writeLines {fuel : Nat} {home : Nat → Byte} {ls : List Nat} {s : State} {w : Writer} (hw : w.late = false)
    {pa : Nat} {bs : List Byte} (hfuel : pa % 64 + bs.length ≤ 64 * fuel)
    (hls : ∀ l ∈ linesOf pa bs.length, l ∈ ls) (h : Calm home 0 ls s) (a : Nat) :
    homeByte (writeLines s w pa bs fuel).mem a = overlay home pa bs a := by
  induction fuel generalizing home s w pa bs with
  | zero =>
    have hnil : bs = [] := List.eq_nil_of_length_eq_zero (by omega)
    subst hnil
    exact (h.home a).trans (if_neg (by simp)).symm
  | succ fuel ih =>
    cases bs with
    | nil => exact (h.home a).trans (if_neg (by simp)).symm
    | cons b r =>
      have hone : pa % 64 + ((b :: r).take (64 - pa % 64)).length ≤ 64 := by
        rw [List.length_take]
        omega
      have hne : (b :: r).take (64 - pa % 64) ≠ [] := by
        rw [Ne, List.take_eq_nil_iff]
        exact fun e => e.elim (by omega) (List.cons_ne_nil b r)
      have hfirst : pa / 64 ∈ ls := hls _ (mem_linesOf.2 (by rw [List.length_cons]; omega))
      have hrest : (pa + (64 - pa % 64)) % 64 + ((b :: r).drop (64 - pa % 64)).length ≤ 64 * fuel := by
        rw [List.length_drop]
        omega
      rw [writeLines, ← overlay_split home pa (64 - pa % 64) (b :: r)]
      · refine ih (w := { w with via := w.via.map fun v => (v.1, v.2 + (64 - pa % 64)) }) hw hrest (fun l hl => hls l ?_)
          (calm_writeLine hw hne hone hfirst h)
        rw [mem_linesOf, List.length_drop] at hl
        exact mem_linesOf.2 (by omega)
      · exact List.cons_ne_nil b r

/-! ## The write itself -/

/-- A write of the device that is charged as it is made: its bytes are at their home, and no other byte has changed (R124). -/
theorem homeByte_sliceWrite {s : State} (pa : Nat) (bs : List Byte) (hwf : memWf s.mem = true)
    (hlines : ∀ l ∈ s.mem.l1, l.kind ≠ .owned) (hstash : ∀ c ∈ s.crews, c.stash = [])
    (hroom : s.mem.sectors.length + bs.length < 8192) (a : Nat) :
    homeByte (sliceWrite s pa bs).mem a = overlay (homeByte s.mem) pa bs a := by
  have hlen := length_linesOf_le pa bs.length
  have hcalm : Calm (homeByte s.mem) ((linesOf pa bs.length).length + 0) [] s :=
    ⟨hwf, hlines, hstash, fun _ => rfl, by omega, fun l hl => absurd hl List.not_mem_nil⟩
  refine homeByte_writeLines rfl (by omega) (fun l hl => List.mem_append_left _ hl) (calm_deviceEach _ hcalm) a

/-- Settles O23: a write that is sent overlays its bytes on what the home reads; one that is not joins those that wait. -/
theorem deviceWriteReadsBack : Obligations.DeviceWriteReadsBack := by
  intro s pa bs
  refine ⟨fun hshut => if_neg hshut, fun hopen hwf hlines hstash hroom => ?_⟩
  have hsent : devWrite s pa bs = sliceWrite s pa bs := if_pos hopen
  rw [hsent]
  have hhome := homeByte_sliceWrite pa bs hwf hlines hstash hroom
  refine ⟨fun k hk => ?_, fun a ha => ?_⟩
  · rw [hhome, overlay, if_pos (by omega), Nat.add_sub_cancel_left]
  · rw [hhome, overlay, if_neg (by omega)]

end Sys2Proof.Machine
end

section
/-! PROOF. Scalar registers, and the turns that run an instruction. -/

namespace Sys2Proof.Machine

/-- Settles O8: by what a scalar register reads after a write. -/
theorem scalarRegisters : Obligations.ScalarRegisters := by
  intro g n m v
  refine ⟨scal_zero g, ?_, if_pos rfl⟩
  have hsame : m.toNat = n.toNat ↔ m = n := BitVec.toNat_inj
  have hzero : n.toNat = 0 ↔ n = 0 := BitVec.toNat_inj (y := 0)
  simp only [scal_setScal, hsame, ne_eq, hzero]

/-! ## Turns -/

/-- The turn at the head of the agenda is taken off it (log 2). -/
theorem takeTurn_agenda {s : State} {t : Turn} {rest : List Turn} (h : s.agenda = t :: rest) :
    takeTurn s = (t, { s with agenda := rest }) := by
  simp only [takeTurn, h]

/-- A step whose turn comes to an instruction runs it. -/
theorem step_of_run {s t : State} {turn : Turn} {rest : List Turn} {i : Instr} (h : s.agenda = turn :: rest)
    (hm : move { s with agenda := rest } turn = .run i t) : step s = settled s (exec i t) := by
  simp only [step, takeTurn_agenda h, hm]

/-! What having a turn leaves of a group. -/

section
variable (s : State) (g : Group) (lane : Bool)

@[simp] theorem offered_core : (offered s g lane).core = g.core := by cases lane <;> rfl
@[simp] theorem offered_asid : (offered s g lane).asid = g.asid := by cases lane <;> rfl
@[simp] theorem offered_spc : (offered s g lane).spc = g.spc := by cases lane <;> rfl
@[simp] theorem offered_queue : (offered s g lane).queue = g.queue := by cases lane <;> rfl
@[simp] theorem offered_answer : (offered s g lane).answer = g.answer := by cases lane <;> rfl

end

/-- The scalar turn of a group that may issue runs the word at SPC (R37, R50). -/
theorem scalarTurn_run {s : State} {gid : Nat} {g : Group} {w : Word} {i : Instr} (hg : findGroup s.groups gid = some g)
    (hi : canIssue s g = true) (hp : g.park = .none) (hr : g.run = []) (hs : g.frozenS = false) (hl : g.frozenL = false)
    (hw : g.pairWait = none) (ha : g.answer = none) (ho : passedOver s g scalarCould = false)
    (hf : fetchUnit (offer s gid false) g.core g.asid g.spc.toNat = .word w) (hd : decodeScalar w = some i) :
    scalarTurn s gid = .run i (learn (offer s gid false) g.asid g.spc.toNat) := by
  simp [scalarTurn, hg, hi, hp, hr, hs, hl, hw, ha, ho, hf, hd]

/-- The lane turn of a group that may issue and holds a pipe runs the entry at the head of its queue (R34, R50). -/
theorem laneTurn_run {s : State} {gid : Nat} {g : Group} {q : QEntry} {i : Instr} (hg : findGroup s.groups gid = some g)
    (hi : canIssue s g = true) (hp : g.park = .none) (hb : g.pipe.isSome = true) (ha : g.answer = none)
    (hq : g.queue.head? = some q) (he : entryInstr q = some i) (ho : passedOver s g laneCould = false) :
    laneTurn s gid = .run i (offer s gid true) := by
  obtain ⟨l, hl⟩ := List.head?_eq_some_iff.1 hq
  have hpipe : g.pipe ≠ none := Option.isSome_iff_ne_none.1 hb
  simp [laneTurn, hg, hi, hp, hpipe, ha, ho, hl, he]

/-- The micro turn of a ray in a slot, with budget left, runs the word at its pc (R222, R236). -/
theorem microTurn_run {s : State} {ray core : Nat} {r : Ray} {i : Instr} (hr : findRay s ray = some r)
    (hs : r.stage = .slot core) (hm : rayMay s r = true) (hb : r.steps < r.budget)
    (hd : decodeMicro (microWord s r core) = some i) : microTurn s ray = .run i { s with curRay := ray } := by
  simp only [microTurn, hr, hs, hm, Nat.not_le.2 hb, hd, Bool.not_true, Bool.false_eq_true, if_false]

/-- Settles O4: each kind of turn comes to its instruction, which the step runs. -/
theorem stepRunsTheDecodedInstruction : Obligations.StepRunsTheDecodedInstruction := by
  refine ⟨?_, ?_, ?_, ?_⟩
  · intro s gid rest g w i h hg hi hp hr hs hl hw ha ho hf hd
    exact step_of_run h (scalarTurn_run (s := { s with agenda := rest }) hg hi hp hr hs hl hw ha ho hf hd)
  · intro s gid rest g q i h hg hi hp hb ha hq he ho
    exact step_of_run h (laneTurn_run (s := { s with agenda := rest }) hg hi hp hb ha hq he ho)
  · intro s ray rest r core i h hr hs hm hb hd
    exact step_of_run h (microTurn_run (s := { s with agenda := rest }) hr hs hm hb hd)
  · intro s rest i h
    exact step_of_run h rfl

end Sys2Proof.Machine
end

section
/-! PROOF. Scalar instructions: the registers that each one names, HAZARD, and the traps of an access of memory. -/

namespace Sys2Proof.Machine

/-! ## HAZARD -/

/-- An instruction that computes one register from others is one scalar operation. -/
theorem exec_computes {i : Instr} {d : SReg} {srcs : List SReg} (h : computes i = some (d, srcs)) (s : State) :
    ∃ v, exec i s = .next (scalarOp s d srcs v) := by
  cases i with
  | scAdd | scSub | scMul | scMulh | scDiv | scRem | scAnd | scOr | scXor | scShl | scShr | scSra | scAddImm | scSubImm
  | scMulImm | scMulhImm | scDivImm | scRemImm | scAndImm | scOrImm | scXorImm | scShlImm | scShrImm | scSraImm | scBitc
  | scSet | scSel | scMov | scLimm =>
    cases h
    exact ⟨_, rfl⟩
  | _ => cases h

/-- Any other scalar instruction that names registers is issued with those. -/
theorem exec_names {i : Instr} {regs : List SReg} (h : names i = some regs) (s : State) :
    ∃ body, exec i s = .next (scalarIssue s regs body) := by
  cases i with
  | scLd | scSt | scAtom | scBr | scCall | scRet | scPush | scFetch | scCsrr | scCsrw =>
    cases h
    exact ⟨_, rfl⟩
  | _ => cases h

/-! ## The probe of one address that fails -/

section
variable {s : State} {g : Group} {x : Nat} {n : Need}

/-- One failing address is the one failing element of its probe. -/
theorem misses_single (hne : ∀ pa pte, look s g.asid x n ≠ .ok pa pte) :
    misses s g.asid (asking n [(0, x)]) = [({ thr := 0, va := x, need := n }, look s g.asid x n)] := by
  simp only [misses, asking, List.map_cons, List.map_nil, List.filterMap_cons, List.filterMap_nil]

variable {k : State → Found → State}

/-- A scalar access that is aligned and that no fence holds is a probe of its address (R261, R404). -/
theorem scalarMem_probe {v : Dword} (ha : v.toNat % 8 = 0) (hf : fenced s g true = false) :
    ∃ k', scalarMem s g v n k = probeG s g false (asking n [(0, v.toNat)]) k' := by
  simp [scalarMem, ha, hf]

theorem scalarMem_align {v : Dword} (ha : v.toNat % 8 ≠ 0) :
    scalarMem s g v n k = takeTrap s g { code := 4, info := v.toNat } := if_pos ha

variable {k : State → List Found → State}

/-- A page that is reported parks the group at the scalar instruction, till that one page is settled (R261). -/
theorem probeG_single_waits (hw : (look s g.asid x n).waits = true) :
    probeG s g false (asking n [(0, x)]) k =
      parkG (report s g.asid (srcCore g.core) g.gid x n (look s g.asid x n) (.group g.gid) (some g.grid)
        (dieOf s g.core) 0) g (.probe 1) .none false := by
  have hne : ∀ pa pte, look s g.asid x n ≠ .ok pa pte := by
    intro pa pte h
    rw [h] at hw
    cases hw
  have hms := misses_single hne
  have hall := all_waits (ms := misses s g.asid (asking n [(0, x)])) (by simp [hms, hw])
  have hone : awaited (misses s g.asid (asking n [(0, x)])) = misses s g.asid (asking n [(0, x)]) := by
    simp [awaited, hms, hw, onePerPage]
  have hs0 : oneXlate s g.asid ((asking n [(0, x)]).map (·.va)) = s := oneXlate_single s g.asid x
  rw [probeG_parks false k hs0.symm rfl (by simp [hms]) rfl hall.1 hall.2.1 hall.2.2, hone, hms]
  rfl

/-- A device-only page takes PROT at once (R268). -/
theorem probeG_single_devOnly (h : look s g.asid x n = .devOnly) :
    probeG s g false (asking n [(0, x)]) k = takeTrap s g { code := 11, info := x } := by
  have hms : misses s g.asid (asking n [(0, x)]) = [({ thr := 0, va := x, need := n }, .devOnly)] := by
    rw [misses_single (by simp [h]), h]
  have hs0 : oneXlate s g.asid ((asking n [(0, x)]).map (·.va)) = s := oneXlate_single s g.asid x
  rw [probeG_devOnly false k hs0.symm hms.symm (by simp) rfl (by simp) rfl rfl]
  rfl

/-- A quarantined page consumes poison (R282). -/
theorem probeG_single_quar {pa : Nat} (h : look s g.asid x n = .quar pa) :
    probeG s g false (asking n [(0, x)]) k = consume s g 3 pa x n.acc := by
  have hms : misses s g.asid (asking n [(0, x)]) = [({ thr := 0, va := x, need := n }, .quar pa)] := by
    rw [misses_single (by simp [h]), h]
  have hs0 : oneXlate s g.asid ((asking n [(0, x)]).map (·.va)) = s := oneXlate_single s g.asid x
  rw [probeG_quar false k hs0.symm hms.symm (by simp) rfl (by simp) rfl]
  rfl

end

/-! ## The three scalar accesses -/

section
variable {s : State} {g : Group} {d a b : SReg} {off : BitVec 8} {ord : MOrd} {scope : Scope} {aop : AOp}

theorem exec_scLd_issued (h : ScalarReady s g [a, d]) :
    ∃ k, exec (.scLd d a off ord scope) s = .next (scalarMem s g (scalarAddr g a off) needLoad k) :=
  ⟨_, congrArg Host.Outcome.next (scalarIssue_go h.1 (scalarHazard_none.2 h.2) _)⟩

theorem exec_scSt_issued (h : ScalarReady s g [a, d]) :
    ∃ k, exec (.scSt d a off ord scope) s = .next (scalarMem s g (scalarAddr g a off) needStore k) :=
  ⟨_, congrArg Host.Outcome.next (scalarIssue_go h.1 (scalarHazard_none.2 h.2) _)⟩

theorem exec_scAtom_issued (h : ScalarReady s g [a, b, d]) :
    ∃ k, exec (.scAtom d a b aop scope) s = .next (scalarMem s g (scal g a.toNat) needAtomic k) :=
  ⟨_, congrArg Host.Outcome.next (scalarIssue_go h.1 (scalarHazard_none.2 h.2) _)⟩

/-- Past its checks each of them is a probe of its address (R404). -/
theorem exec_scalarAccess {i : Instr} {va : Nat} {n : Need}
    (hi : (i, va, n) ∈ [(Instr.scLd d a off ord scope, (scalarAddr g a off).toNat, needLoad),
      (.scSt d a off ord scope, (scalarAddr g a off).toNat, needStore),
      (.scAtom d a b aop scope, (scal g a.toNat).toNat, needAtomic)])
    (h : ScalarReady s g [a, b, d]) (ha : va % 8 = 0) (hf : fenced s g true = false) :
    ∃ k, exec i s = .next (probeG s g false (asking n [(0, va)]) k) := by
  have had : ScalarReady s g [a, d] := ⟨h.1, fun r hr => h.2 r (by simp only [List.mem_cons] at hr ⊢; tauto)⟩
  simp only [List.mem_cons, Prod.mk.injEq, List.not_mem_nil, or_false] at hi
  rcases hi with ⟨rfl, rfl, rfl⟩ | ⟨rfl, rfl, rfl⟩ | ⟨rfl, rfl, rfl⟩
  · obtain ⟨k, hk⟩ := exec_scLd_issued (off := off) (ord := ord) (scope := scope) had
    exact hk ▸ (scalarMem_probe (k := k) ha hf).imp fun _ h => congrArg Host.Outcome.next h
  · obtain ⟨k, hk⟩ := exec_scSt_issued (off := off) (ord := ord) (scope := scope) had
    exact hk ▸ (scalarMem_probe (k := k) ha hf).imp fun _ h => congrArg Host.Outcome.next h
  · obtain ⟨k, hk⟩ := exec_scAtom_issued (aop := aop) (scope := scope) h
    exact hk ▸ (scalarMem_probe (k := k) ha hf).imp fun _ h => congrArg Host.Outcome.next h

end

/-- A group that parks at the probe of a scalar access keeps its place and its registers, and makes no request (R261). -/
theorem parkG_scalarProbe {s told : State} {g : Group} (ha : Aside s told) (hc : curG s = some g) :
    ∃ g', curG (parkG told g (.probe 1) .none false) = some g' ∧ g'.park = .probe 1 ∧ g'.parkLane = false ∧
      g'.spc = g.spc ∧ g'.sregs = g.sregs ∧ (parkG told g (.probe 1) .none false).reqs = s.reqs ∧
      SameMemory s (parkG told g (.probe 1) .none false) :=
  ⟨_, curG_setG (ha.curG.trans hc) rfl, rfl, rfl, rfl, rfl, ha.reqs, ha.memory⟩

/-- Settles O12: HAZARD by what each instruction names; ALIGN and the failing pages by the probe of one address. -/
theorem scalarOperandTraps : Obligations.ScalarOperandTraps := by
  refine ⟨?_, ?_, ?_, ?_⟩
  · intro i d srcs s g r hi hc hr
    obtain ⟨v, hv⟩ := exec_computes hi s
    rw [hv, scalarOp, scalarIssue_hazard hc hr]
    rfl
  · intro i regs s g r hi hc hr
    obtain ⟨body, hbody⟩ := exec_names hi s
    rw [hbody, scalarIssue_hazard hc hr]
    rfl
  · intro s g
    refine ⟨?_, ?_⟩
    · intro d a off ord scope x h hx
      obtain ⟨k, hload⟩ := exec_scLd_issued (off := off) (ord := ord) (scope := scope) h
      obtain ⟨k', hstore⟩ := exec_scSt_issued (off := off) (ord := ord) (scope := scope) h
      exact ⟨hload.trans (congrArg Host.Outcome.next (scalarMem_align hx)),
        hstore.trans (congrArg Host.Outcome.next (scalarMem_align hx))⟩
    · intro d a b aop scope h hx
      obtain ⟨k, hk⟩ := exec_scAtom_issued (aop := aop) (scope := scope) h
      rw [hk, scalarMem_align hx]
  · intro s g d a b off ord scope aop i va n x hi h ha hf
    obtain ⟨k, hk⟩ := exec_scalarAccess hi h ha hf
    rw [hk]
    refine ⟨?_, fun hd => by rw [probeG_single_devOnly hd], fun pa hq => by rw [probeG_single_quar hq]⟩
    rintro _ rfl hw
    have hreport := report_reported (source := srcCore g.core) (grid := some g.grid) (die := dieOf s g.core) (g := g)
      s va n hw 0
    obtain ⟨g', hcur, hpark, hlane, hspc, hsregs, hreqs, hmem⟩ :=
      parkG_scalarProbe (aside_report s va n (look s g.asid va n) 0) h.1
    rw [probeG_single_waits hw]
    exact ⟨_, g', rfl, hcur, hpark, hlane, hspc, hsregs, hreqs, hreport, hmem⟩

end Sys2Proof.Machine
end

section
/-! PROOF. The scalar stream's hold on the lane stream, and what it pushes and fetches. -/

namespace Sys2Proof.Machine

/-! ## SC.LRUN -/

/-- Settles O18: by what SC.LRUN makes of its checks that end in no wait and in no fault of a fetch. -/
theorem laneRun : Obligations.LaneRun := by
  intro s g cnt r hg hr hl hp
  have hexec : exec (.scLrun cnt) s = execScLrun cnt s := rfl
  rw [hexec, execScLrun, scalarIssue_go hg.1 (scalarHazard_none.2 hg.2)]
  simp only [hr, hl, hp, ne_eq, not_true_eq_false, if_false, if_true]
  refine ⟨fun es ho hq => ?_, fun pc ho => ?_, fun x pc ho => ?_⟩ <;> rw [ho]
  · simp only [hq, Bool.not_true, Bool.false_eq_true, if_false]
    rfl
  · rfl
  · rfl

/-! ## SC.PUSH and SC.FETCH -/

/-- SC.PUSH that no fence and no earlier access holds makes its push, once the release that it is has been paid (R411). -/
theorem exec_scPush {s s1 : State} {g : Group} {d a : SReg} {q : BitVec 2}
    (hg : ScalarReady s g (tab 8 (fun k => a + BitVec.ofNat 6 k) ++ [d]))
    (hw : q = 3 ∨ (fenced s g true = false ∧ releaseWaits s g true 0 .pkg = false))
    (hp : (if q = 3 then (s, true) else releasePaid s (scalarWho g) (agentOf s g true 0) .pkg) = (s1, true)) :
    exec (.scPush d a q) s =
      let r := pushTo s1 g q.toNat (pushRecord g a.toNat)
      .next (scalarDoneElse s1 r.1 ((findGroup r.1.groups g.gid).getD g) d (dw r.2)) := by
  have hgo : ¬ (q ≠ 3 ∧ (fenced s g true || releaseWaits s g true 0 .pkg) = true) := by
    rintro ⟨hq, hor⟩
    obtain ⟨hf, hr⟩ := hw.resolve_left hq
    rw [hf, hr] at hor
    exact absurd hor Bool.false_ne_true
  change execScPush d a q s = _
  rw [execScPush, scalarIssue_go hg.1 (scalarHazard_none.2 hg.2), if_neg hgo]
  simp only [hp, Bool.not_true, Bool.false_eq_true, if_false]

/-- SC.FETCH of an aligned mailbox in its crew's allocation: its status by the kind of its grid and by what is outstanding
(R197, R402). -/
theorem exec_scFetch {s : State} {g : Group} {d a : SReg} {c : Crew} {r : Grid} (hg : ScalarReady s g [a, d])
    (hc : crewOf s g = some c) (hr : gridOf s g = some r)
    (ha : (scal g a.toNat).toInt % 16 = 0) (hi : inAlloc c (scal g a.toNat).toInt 16 = true) :
    exec (.scFetch d a) s = .next (
      if r.kind ≠ .persist then scalarDone s g d 2
      else if g.fetch.isSome then scalarDone s g d 1
      else
        let t := spadWrite s g.core ((scal g a.toNat).toInt.toNat + 12) (leBytes 4 0)
        scalarDoneElse s { t with nextId := s.nextId + 1 }
          { g with fetch := some ((scal g a.toNat).toInt.toNat, s.nextId) } d 0) := by
  have hfind : findGroup s.groups g.gid = some g := by
    rw [curG_gid hg.1]
    exact hg.1
  change execScFetch d a s = _
  rw [execScFetch, scalarIssue_go hg.1 (scalarHazard_none.2 hg.2)]
  simp only [hc, hr, ha, hi, ne_eq, not_true_eq_false, if_false, Bool.not_true, Bool.false_eq_true, spadWrite_groups,
    spadWrite_nextId, hfind, Option.getD_some]

/-- Settles O19: by the lemmas about the two instructions. -/
theorem pushAndFetch : Obligations.PushAndFetch := by
  refine ⟨fun s s1 g d a q => exec_scPush, ?_⟩
  intro s g d a c r off s1 hg hc hr ha hi
  have hexec := exec_scFetch hg hc hr ha hi
  refine ⟨fun hk => ?_, fun hk hf => ?_, fun hk hf => ?_⟩ <;> rw [hexec]
  · rw [if_pos hk]
  · rw [if_neg (not_not.2 hk), if_pos hf]
  · rw [if_neg (not_not.2 hk), hf]
    rfl

/-! ## SC.YIELD -/

/-- SC.YIELD gives the group a new age and its pipe back, and what its last load brings is on its way no more (R61, R416). -/
theorem exec_scYield {s : State} {g : Group} (hg : ScalarReady s g []) :
    exec .scYield s = .next (setG s (nextSpc { readyG s.pkg.time g with yielded := true, pipe := none })) :=
  congrArg Host.Outcome.next (scalarIssue_go hg.1 (scalarHazard_none.2 hg.2) _)

/-- The group whose turn it is can be read off the state that it has been put in. -/
theorem setG_inj {s : State} {g a b : Group} (h : setG s a = setG s b) (hc : curG s = some g) (ha : a.gid = g.gid)
    (hb : b.gid = g.gid) : a = b :=
  Option.some.inj ((curG_setG hc ha).symm.trans ((congrArg curG h).trans (curG_setG hc hb)))

/-- A group whose last load or atomic may still be on its way, and a state in which it is its turn. -/
def slowGroup : Group := { (default : Group) with slow := true }
def slowTurn : State := { State.reset with cur := 0, groups := [slowGroup] }

/-- Refutes O17: its state after SC.YIELD keeps `slow` as it was, while a group that becomes ready clears it (`readyG`), as
`slowGroup` shows. A scalar turn has cleared it before SC.YIELD runs (`offered`). -/
theorem not_scalarStreamControl : ¬ Obligations.ScalarStreamControl := by
  intro h
  have hready : ScalarReady slowTurn slowGroup [] := ⟨rfl, fun r hr => absurd hr List.not_mem_nil⟩
  obtain ⟨-, -, -, hyield, -⟩ := h slowTurn slowGroup hready
  rw [exec_scYield hready, Host.Outcome.next.injEq] at hyield
  have hgroup := setG_inj hyield hready.1 rfl rfl
  exact absurd (congrArg Group.slow hgroup) (by decide)

end Sys2Proof.Machine
end

section
/-! PROOF. Lane instructions: the checks at issue of every form, the frame of a pass that writes one row, and the two whose rows
stay pending. -/

namespace Sys2Proof.Machine

/-! ## The checks at issue -/

/-- Every instruction of the lane stream is issued with the rows that it names (R44). -/
theorem exec_lane {i : Instr} (h : (laneForm i).isSome = true) (s : State) :
    ∃ body, exec i s = .next (laneExec s i body) := by
  cases i with
  | iadd | isub | imul | imulh | imad | imin | imax | iabs | iaddx | idp4 | lop3 | shl | shr | sra | fshl | fshr | brev
  | popc | clz | bfe | bfi | bperm | icmp | fcmp | sel | mov | movi | cvt | pack | unpk | sreg | fadd | fsub | fmul | ffma
  | fmin | fmax | frnd | fdot2 | frcpe | frsqe | fex2 | flg2 | fsin | fcos | mmac | xget | xput | xbcast | xred | xscan
  | xvote | ld | st | lds | sts | atom | red | pref | sdesc | subp | unsp | upgp | cinv | cwb | cdisc | fence | bara | barw
  | bartw | qpush | qpop | twait | waitt | rast | samp | sampg | trace | omrg | ckacc | cktest | idem | trapl | nop =>
    exact ⟨_, rfl⟩
  | _ => cases h

section
variable {s : State} {g : Group} {q : QEntry} {i : Instr} {r : Nat} {body : Group → QEntry → State}

/-- A row that is pending or held takes HAZARD (R44). -/
theorem laneExec_hazard (hc : curG s = some g) (hq : g.queue.head? = some q)
    (hr : ((laneRows i).1 ++ (laneRows i).2).find? (fun r => g.pend.contains r || g.held.contains r) = some r) :
    laneExec s i body = takeTrap s g { code := 2, info := 0x800 + r, lane := true, tlpc := q.addr } := by
  obtain ⟨l, hl⟩ := List.head?_eq_some_iff.1 hq
  simp only [laneExec, laneIssue, onG_some hc, hl, gate, hr, trapLane]
  rfl

/-- Else a poisoned row that is read is consumed (R282). -/
theorem laneExec_poison (hc : curG s = some g) (hq : g.queue.head? = some q)
    (hr : ((laneRows i).1 ++ (laneRows i).2).find? (fun r => g.pend.contains r || g.held.contains r) = none)
    (hp : (laneRows i).1.find? (fun r => s.poisonRows.contains (g.gid, r)) = some r) :
    laneExec s i body = consume s g 1 0 0 := by
  obtain ⟨l, hl⟩ := List.head?_eq_some_iff.1 hq
  simp only [laneExec, laneIssue, onG_some hc, hl, gate, hr, hp]

end

/-- Settles O35: every lane instruction is issued with its rows, and the checks find what the statement says. -/
theorem laneHazardAndPoison : Obligations.LaneHazardAndPoison := by
  intro s g q i r hi hc hq named hit
  obtain ⟨body, hbody⟩ := exec_lane hi s
  rw [hbody]
  exact ⟨fun hr => congrArg Host.Outcome.next (laneExec_hazard hc hq hr),
    fun hr hp => congrArg Host.Outcome.next (laneExec_poison hc hq hr hp)⟩

/-! ## The frame of a pass with one row -/

/-- A lane instruction that writes one row in the pipe is one pass over that row (R34, R345). -/
theorem exec_inPipe {i : Instr} {f : LaneForm} (h : inPipe i = some f) (s : State) :
    (laneRows i).2 = [f.d.toNat] ∧ ∃ k, exec i s = .next (laneOp s i f k) := by
  cases i with
  | iadd | isub | imul | imulh | imad | imin | imax | iabs | idp4 | lop3 | shl | shr | sra | fshl | fshr | brev | popc | clz
  | bfe | bfi | bperm | icmp | fcmp | sel | mov | movi | cvt | pack | unpk | sreg | fadd | fsub | fmul | ffma | fmin | fmax
  | frnd | fdot2 | frcpe | frsqe | fex2 | flg2 | fsin | fcos | xget | xbcast | xscan | xvote =>
    cases h
    exact ⟨rfl, _, rfl⟩
  | _ => cases h

/-- Entering leaves the special registers of a group alone. -/
theorem sameControl_entered (g : Group) (f : LaneForm) : SameControl g (entered g f) := by
  unfold entered SameControl
  dsimp only
  split_ifs <;> exact ⟨rfl, rfl, rfl, rfl, rfl, rfl, rfl, rfl, rfl, rfl, rfl⟩

/-- The group that a pass over row d leaves: its rows by thread, its flags, its queue. -/
def passed (g : Group) (q : QEntry) (f : LaneForm) (k : Group → QEntry → Nat → Dword × Flags) : Group :=
  let act := actives g q f
  let out := fun t => k g q (srcThr f act t)
  entered { orFlags g (unionFlags (act.map fun t => (out t).2)) with
    lanes := passRows g.lanes [f.d.toNat] (zeroing f) act fun t => [(out t).1] } f

section
variable {s : State} {g : Group} {q : QEntry} {i : Instr} {f : LaneForm} {k : Group → QEntry → Nat → Dword × Flags}

/-- A row element after a pass: an active thread's result in row d, 0 or what it was for an inactive one, and in every
other row what it was (R34, R67, R68). -/
theorem lane_passed (r : Nat) {t : Nat} (ht : t < 32) :
    lane (passed g q f k) r t = if r = f.d.toNat then
      (if (actives g q f).contains t then (k g q (srcThr f (actives g q f) t)).1
       else if zeroing f then 0 else lane g r t) else lane g r t := by
  simp only [lane, passed, entered_lanes]
  exact get_passRows g.lanes f.d.toNat (zeroing f) (actives g q f) (fun t => (k g q (srcThr f (actives g q f) t)).1) r t ht

/-- A ready instruction with one destination row leaves that group, and poison marks that may go. -/
theorem laneOp_ready (h : LaneReady s i g q) (hrows : (laneRows i).2 = [f.d.toNat]) :
    ∃ marks, laneOp s i f k = setG { s with poisonRows := marks } (passed g q f k) := by
  refine ⟨(cleanRows s g f (actives g q f) [f.d.toNat]).poisonRows, ?_⟩
  rw [laneOp, laneExec_ready h, hrows, ← cleanRows_eq]
  rfl

end

/-- Settles O36: each of these instructions is a pass over one row, and the frame is that of the pass. -/
theorem laneFrame : Obligations.LaneFrame := by
  intro s g q i f hi h
  obtain ⟨hrows, k, hk⟩ := exec_inPipe hi s
  obtain ⟨marks, hpass⟩ := laneOp_ready (k := k) h hrows
  have hgid : (passed g q f k).gid = g.gid := entered_gid _ f
  rw [hk, hpass]
  refine ⟨_, _, rfl, curG_setG (s := { s with poisonRows := marks }) h.1 hgid, entered_queue _ f, fun r t ht hr => ?_,
    fun t ht ha => ?_, entered_sregs _ f, entered_spc _ f, entered_lpc _ f, entered_pend _ f, sameControl_entered _ f,
    fun n hn => findGroup_put_ne ?_, rfl, rfl, fun _ => rfl, fun _ => rfl, fun _ _ => rfl⟩
  · rw [lane_passed r ht, if_neg hr]
  · rw [lane_passed _ ht, if_pos rfl, if_neg (by simpa using ha)]
  · rw [hgid, curG_gid h.1]
    exact hn

/-! ## XRED and MMAC -/

section
variable {s : State} {g : Group} {q : QEntry} {f : LaneForm} {u : Nat} {us : List Nat}

/-- XRED enters with its row pending (R454). -/
theorem exec_xred {op : ROp} (h : LaneReady s (.xred f op) g q) (ha : actives g q f = u :: us) :
    exec (.xred f op) s =
      let r := redRow f.ty op (roundOf f) ((u :: us).map (opA g f))
      .next (enterPending s g f (u :: us) { newInfl s g q f .reduce [f.d.toNat] with
        writes := writesOf [f.d.toNat] (u :: us) (fun _ => [r.1]), flags := r.2 }) := by
  change execXred f op s = _
  rw [execXred, laneExec_ready h]
  simp only [ha]

/-- The active threads of MMAC agree on one format word, which names formats that it may use (R102). -/
def SameFormat (g : Group) (row u : Nat) (us : List Nat) : Prop :=
  (∀ t ∈ us, (lane g row t).setWidth 32 = ((lane g row u).setWidth 32 : Word)) ∧
    fmtWordOk ((lane g row u).setWidth 32) = true ∧ fmtO ((lane g row u).setWidth 32) = 4

/-- The vote on the format word. -/
theorem fmtVote_iff (g : Group) (row u : Nat) (us : List Nat) :
    (fmtDiffer g row (u :: us) || !fmtWordOk ((lane g row u).setWidth 32) || fmtO ((lane g row u).setWidth 32) != 4) = false ↔
      SameFormat g row u us := by
  simp [fmtDiffer, SameFormat, and_assoc]

end

/-- Settles O33: XRED by its one case, MMAC by the vote on its format word. -/
theorem lanePendingResults : Obligations.LanePendingResults := by
  intro s g q f u us ha
  refine ⟨fun op h => exec_xred h ha, ?_⟩
  intro fr b c h hb hc w d pair same
  have hexec : exec (.mmac f fr) s = execMmac f fr s := rfl
  rw [hexec, execMmac, laneExec_ready h]
  simp only [ha, hb, hc]
  refine ⟨fun hs => ?_, fun hs => ?_⟩
  · rw [if_neg (Bool.eq_false_iff.1 ((fmtVote_iff g fr.toNat u us).2 hs))]
  · rw [if_pos (Bool.not_eq_false _ ▸ mt (fmtVote_iff g fr.toNat u us).1 hs)]
    simp only [trapLane, h.2.1]
    rfl

end Sys2Proof.Machine
end

section
/-! PROOF. RESULT_RETURN: what a result leaves of its group, and when it is delivered. -/

namespace Sys2Proof.Machine

/-! ## What a result leaves of its group -/

/-- A group with a result in its registers, before it is asked whether it goes on. -/
def resultWritten (g : Group) (i : Inflight) : Group :=
  let rows := { orFlags g i.flags with
    lanes := applyWrites g.lanes i.writes
    pend := g.pend.filter fun r => !i.rows.contains r
    held := if i.kind = .samp then [] else g.held
    infl := g.infl.filter fun x => x.id ≠ i.id }
  match i.sreg with
  | some r => { setScal rows r.toNat i.sval with resv := g.resv &&& ~~~(resvBit r.toNat) }
  | none => rows

/-- Its rows and its flags are there, and its record is gone (R43, R80). -/
structure RowsWritten (g : Group) (i : Inflight) (g' : Group) : Prop where
  gid : g'.gid = g.gid
  lanes : g'.lanes = applyWrites g.lanes i.writes
  pend : g'.pend = g.pend.filter fun r => !i.rows.contains r
  fflags : g'.fflags = g.fflags ||| i.flags
  infl : g'.infl = g.infl.filter fun x => x.id ≠ i.id

section
variable (s : State) (g : Group) (i : Inflight)

/-- A group that waits at a marker for nothing more goes on (R44). -/
theorem returnResult_eq : returnResult s g i =
    if (resultWritten g i).park = .marker ∧ (resultWritten g i).pend = [] then wakeG s (resultWritten g i)
    else resultWritten g i := rfl

theorem resultWritten_rows : RowsWritten g i (resultWritten g i) := by
  unfold resultWritten
  cases i.sreg with
  | none => exact ⟨rfl, rfl, rfl, rfl, rfl⟩
  | some r => constructor <;> simp [orFlags]

theorem resultWritten_park : (resultWritten g i).park = g.park := by
  unfold resultWritten
  cases i.sreg with
  | none => rfl
  | some r => simp [orFlags]

theorem returnResult_rows : RowsWritten g i (returnResult s g i) := by
  have h := resultWritten_rows g i
  rw [returnResult_eq]
  split_ifs
  · exact ⟨h.gid, h.lanes, h.pend, h.fflags, h.infl⟩
  · exact h

theorem returnResult_park (h : g.park = .marker) :
    (returnResult s g i).park = if (returnResult s g i).pend = [] then .none else .marker := by
  have hpark := (resultWritten_park g i).trans h
  rw [(returnResult_rows s g i).pend, returnResult_eq, (resultWritten_rows g i).pend]
  by_cases hp : (g.pend.filter fun r => !i.rows.contains r) = []
  · rw [if_pos ⟨hpark, hp⟩, if_pos hp]
    rfl
  · rw [if_neg fun h => hp h.2, if_neg hp, hpark]

theorem resvBit_getLsbD {n : Nat} (h : n < 64) : (resvBit n).getLsbD n = true := by
  change (BitVec.ofNat 64 (1 <<< n)).getLsbD n = true
  rw [BitVec.getLsbD_ofNat, Nat.one_shiftLeft, Nat.testBit_two_pow_self, Bool.and_true, decide_eq_true h]

/-- The register of a reservation that has cleared is free (R40). -/
theorem reserved_cleared (r : SReg) {g : Group} {v : Dword} (h : g.resv = v &&& ~~~(resvBit r.toNat)) :
    reserved g r.toNat = false := by
  rw [reserved, h, BitVec.getLsbD_and, BitVec.getLsbD_not, resvBit_getLsbD r.isLt]
  simp

/-- The scalar result is in its register, which is reserved no more (R40). -/
theorem returnResult_sreg {r : SReg} (h : i.sreg = some r) (hr : r ≠ 0) :
    scal (returnResult s g i) r.toNat = i.sval ∧ reserved (returnResult s g i) r.toNat = false := by
  have hr0 : r.toNat ≠ 0 := fun e => hr (BitVec.eq_of_toNat_eq e)
  have hwritten : scal (resultWritten g i) r.toNat = i.sval ∧ reserved (resultWritten g i) r.toNat = false := by
    unfold resultWritten
    rw [h]
    refine ⟨?_, reserved_cleared r rfl⟩
    exact (scal_setScal _ r.toNat r.toNat i.sval).trans (if_pos ⟨rfl, hr0⟩)
  rw [returnResult_eq]
  split_ifs <;> exact hwritten

end

/-! ## Delivery -/

/-- What a delivered result leaves: its group with the result, and no poison in the rows that it rewrites in every thread. -/
structure Delivered (s : State) (g : Group) (i : Inflight) (v : Dword) (t : State) (g' : Group) : Prop where
  found : findGroup t.groups g.gid = some g'
  rows : RowsWritten g i g'
  sreg : ∀ r, i.sreg = some r → r ≠ 0 → scal g' r.toNat = v ∧ reserved g' r.toNat = false
  park : g.park = .marker → g'.park = if g'.pend = [] then .none else .marker
  poison : ∀ p : Nat × Nat, p ∈ t.poisonRows ↔ p ∈ s.poisonRows ∧ ¬ (i.whole = true ∧ p.1 = g.gid ∧ p.2 ∈ i.rows)

theorem deliver_delivered {s0 s : State} {g : Group} (h : findGroup s0.groups g.gid = some g) (i : Inflight) (v : Dword)
    (hgroups : s.groups = s0.groups) (hpoison : s.poisonRows = s0.poisonRows) :
    Delivered s0 g i v (deliver s g { i with sval := v }) (returnResult s g { i with sval := v }) where
  found := findGroup_put (hgroups ▸ h) (returnResult_rows s g _).gid
  rows := by
    obtain ⟨hgid, hlanes, hpend, hfflags, hinfl⟩ := returnResult_rows s g { i with sval := v }
    exact ⟨hgid, hlanes, hpend, hfflags, hinfl⟩
  sreg := fun _ => returnResult_sreg s g { i with sval := v }
  park := returnResult_park s g _
  poison := fun p => by
    simp only [deliver, setG_poisonRows, hpoison]
    split_ifs with hw <;> simp [hw, imp_iff_not_or]

/-- An acquire leaves the groups and the poison marks of rows alone. -/
theorem acquireL1_frame (s : State) (gid core : Nat) (scope : Scope) :
    (acquireL1 s gid core scope).groups = s.groups ∧ (acquireL1 s gid core scope).poisonRows = s.poisonRows := by
  unfold acquireL1
  split_ifs <;> exact ⟨rfl, rfl⟩

section
variable {s : State} {g : Group} {i : Inflight} (hg : findGroup s.groups g.gid = some g)
  (hi : (g.infl.find? fun x => x.id == i.id && x.needs == 0) = some i)
include hg hi

/-- A result of no special kind is delivered (R43). -/
theorem exec_resultReturn_plain (hb : i.kind ≠ .tryBar) (ht : ¬ (i.kind = .trace ∧ i.aux = 1))
    (hr : ¬ (i.kind = .rast ∧ rastAhead s g i.id = true)) :
    exec (.resultReturn g.gid i.id) s = .next (deliver s g i) := by
  change execResultReturn g.gid i.id s = _
  simp only [execResultReturn, hg, hi, if_neg hb, if_neg ht, if_neg hr]

/-- A RAST's result waits for an earlier one of its core (R249). -/
theorem exec_resultReturn_behind (hk : i.kind = .rast) (hr : rastAhead s g i.id = true) :
    exec (.resultReturn g.gid i.id) s = .next s := by
  change execResultReturn g.gid i.id s = _
  simp only [execResultReturn, hg, hi, if_pos (And.intro hk hr)]

/-- An unfinished BARTW whose phase has been over returns 1, as an acquire (R184, R320). -/
theorem exec_resultReturn_held {sc : Scope} (hk : i.kind = .tryBar) (hh : tryHolds s g i = some sc) :
    exec (.resultReturn g.gid i.id) s = .next (deliver (acquireL1 s g.gid g.core sc) g { i with sval := 1 }) := by
  change execResultReturn g.gid i.id s = _
  simp [execResultReturn, hg, hi, hk, hh]

/-- One whose phase has not consumes a poisoned object, or goes on (R282, R320). -/
theorem exec_resultReturn_open (hk : i.kind = .tryBar) (hh : tryHolds s g i = none) :
    exec (.resultReturn g.gid i.id) s = .next (if tryBad s g i then consume s g 0 0 0 else s) := by
  change execResultReturn g.gid i.id s = _
  simp [execResultReturn, hg, hi, hk, hh]

/-- A POISON record of a ray is delivered and consumed (R241). -/
theorem exec_resultReturn_poison (hk : i.kind = .trace) (ha : i.aux = 1) :
    exec (.resultReturn g.gid i.id) s =
      let x := fun k => (i.caps.getD k 0).toNat
      .next (consumeAt (setG s (returnResult s g i)) (returnResult s g i) (x 0) (x 1) (x 2) (x 3) needLoad.acc) := by
  change execResultReturn g.gid i.id s = _
  simp [execResultReturn, hg, hi, hk, ha]

end

/-- Settles O34: each kind of result by the lemma about its delivery. -/
theorem resultsReturn : Obligations.ResultsReturn := by
  intro s g i hg hi delivers
  have delivered : ∀ {v t g'}, exec (.resultReturn g.gid i.id) s = .next t → Delivered s g i v t g' → delivers v :=
    fun he h => ⟨_, _, he, h.found, h.rows.lanes, h.rows.pend, h.rows.fflags, h.rows.infl, h.sreg, h.park, h.poison⟩
  refine ⟨fun hb ht hr => delivered (exec_resultReturn_plain hg hi hb ht hr) (deliver_delivered hg i i.sval rfl rfl),
    exec_resultReturn_behind hg hi, fun hk => ⟨fun hh => ?_, exec_resultReturn_open hg hi hk⟩,
    exec_resultReturn_poison hg hi⟩
  obtain ⟨sc, hsc⟩ := Option.isSome_iff_exists.1 hh
  obtain ⟨hgroups, hpoison⟩ := acquireL1_frame s g.gid g.core sc
  exact delivered (exec_resultReturn_held hg hi hk hsc) (deliver_delivered hg i 1 hgroups hpoison)

end Sys2Proof.Machine
end

section
/-! PROOF. Binding, enqueueing, code fills and the wait-cycle probe. -/

namespace Sys2Proof.Machine

/-! ## Binding -/

/-- What the order of two groups compares: age, then whether one yielded, then resident slot (R50, R61). -/
def issueKey (g : Group) : ℕ ×ₗ Bool ×ₗ ℕ := toLex (g.age.toNat, toLex (g.yielded, g.slot))

theorem olderGroup_iff (x y : Group) : olderGroup x y = true ↔ issueKey x ≤ issueKey y := by
  have hage : x.age.toNat = y.age.toNat ↔ x.age = y.age := BitVec.toNat_inj
  unfold olderGroup issueKey
  rw [Prod.Lex.toLex_le_toLex, Prod.Lex.toLex_le_toLex, hage]
  by_cases ha : x.age = y.age
  · by_cases hy : x.yielded = y.yielded
    · simp [ha, hy]
    · have hne : x.yielded = !y.yielded := Bool.eq_not.2 hy
      simp [ha, hne, Bool.lt_iff]
  · simp [ha]

theorem olderGroup_total (x y : Group) : (olderGroup x y || olderGroup y x) = true := by
  rw [Bool.or_eq_true, olderGroup_iff, olderGroup_iff]
  exact le_total _ _

theorem olderGroup_trans (x y z : Group) (hxy : olderGroup x y = true) (hyz : olderGroup y z = true) :
    olderGroup x z = true := by
  rw [olderGroup_iff] at hxy hyz ⊢
  exact hxy.trans hyz

/-- The group that no other is older than comes first (R50). -/
theorem mergeSort_oldest {gs : List Group} {g : Group} (hg : g ∈ gs)
    (ho : ∀ x ∈ gs, x ≠ g → olderGroup x g = false) : ∃ l, gs.mergeSort olderGroup = g :: l := by
  have hsorted := List.pairwise_mergeSort olderGroup_trans olderGroup_total gs
  have hmem : g ∈ gs.mergeSort olderGroup := List.mem_mergeSort.2 hg
  cases hl : gs.mergeSort olderGroup with
  | nil => simp [hl] at hmem
  | cons x l =>
    rw [hl] at hsorted hmem
    have hx : x ∈ gs := List.mem_mergeSort.1 (hl ▸ List.mem_cons_self)
    by_cases hxg : x = g
    · exact ⟨l, by rw [hxg]⟩
    · have hrest : g ∈ l := (List.mem_cons.1 hmem).resolve_left fun e => hxg e.symm
      have holder := (List.pairwise_cons.1 hsorted).1 g hrest
      rw [ho x hx hxg] at holder
      cases holder

/-- One group after another is bound, each to its pipe. -/
def bindAll (s : State) (xs : List (Group × Nat)) : State :=
  xs.foldl (fun s x => setG s { x.1 with pipe := some x.2 }) s

theorem bindAll_mem (s : State) (xs : List (Group × Nat)) : (bindAll s xs).mem = s.mem := by
  induction xs generalizing s with
  | nil => rfl
  | cons x xs ih => exact ih _

/-- Binding other groups leaves a group as it is. -/
theorem findGroup_bindAll {n : Nat} (xs : List (Group × Nat)) (h : ∀ x ∈ xs, x.1.gid ≠ n) (s : State) :
    findGroup (bindAll s xs).groups n = findGroup s.groups n := by
  induction xs generalizing s with
  | nil => rfl
  | cons x xs ih =>
    obtain ⟨hx, hxs⟩ := List.forall_mem_cons.1 h
    exact (ih hxs _).trans (findGroup_put_ne hx.symm)

/-- A group is found by its number where no number is used twice. -/
theorem findGroup_of_mem {gs : List Group} {g : Group} (hg : g ∈ gs) (hn : (gs.map (·.gid)).Nodup) :
    findGroup gs g.gid = some g := by
  induction gs with
  | nil => cases hg
  | cons x l ih =>
    obtain ⟨hx, hl⟩ := List.nodup_cons.1 hn
    rcases List.mem_cons.1 hg with rfl | hg
    · simp [findGroup]
    · have hne : ¬ x.gid = g.gid := fun e => hx (List.mem_map.2 ⟨g, hg, e.symm⟩)
      simpa [findGroup, hne] using ih hg hl

section
variable {s : State} {core part p : Nat} {ps : List Nat} {g : Group}

/-- The oldest group without a pipe gets the lowest free one (R50). -/
theorem exec_groupBind (hg : g ∈ s.groups) (hn : (s.groups.map (·.gid)).Nodup) (hw : wantsPipe s core part g = true)
    (ho : ∀ x ∈ s.groups, wantsPipe s core part x = true → x ≠ g → olderGroup x g = false)
    (hp : freePipes s core part = p :: ps) :
    ∃ t, exec (.groupBind core part) s = .next t ∧ findGroup t.groups g.gid = some { g with pipe := some p } ∧
      t.mem = s.mem := by
  obtain ⟨l, hl⟩ := mergeSort_oldest (gs := s.groups.filter (wantsPipe s core part)) (List.mem_filter.2 ⟨hg, hw⟩)
    fun x hx => ho x (List.mem_filter.1 hx).1 (List.mem_filter.1 hx).2
  have hperm := List.mergeSort_perm (s.groups.filter (wantsPipe s core part)) olderGroup
  have hnodup : ((g :: l).map (·.gid)).Nodup :=
    hl ▸ (hperm.map _).nodup_iff.2 ((List.filter_sublist.map _).nodup hn)
  have hothers : ∀ x ∈ l.zip ps, x.1.gid ≠ g.gid := fun x hx e =>
    (List.nodup_cons.1 hnodup).1 (List.mem_map.2 ⟨x.1, (List.of_mem_zip hx).1, e⟩)
  have hexec : exec (.groupBind core part) s =
      .next (bindAll s (((s.groups.filter (wantsPipe s core part)).mergeSort olderGroup).zip (freePipes s core part))) := rfl
  refine ⟨_, hexec, ?_, bindAll_mem _ _⟩
  rw [hl, hp, List.zip_cons_cons]
  exact (findGroup_bindAll (l.zip ps) hothers (setG s { g with pipe := some p })).trans
    (findGroup_put (findGroup_of_mem hg hn) rfl)

end

/-! ## The run of an SC.LRUN, code misses and probes -/

section
variable {s : State} {g : Group} (hg : findGroup s.groups g.gid = some g)
include hg

/-- The next instruction of a run is enqueued when there is room (R38). -/
theorem exec_laneQueueEnqueue {q : QEntry} {r : List QEntry} (hr : g.run = q :: r) (hf : queueFree g = true)
    (hm : mayRun s g = true) :
    exec (.laneQueueEnqueue g.gid) s = .next (setG s (if r = [] then nextSpc { enqueueOne g q with run := r }
      else { enqueueOne g q with run := r })) := by
  change execLaneQueueEnqueue g.gid s = _
  simp [execLaneQueueEnqueue, hg, hr, hf, hm]

/-- A block that nothing keeps away comes, and its stream goes on (R60). -/
theorem exec_icacheFillReturn {lane : Bool} (ha : codeAwaited s g.gid lane = false)
    (hs : sendable s (missOf g lane).toList = true) :
    exec (.icacheFillReturn g.gid lane) s = .next (fillCode s g lane) := by
  change execIcacheFillReturn g.gid lane s = _
  simp [execIcacheFillReturn, hg, ha, hs]

/-- A group blocked long enough sends a probe along its target (R59). -/
theorem exec_waitCycleProbe (hb : blocked g = true) (ht : g.probedAt.toNat + 65536 ≤ s.pkg.time.toNat) :
    exec (.waitCycleProbe g.gid) s = .next (sendProbe (setG s { g with probedAt := s.pkg.time }) g
      { id := 0, sender := g.gid, stamp := g.waitFrom, sent := s.pkg.time, dest := 0, chain := [g.gid] }) := by
  have hdue : ¬ s.pkg.time.toNat < g.probedAt.toNat + probeTicks := Nat.not_lt.2 ht
  change execWaitCycleProbe g.gid s = _
  simp [execWaitCycleProbe, hg, hb, hdue]

end

section
variable {s : State} {p : Probe} {g : Group} (hp : (s.probes.find? fun x => x.id == p.id) = some p)
  (hg : findGroup s.groups p.dest = some g)
include hp hg

/-- A probe that is back at its sender, blocked as it was, is a wait cycle (R59). -/
theorem exec_probeForward_back (hs : g.gid = p.sender) (hb : blocked g = true) (hw : g.waitFrom = p.stamp) :
    exec (.probeForward p.id) s =
      .next (waitCycle { s with probes := s.probes.filter fun x => x.id ≠ p.id } g p) := by
  change execProbeForward p.id s = _
  simp only [execProbeForward, hp, hg, if_pos hs, if_pos (And.intro hb hw)]

/-- At any other group it is passed on (R59). -/
theorem exec_probeForward_on (hs : g.gid ≠ p.sender) :
    exec (.probeForward p.id) s =
      .next (passProbe { s with probes := s.probes.filter fun x => x.id ≠ p.id } g p) := by
  change execProbeForward p.id s = _
  simp only [execProbeForward, hp, hg, if_neg hs]

end

/-- Settles O52: each event by the lemma about it. -/
theorem issueEvents : Obligations.IssueEvents := by
  refine ⟨fun s core part p ps g => exec_groupBind, fun s g q r hg => exec_laneQueueEnqueue hg, fun s g hg => ⟨?_, ?_⟩,
    fun s g hg => exec_waitCycleProbe hg, fun s p g hp hg => ⟨exec_probeForward_back hp hg, exec_probeForward_on hp hg⟩⟩
  · intro ha hs
    rw [exec_icacheFillReturn hg ha hs]
    rfl
  · intro ha hs
    rw [exec_icacheFillReturn hg ha hs]
    rfl

end Sys2Proof.Machine
end

section
/-! PROOF. No step stops, but for an access from outside the package that reaches past the pool address space. -/

namespace Sys2Proof.Machine

-- One declaration after another, here and in the sections below: the text is compiled whole, within a limit of memory.
set_option Elab.async false

/-! ## What a turn comes to -/

/-- An outcome that is a next state. -/
def goesOn : Host.Outcome State Fault Refusal → Bool
  | .next _ => true
  | _ => false

/-- Every instruction and every event has a meaning, and it is a next state. -/
theorem exec_goesOn (i : Instr) (s : State) : goesOn (exec i s) = true := by
  cases i <;> rfl

theorem settled_exec_next (s : State) (i : Instr) (t : State) : ∃ u, settled s (exec i t) = .next u := by
  have h := exec_goesOn i t
  cases he : exec i t with
  | next u => exact ⟨settle s u, rfl⟩
  | fault r => simp [he, goesOn] at h
  | refused r => simp [he, goesOn] at h

/-- A turn of the machine's own is idle or runs an instruction. -/
def stops : Move → Bool
  | .stop _ => true
  | _ => false

theorem stops_ite {c : Prop} [Decidable c] {a b : Move} (ha : stops a = false) (hb : stops b = false) :
    stops (if c then a else b) = false := by
  split
  · exact ha
  · exact hb

theorem scalarTurn_stops (s : State) (gid : Nat) : stops (scalarTurn s gid) = false := by
  unfold scalarTurn
  split
  · rfl
  · refine stops_ite rfl ?_
    dsimp only
    split
    · rfl
    · split
      · split <;> rfl
      all_goals rfl

theorem laneTurn_stops (s : State) (gid : Nat) : stops (laneTurn s gid) = false := by
  unfold laneTurn
  split
  · rfl
  · refine stops_ite rfl ?_
    dsimp only
    split
    · rfl
    · split
      · rfl
      · split <;> rfl

theorem microTurn_stops (s : State) (ray : Nat) : stops (microTurn s ray) = false := by
  unfold microTurn
  split
  · rfl
  · split
    · refine stops_ite rfl (stops_ite rfl ?_)
      dsimp only
      split <;> rfl
    · rfl

theorem ne_stop {m : Move} (h : stops m = false) (r : Fault) : m ≠ .stop r := by
  rintro rfl
  cases h

theorem stop_ite_idle {c : Prop} [Decidable c] {a r : Fault} {t : State}
    (h : (if c then Move.stop a else .idle t) = .stop r) : c ∧ r = a := by
  by_cases hc : c
  · rw [if_pos hc] at h
    exact ⟨hc, (Move.stop.inj h).symm⟩
  · rw [if_neg hc] at h
    exact Move.noConfusion h

/-- Only an agent outside the package stops a turn, by bytes beyond the 52-bit pool address space (R113, R304). -/
theorem move_eq_stop {s : State} {t : Turn} {r : Fault} (h : move s t = .stop r) :
    (∃ who pa bs, t = .outWrite who pa bs ∧ 2 ^ 52 < pa + bs.length ∧ r = .noSuchPoolAddress pa) ∨
    (∃ who pa, t = .outRead who pa ∧ 2 ^ 52 < pa + 64 ∧ r = .noSuchPoolAddress pa) := by
  cases t with
  | scalar gid => exact absurd h (ne_stop (scalarTurn_stops s gid) r)
  | lane gid => exact absurd h (ne_stop (laneTurn_stops s gid) r)
  | micro ray => exact absurd h (ne_stop (microTurn_stops s ray) r)
  | outWrite who pa bs =>
    obtain ⟨hpa, hr⟩ := stop_ite_idle h
    exact .inl ⟨who, pa, bs, rfl, hpa, hr⟩
  | outRead who pa =>
    obtain ⟨hpa, hr⟩ := stop_ite_idle h
    exact .inr ⟨who, pa, rfl, hpa, hr⟩
  | _ => exact Move.noConfusion h

/-- Settles O5: a turn that is idle or runs an instruction has a next state, and the others are accesses from outside. -/
theorem everyStepGoesOn : Obligations.EveryStepGoesOn := by
  intro s
  cases hm : move (takeTurn s).2 (takeTurn s).1 with
  | idle t => exact .inl ⟨settle s t, by simp [step, hm]⟩
  | run i t => exact .inl (by simpa [step, hm] using settled_exec_next s i t)
  | stop r =>
    have hstep : step s = .fault r := by simp [step, hm]
    refine .inr ((move_eq_stop hm).imp ?_ ?_)
    · rintro ⟨who, pa, bs, ht, hpa, rfl⟩
      exact ⟨who, pa, bs, ht, hpa, hstep⟩
    · rintro ⟨who, pa, ht, hpa, rfl⟩
      exact ⟨who, pa, ht, hpa, hstep⟩

end Sys2Proof.Machine
end

section
/-! PROOF. SC.ST: the two ways in which a store of the scalar stream is made. -/

namespace Sys2Proof.Machine

set_option Elab.async false

/-- A store to the group's own stack, once its row has been fetched and what it does as a release has been done (R119, R141). -/
theorem stackStore_done {s s2 s3 : State} {g g2 : Group} {v : Dword} {y : Found} {ord : MOrd} {scope : Scope}
    (hb : stackBusy s g y (ord != .plain) scope = false) (hs : stackFetch s g (scalarWho g) [y.va] = (s2, true))
    (hg : (findGroup s2.groups g.gid).getD g = g2)
    (hr : (if ord = .plain then (s2, true) else releasePaid s2 (scalarWho g2) (agentOf s2 g2 true 0) scope) = (s3, true)) :
    stackStore s g v y ord scope = setG s3 (nextSpc (stackPut g2 y.va (leBytes 8 v.toNat))) := by
  simp only [stackStore, hb, onFetched_done hs, hg, hr, Bool.false_eq_true, if_false, if_true]

/-- SC.ST of an aligned address whose page the probe passes goes to the stack cache, or becomes a request where a slot is free
for it. -/
theorem exec_scSt_found {s : State} {g : Group} {d a : SReg} {off : BitVec 8} {ord : MOrd} {scope : Scope} {pa pte : Nat}
    (hg : ScalarReady s g [a, d]) (ha : (scalarAddr g a off).toNat % 8 = 0) (hf : fenced s g true = false)
    (hl : look s g.asid (scalarAddr g a off).toNat needStore = .ok pa pte) :
    exec (.scSt d a off ord scope) s =
      let x := (scalarAddr g a off).toNat
      let s1 := learnAll s g.asid (asking needStore [(0, x)])
      let y : Found := { thr := 0, va := x, pa := pa, ok := pteOk pte }
      .next (if stackServes g x then stackStore s1 g (scal g d.toNat) y ord scope
        else if !slotsOk s1 g.core [pa / 64] then s1
        else advanceStreams (pushReq (setG s1 (nextSpc g)) (scalarReq s1 g y .store ord scope .add (scal g d.toNat) 0))
          g.core g.asid [y]) := by
  change execScSt d a off ord scope s = _
  rw [execScSt, scalarIssue_go hg.1 (scalarHazard_none.2 hg.2), scalarMem_found ha hf hl]

/-- Settles O15: the probe passes the address on, and each way of making the store completes. -/
theorem scalarStore : Obligations.ScalarStore := by
  intro s s2 s3 g d a off ord scope pa pte x s1 y g2 hg ha hf hl
  have hstore := exec_scSt_found (ord := ord) (scope := scope) hg ha hf hl
  rw [hstore]
  refine ⟨fun hstk hb hs hr => ?_, fun hstk hslot => ?_⟩
  · exact congrArg Host.Outcome.next ((if_pos hstk).trans (stackStore_done hb hs rfl hr))
  · have hfree : ¬ (!slotsOk s1 g.core [pa / 64]) = true := by simp [hslot]
    exact congrArg Host.Outcome.next ((if_neg (Bool.eq_false_iff.1 hstk)).trans (if_neg hfree))

end Sys2Proof.Machine
end

section
/-! PROOF. Barriers and named queues: arrivals, tests and waits, and handles that are moved all together or not at all. -/

namespace Sys2Proof.Machine

set_option Elab.async false

/-! ## An arrival -/

/-- The last arrival that a phase awaits ends it (R182). -/
theorem barArrive_last {v : BarVal} (hp : v.pend = 1) (hi : v.inc = 0) (ho : v.outc = 0) :
    barArrive v 0 0 = { v with gen := (v.gen + 1) % 16, pend := v.expct } := by
  simp [barArrive, barComplete, hp, hi, ho]

/-- Any other arrival lowers what is awaited (R182). -/
theorem barArrive_more {v : BarVal} (h0 : v.pend ≠ 0) (h1 : v.pend ≠ 1) (hi : v.inc < 2 ^ 32) (ho : v.outc < 2 ^ 32) :
    barArrive v 0 0 = { v with pend := v.pend - 1 } := by
  have hp : ¬ v.pend - 1 = 0 := by omega
  simpa [barArrive, barComplete, hp] using And.intro hi ho

/-! ## The checks at a barrier -/

section
variable {s : State} {g : Group} {q : QEntry} {f : LaneForm} {net : Bool} {c : Crew} {v : BarVal} {u : Nat} {us : List Nat}
  (hc : crewOf s g = some c)
  (hobj : net = false → opdInt g q 0 f.b 0 % 16 = 0 ∧ inAlloc c (opdInt g q 0 f.b 0) 16 = true)
  (hpoison : net = false → spadPoison s g.core (opdInt g q 0 f.b 0).toNat 16 = false)
  (hv : barVal s g (barAt g q f net) = some v) (hsound : v.sound = true)
include hc hobj hpoison hv hsound

/-- A barrier that passes its checks is gone on with (R318). -/
theorem withBar_found {thr : Nat} {ok : BarVal → Bool} (hok : ok v = true) (k : BarAt → BarVal → State) :
    withBar s g q f net thr ok k = k (barAt g q f net) v := by
  cases net with
  | true => simp [withBar, hc, hv, hsound, hok]
  | false =>
    obtain ⟨hal, hin⟩ := hobj rfl
    simp [withBar, hc, hal, hin, hpoison rfl, hv, hsound, hok]

variable (hfence : fenced s g false = false) (hact : actives g q f = u :: us)
include hfence hact

/-- BARA, with the transfers that it adds inbound and outbound (R319). -/
theorem exec_bara_arrives {m : BarMod} {s1 : State} {nIn nOut : Nat} (hm : m.net = net) (h : LaneReady s (.bara f m) g q)
    (hrel : releaseWaits s g false (maskOf (u :: us)) (barScope (barAt g q f net)) = false)
    (hpod : podBarrier s (barAt g q f net) = false)
    (hin : (if m.inn then nbits (opA g f u).toNat 0 32 else 0) = nIn)
    (hout : (if m.out then nbits (opA g f u).toNat 32 32 else 0) = nOut)
    (hpend : v.pend ≠ 0) (hcounts : net = true → nIn = 0 ∧ nOut = 0)
    (hpaid : releasePaid s (laneWho g) (agentOf s g false (maskOf (u :: us))) (barScope (barAt g q f net)) = (s1, true)) :
    let b := barAt g q f net
    let s2 := barPut s1 g b (barArrive v nIn nOut)
    exec (.bara f m) s = .next (enterPending s2 { g with arrived := g.arrived.put (barKey b) v.gen } f (u :: us)
      { newInfl s2 g q f .barrier [] with sreg := scalarDest (.bara f m), sval := dw v.gen }) := by
  subst hm
  have hok : (v.pend != 0 && !(m.net && (nIn != 0 || nOut != 0))) = true := by
    cases hn : m.net with
    | true => simp [hpend, hcounts hn]
    | false => simp [hpend]
  change execBara f m s = _
  rw [execBara, laneExec_ready h]
  simp only [hact, hfence, hrel, hpod, hin, hout, Bool.or_false, Bool.false_eq_true, if_false]
  rw [withBar_found hc hobj hpoison hv hsound hok]
  simp only [hpaid, Bool.not_true, Bool.false_eq_true, if_false]
  rfl

variable (hacq : acquireWaits s g false (maskOf (u :: us)) kindRc = false)
include hacq

/-- BARW tests its phase (R321). -/
theorem exec_barw_tests (h : LaneReady s (.barw f net) g q) :
    exec (.barw f net) s = .next (if phaseOver v.gen (opdDword g q 1 f.c 0).toNat
      then setG (acquireL1 s g.gid g.core (barScope (barAt g q f net))) (entered g f)
      else parkG s g (barPark (barAt g q f net)) (barTarget g (barAt g q f net)) true) := by
  change execBarw f net s = _
  rw [execBarw, laneExec_ready h]
  simp only [hact, hfence, hacq, Bool.or_false, Bool.false_eq_true, if_false]
  rw [withBar_found hc hobj hpoison hv hsound rfl]

/-- BARTW tests its phase, and with a hint leaves a record that goes on testing it (R320). -/
theorem exec_bartw_tests (h : LaneReady s (.bartw f net) g q) :
    let b := barAt g q f net
    let gen := (opdDword g q 1 f.c 0).toNat % 16
    let hint := (opA g f u).toNat
    let i := { newInfl s g q f .barrier [] with sreg := scalarDest (.bartw f net) }
    exec (.bartw f net) s = .next
      (if phaseOver v.gen gen then enterPending (acquireL1 s g.gid g.core (barScope b)) g f (u :: us) { i with sval := 1 }
      else if hint = 0 then enterPending s g f (u :: us) { i with sval := 0 }
      else enterPending s g f (u :: us) { i with kind := .tryBar, aux := s.pkg.time.toNat + hint
                                                 caps := [dw (barInfo b), dw gen, if net then 1 else 0, dw hint] }) := by
  change execBartw f net s = _
  rw [execBartw, laneExec_ready h]
  simp only [hact, hfence, hacq, Bool.or_false, Bool.false_eq_true, if_false]
  rw [withBar_found hc hobj hpoison hv hsound rfl]

end

/-- Settles O42: the arrival by its two cases, and each instruction by the checks that its barrier passes. -/
theorem barriers : Obligations.Barriers := by
  refine ⟨fun v h0 => ⟨barArrive_last, barArrive_more h0⟩, ?_⟩
  intro s g q f net c v u us b hc hobj hpoison hv hsound hfence hact
  refine ⟨?_, fun h hacq => exec_barw_tests hc hobj hpoison hv hsound hfence hact hacq h,
    fun h hacq => exec_bartw_tests hc hobj hpoison hv hsound hfence hact hacq h⟩
  intro m s1 hm h hrel hpod nIn nOut hpend hcounts hpaid
  exact exec_bara_arrives hc hobj hpoison hv hsound hfence hact hm h hrel hpod rfl rfl hpend hcounts hpaid

/-! ## Named queues -/

theorem pushWaits_iff {x n : Nat} : pushWaits x n = true ↔ ¬ (n ≤ qAllow x ∧ qUsed x + n ≤ qDepth x) := by
  simp only [pushWaits, Bool.or_eq_true, decide_eq_true_eq]
  omega

section
variable {s : State} {g : Group} {q : QEntry} {f : LaneForm} {c : Crew} {act : List Nat} {num x : Nat}
  (hc : crewOf s g = some c) (hnum : (opdDword g q 0 f.b 0).toNat = num) (hx : spadNat s g.core (qOff c num) 32 = x)
  (hsize : 32 * (num + 1) ≤ c.size) (hfields : qFieldsOk x = true) (hring : qRing x % 64 = 0)
  (hin : inAlloc c (qRing x) (4 * qDepth x) = true) (hdepth : act.length ≤ qDepth x)
  (hpoison : spadPoison s g.core (qOff c num) 32 = false)
include hc hnum hx hsize hfields hring hin hdepth hpoison

/-- A queue whose descriptor and ring pass their checks is gone on with (R187, R188). -/
theorem withQueue_found (k : Nat → Nat → Nat → State) : withQueue s g q f act k = k num (qOff c num) x := by
  have htrap : queueTrap s g.core c num act.length = none := by
    simp [queueTrap, hx, Nat.not_lt.2 hsize, hfields, hring, hin, Nat.not_lt.2 hdepth]
  simp only [withQueue, hc, hnum, hpoison, htrap, hx, Bool.and_false, Bool.false_eq_true, if_false]

variable {u : Nat} {us : List Nat} (hcons : act = u :: us) (hact : actives g q f = act) (hfence : fenced s g false = false)
include hcons hact hfence

/-- QPUSH past its checks: without room for every handle it parks, and else it moves them all once what it does as a release has
been done (R123, R188). -/
theorem exec_qpush_checked (h : LaneReady s (.qpush f) g q) (hrel : releaseWaits s g false (maskOf act) .core = false) :
    exec (.qpush f) s = .next (
      let w := releasePaid s (laneWho g) (agentOf s g false (maskOf act)) .core
      let s2 := ringPut w.1 g.core x (act.map fun t => (opA g f t).toNat % 2 ^ 32)
      if pushWaits x act.length then parkG s g (.queue num) (.queue num) true
      else if !w.2 then w.1
      else setG (spadWrite s2 g.core (qOff c num)
        (leBytes 32 (qSet x (qHead x) (qTail x + act.length) (qAllow x - act.length)))) (entered g f)) := by
  subst hcons
  change execQpush f s = _
  rw [execQpush, laneExec_ready h]
  simp only [hact, hfence, hrel, Bool.or_false, Bool.false_eq_true, if_false]
  rw [withQueue_found hc hnum hx hsize hfields hring hin hdepth hpoison]

/-- QPOP takes a handle for each thread, or parks where the ring holds too few (R188). -/
theorem exec_qpop_moves_or_parks (h : LaneReady s (.qpop f) g q) (hacq : acquireWaits s g false (maskOf act) kindRc = false)
    (hclean : ∀ k < act.length, spadPoison s g.core (ringAt x k) 4 = false) :
    exec (.qpop f) s = .next (if act.length ≤ qUsed x
      then
        let s1 := spadWrite s g.core (qOff c num)
          (leBytes 32 (qSet x (qHead x + act.length) (qTail x) (qAllow x + act.length)))
        enterPending s1 g f act { newInfl s1 g q f .pop [f.d.toNat] with
          writes := (act.zipIdx).foldl (fun w t => Cells.put w (32 * f.d.toNat + t.1) (dw (ringGet s g.core x t.2))) [] }
      else parkG s g (.queue num) (.queue num) true) := by
  have hbad : (act.zipIdx.any fun t => spadPoison s g.core (ringAt x t.2) 4) = false := by
    rw [List.any_eq_false]
    intro t ht
    simp [hclean t.2 (List.snd_lt_of_mem_zipIdx ht)]
  subst hcons
  change execQpop f s = _
  rw [execQpop, laneExec_ready h]
  simp only [hact, hfence, hacq, Bool.or_false, Bool.false_eq_true, if_false]
  rw [withQueue_found hc hnum hx hsize hfields hring hin hdepth hpoison]
  by_cases hused : (u :: us).length ≤ qUsed x
  · have hwaits : popWaits x (u :: us).length = false := by simpa [popWaits] using hused
    simp only [hwaits, hbad, hused, Bool.false_eq_true, if_false, if_true]
  · have hwaits : popWaits x (u :: us).length = true := by simpa [popWaits] using hused
    simp only [hwaits, hused, if_true, if_false]

end

/-- Settles O43: past the checks of its queue each instruction moves all handles or parks. -/
theorem namedQueues : Obligations.NamedQueues := by
  intro s g q f c u us act num off x hc hsize hfields hring hin hdepth hact hfence hpoison
  refine ⟨fun h hrel => ?_, exec_qpop_moves_or_parks hc rfl rfl hsize hfields hring hin hdepth hpoison rfl hact hfence⟩
  have hpush := exec_qpush_checked hc rfl rfl hsize hfields hring hin hdepth hpoison rfl hact hfence h hrel
  rw [hpush]
  refine ⟨fun hroom => ?_, fun s1 hroom hpaid => ?_⟩
  · rw [if_pos (pushWaits_iff.2 hroom)]
  · rw [if_neg (pushWaits_iff.not.2 (not_not.2 hroom)), hpaid]
    rfl

end Sys2Proof.Machine
end

section
/-! PROOF. TWAIT, WAITT and the end of a try-wait's hint. -/

namespace Sys2Proof.Machine

set_option Elab.async false

/-! ## What writing back the stack cache leaves of the group -/

/-- A group that is put in its place is found there, or none of its number is. -/
theorem findGroup_put_or (gs : List Group) (g : Group) :
    findGroup (putGroup gs g) g.gid = some g ∨ findGroup (putGroup gs g) g.gid = none := by
  cases h : findGroup gs g.gid with
  | some x => exact .inl (findGroup_put h (findGroup_gid h).symm)
  | none =>
    refine .inr ?_
    simp only [findGroup, putGroup, List.find?_eq_none, List.forall_mem_map] at h ⊢
    intro x hx
    simp [show ¬ x.gid = g.gid by simpa using h x hx]

/-- A group whose stack cache has been written back differs from what it was in that cache alone (R119). -/
theorem spilled_stack {s s1 : State} {g g1 : Group} {p : Nat → Bool} (hc : curG s = some g) (h : Spilled s g p s1 g1) :
    ∃ st, g1 = { g with stack := st } := by
  rcases h with ⟨-, -, rfl⟩ | ⟨-, hpaid, rfl⟩
  · exact ⟨g1.stack, rfl⟩
  · unfold spillCharged at hpaid
    split at hpaid
    · obtain ⟨rfl, -⟩ := Prod.mk.inj hpaid
      have hg : findGroup s.groups g.gid = some g := curG_gid hc ▸ hc
      exact ⟨g.stack, by rw [hg]; rfl⟩
    · dsimp only at hpaid
      split_ifs at hpaid with hreach
      · obtain ⟨rfl, -⟩ := Prod.mk.inj hpaid
        rcases findGroup_put_or ((g.stack.filter fun e => p e.1).foldl (fun s e => homeWrite s (firmPa s g.asid e.1) [e.2])
            (reachCore s g.core (laneWho g) clsDemand _).1).groups { g with stack := g.stack.filter fun e => !p e.1 } with h | h
        · exact ⟨_, by rw [spillStack, setG_groups, h]; rfl⟩
        · exact ⟨g.stack, by rw [spillStack, setG_groups, h]; rfl⟩
      · rw [hpaid] at hreach
        exact absurd rfl hreach

/-! ## TWAIT and WAITT -/

section
variable {s0 s s2 : State} {g0 g : Group} {q : QEntry} {f : LaneForm} {u : Nat} {us : List Nat} {scope : Scope}
  (hact : actives g0 q f = u :: us) (hfence : fenced s0 g0 false = false)
include hact hfence

/-- TWAIT whose word has been read at its home (R448). -/
theorem exec_twait_read {pa pte va n : Nat} {cond : WCond} {w32 : Bool} (h : LaneReady s0 (.twait f cond w32 scope) g0 q)
    (hva : (capOf q 0).toNat = va) (hn : (if w32 then 4 else 8) = n) (hal : va % n = 0)
    (hsp : Spilled s0 g0 (fun x => x / 8 == va / 8) s g) (hl : look s g.asid va needLoad = .ok pa pte)
    (hacq : acquireWaits (learnAll s g.asid (asking needLoad [(u, va)])) g false (maskOf (u :: us)) (pteOk pte) = false)
    (hbusy : lineBusy (learnAll s g.asid (asking needLoad [(u, va)])) g.core (pa / 64) = false)
    (hpoison : poisoned (learnAll s g.asid (asking needLoad [(u, va)])) pa n = false)
    (hread : readWords (learnAll s g.asid (asking needLoad [(u, va)])) g (maskOf (u :: us)) [(pa / 64, pteOk pte)] scope
      = (s2, true)) :
    exec (.twait f cond w32 scope) s0 = .next
      (if waitCond cond (8 * n) (cohNat s2 pa n) (opdDword g q 1 f.c 0).toNat
        then setG (acquireL1 s2 g.gid g.core scope) (endTwait g f (scalarDest (.twait f cond w32 scope)) 1)
        else if (opA g f u).toNat = 0 then setG s2 (endTwait g f (scalarDest (.twait f cond w32 scope)) 0)
        else parkG s2 g .word .memory true) := by
  have hhint : waitHint g q f = (opA g f u).toNat := by
    obtain ⟨st, rfl⟩ := spilled_stack h.1 hsp
    have hact' : actives { g0 with stack := st } q f = u :: us := hact
    rw [waitHint, hact']
    rfl
  change execTwait f cond w32 scope s0 = _
  rw [execTwait, laneExec_ready h]
  simp only [hact, hva, hn, hal, hfence, ne_eq, not_true_eq_false, Bool.false_eq_true, if_false]
  rw [spilled_go hsp, probeG_single hl]
  simp only [hacq, hbusy, hpoison, hread, hhint, wordHolds, hn, Bool.or_false, Bool.not_true, Bool.false_eq_true, if_false]

/-- WAITT whose words have been read at their homes (R450). -/
theorem exec_waitt_read {s1 : State} {addr : Nat → Nat} {els : List Asked} {fs : List Found}
    (h : LaneReady s0 (.waitt f scope) g0 q) (haddr : (fun t => (opdDword g0 q 0 f.b t).toNat) = addr)
    (hels : asking needLoad ((u :: us).map fun t => (t, addr t)) = els) (hal : ∀ t ∈ u :: us, addr t % 8 = 0)
    (hsp : Spilled s0 g0 (fun x => (u :: us).any fun t => x / 8 == addr t / 8) s g)
    (hm : misses (oneXlate s g.asid (els.map (·.va))) g.asid els = [])
    (hfs : founds (oneXlate s g.asid (els.map (·.va))) g.asid els = fs)
    (hs1 : learnAll (oneXlate s g.asid (els.map (·.va))) g.asid els = s1)
    (hfree : ∀ x ∈ fs, acquireWaits s1 g false (maskOf (u :: us)) x.ok = false ∧ lineBusy s1 g.core (x.pa / 64) = false ∧
      poisoned s1 x.pa 8 = false)
    (hread : readWords s1 g (maskOf (u :: us)) (fs.map fun x => (x.pa / 64, x.ok)).eraseDups scope = (s2, true)) :
    exec (.waitt f scope) s0 = .next
      (if ∀ x ∈ fs, (opdDword g q 1 f.c x.thr).toNat ≤ cohNat s2 x.pa 8
        then setG (acquireL1 s2 g.gid g.core scope) (entered g f)
        else parkG s2 g .timeline .memory true) := by
  have haligned : (u :: us).find? (fun t => decide (addr t % 8 ≠ 0)) = none := by
    rw [List.find?_eq_none]
    intro t ht
    simp [hal t ht]
  have hgo : (fs.any fun x => acquireWaits s1 g false (maskOf (u :: us)) x.ok || lineBusy s1 g.core (x.pa / 64)) = false := by
    rw [List.any_eq_false]
    intro x hx
    simp [hfree x hx]
  have hclean : (fs.find? fun x => poisoned s1 x.pa 8) = none := by
    rw [List.find?_eq_none]
    intro x hx
    simp [hfree x hx]
  have hholds : timesHold s2 g q f fs = true ↔ ∀ x ∈ fs, (opdDword g q 1 f.c x.thr).toNat ≤ cohNat s2 x.pa 8 := by
    simp [timesHold]
  change execWaitt f scope s0 = _
  subst haddr
  rw [execWaitt, laneExec_ready h]
  simp only [hact, haligned, hfence, Bool.false_eq_true, if_false]
  rw [spilled_go hsp, hels, probeG_found hm, hs1, hfs]
  simp only [hgo, hclean, hread, hholds, Bool.not_true, Bool.false_eq_true, if_false]

end

/-! ## The end of a hint -/

theorem dropOld_groups (s : State) (core : Nat) (ms : List Msg) : (dropOld s core ms).groups = s.groups := by
  unfold dropOld
  split_ifs <;> rfl

theorem freshLine_groups (s : State) (core line : Nat) : (freshLine s core line).groups = s.groups := by
  change (freshImages s core line).groups = s.groups
  unfold freshImages
  split
  · rfl
  · exact dropOld_groups s core _

/-- The waking of a group that no longer waits leaves it as it has become. -/
theorem findGroup_wakeStep {s : State} {g g1 : Group} (hg : findGroup s.groups g.gid = some g) (h1 : wakeOne s g = g1)
    (hne : g1 ≠ g) (hgid : g1.gid = g.gid) : findGroup (wakeStep s g).groups g.gid = some g1 := by
  have hput : findGroup (setG s g1).groups g.gid = some g1 := findGroup_put hg hgid
  unfold wakeStep
  simp only [h1, if_neg hne]
  split
  case h_1 x _ =>
    rw [(acquireL1_frame _ g.gid g.core _).1]
    change findGroup (freshLine (setG s g1) g.core x.2).groups g.gid = _
    rwa [freshLine_groups]
  case h_2 => exact hput

theorem readyG_endTwait_gid (time : Dword) (g : Group) (f : LaneForm) (d : Option SReg) (v : Dword) :
    (readyG time (endTwait g f d v)).gid = g.gid := by
  cases d with
  | none => exact entered_gid _ f
  | some r => exact (entered_gid _ f).trans (setScal_gid g r.toNat v)

/-- A group whose instruction has entered waits on no word, whether or not it stops at a marker. -/
theorem entered_park {g : Group} (f : LaneForm) (h : g.park ≠ .word) : (entered g f).park ≠ .word := by
  unfold entered
  dsimp only
  split
  · exact Park.noConfusion
  · exact h

theorem readyG_endTwait_park (time : Dword) (g : Group) (f : LaneForm) (d : Option SReg) (v : Dword) :
    (readyG time (endTwait g f d v)).park ≠ .word :=
  entered_park f Park.noConfusion

section
variable {s : State} {g : Group} {q : QEntry} {qs : List QEntry} {f : LaneForm} {cond : WCond} {w32 : Bool} {scope : Scope}
  {pa : Nat} (hg : findGroup s.groups g.gid = some g) (hpark : g.park = .word) (hq : g.queue = q :: qs)
  (hi : entryInstr q = some (.twait f cond w32 scope)) (hpa : waitPa s g.asid (capOf q 0).toNat = some pa)
  (hpoison : poisoned s pa (if w32 then 4 else 8) = false)
include hpark hq hi hpa hpoison

/-- A parked TWAIT completes where its condition holds, and goes on waiting where it does not (R448). -/
theorem wakeOne_twait : wakeOne s g = if wordHolds s g q f cond w32 pa
    then readyG s.pkg.time (endTwait g f (scalarDest (.twait f cond w32 scope)) 1) else g := by
  simp [wakeOne, hq, hi, hpark, hpa, hpoison]

include hg

/-- A hint that has elapsed where the condition holds returns 1 (R457). -/
theorem exec_expiry_holds (hw : wordHolds s g q f cond w32 pa = true) :
    ∃ t, exec (.tryWaitHintExpiry g.gid 0) s = .next t ∧
      findGroup t.groups g.gid = some (readyG s.pkg.time (endTwait g f (scalarDest (.twait f cond w32 scope)) 1)) := by
  have hwake := (wakeOne_twait hpark hq hi hpa hpoison).trans (if_pos hw)
  have hne : readyG s.pkg.time (endTwait g f (scalarDest (.twait f cond w32 scope)) 1) ≠ g :=
    fun e => readyG_endTwait_park _ g f _ 1 (e.symm ▸ hpark)
  refine ⟨wakeStep s g, ?_, findGroup_wakeStep hg hwake hne (readyG_endTwait_gid ..)⟩
  change execTryWaitHintExpiry g.gid 0 s = _
  rw [execTryWaitHintExpiry, hg]
  dsimp only
  rw [if_pos rfl, hpark, hq]
  dsimp only
  rw [hi]
  dsimp only
  rw [hwake, if_pos hne]

/-- One that has elapsed where it does not returns 0 (R448). -/
theorem exec_expiry_ends (hw : wordHolds s g q f cond w32 pa = false)
    (ht : g.waitFrom.toNat + waitHint g q f ≤ s.pkg.time.toNat) :
    exec (.tryWaitHintExpiry g.gid 0) s =
      .next (setG s (readyG s.pkg.time (endTwait g f (scalarDest (.twait f cond w32 scope)) 0))) := by
  have hwake := (wakeOne_twait hpark hq hi hpa hpoison).trans (if_neg (Bool.eq_false_iff.1 hw))
  change execTryWaitHintExpiry g.gid 0 s = _
  rw [execTryWaitHintExpiry, hg]
  dsimp only
  rw [if_pos rfl, hpark, hq]
  dsimp only
  rw [hi]
  dsimp only
  rw [hwake, if_neg (not_not.2 rfl), if_pos ht]

end

/-- The elapsed hint of a BARTW: its object is tested before it returns 0, and consumed where it is poisoned (R184, R282). -/
theorem exec_expiry_bartw {s : State} {g : Group} {i : Inflight} (hg : findGroup s.groups g.gid = some g) (h0 : i.id ≠ 0)
    (hi : (g.infl.find? fun x => x.id == i.id && x.kind == .tryBar) = some i) (ht : i.aux ≤ s.pkg.time.toNat) :
    exec (.tryWaitHintExpiry g.gid i.id) s = .next (match tryHolds s g i with
      | some sc => deliver (acquireL1 s g.gid g.core sc) g { i with sval := 1 }
      | none => if tryBad s g i then consume s g 0 0 0 else deliver s g { i with sval := 0 }) := by
  change execTryWaitHintExpiry g.gid i.id s = _
  rw [execTryWaitHintExpiry, hg]
  dsimp only
  rw [if_neg h0, hi]
  dsimp only
  cases tryHolds s g i <;> exact congrArg Host.Outcome.next (if_neg (Nat.not_lt.2 ht))

/-- Settles O44: each instruction once its words have been read, and each hint as it elapses. -/
theorem waitsOnWords : Obligations.WaitsOnWords := by
  refine ⟨?_, ?_, ?_, fun s g i => exec_expiry_bartw⟩
  · intro s0 s g0 g q f u us pa pte cond w32 scope va n d s1 hact h hal hfence hsp hl hacq hbusy hpoison s2 hread
    exact exec_twait_read hact hfence h rfl rfl hal hsp hl hacq hbusy hpoison hread
  · intro sA s gA g q f u us scope addr els s0 fs s1 hact h hal hfence hsp hm hfree s2 hread
    exact exec_waitt_read hact hfence h rfl rfl hal hsp hm rfl rfl hfree hread
  · intro s g q qs f cond w32 scope hg hpark hq hi pa hpa hpoison ends
    exact ⟨exec_expiry_holds hg hpark hq hi hpa hpoison, exec_expiry_ends hg hpark hq hi hpa hpoison⟩

end Sys2Proof.Machine
end

section
/-! PROOF. Background events: the access counters, the rows of a stack cache, the Winnower, snoops and sharer messages. -/

namespace Sys2Proof.Machine

set_option Elab.async false

/-! ## Rows of the stack cache -/

section
variable {s s1 : State} {g : Group} {who : Asker} {p : Nat → Bool}

/-- With no byte to write back, writing back does nothing. -/
theorem spillCharged_none (h : ((g.stack.filter fun e => p e.1).map fun e => firmPa s g.asid e.1 / 64).eraseDups = []) :
    spillCharged s g who p = (s, true) := by
  rw [spillCharged, h]

/-- The bytes are written back once their lines have been charged (R119). -/
theorem spillCharged_paid {ls : List Nat} (hls : ls ≠ [])
    (h : ((g.stack.filter fun e => p e.1).map fun e => firmPa s g.asid e.1 / 64).eraseDups = ls)
    (hr : reachCore s g.core who clsDemand ls = (s1, true)) : spillCharged s g who p = (spillStack s1 g p, true) := by
  obtain ⟨l, r, rfl⟩ := List.exists_cons_of_ne_nil hls
  simp only [spillCharged, h, hr, if_true]

theorem stackFetch_row {row : Nat} :
    stackFetch s g who [256 * row] = fetchRows s g.gid g.core g.asid who [row] := by
  simp [stackFetch, List.eraseDups_cons]

variable {row : Nat} (hg : findGroup s.groups g.gid = some g)
include hg

/-- A row that is held is not fetched again. -/
theorem fetchRows_held (hrow : row ∈ g.rows) : fetchRows s g.gid g.core g.asid who [row] = (s, true) := by
  simp [fetchRows, hg, hrow]

/-- One that is not is held once its lines have been charged (R119). -/
theorem fetchRows_paid (hrow : row ∉ g.rows)
    (hr : reachCore s g.core who clsDemand (tab 4 fun k => firmPa s g.asid (256 * row + 64 * k) / 64) = (s1, true)) :
    fetchRows s g.gid g.core g.asid who [row] = ({ s1 with
      groups := s1.groups.map fun x => if x.gid = g.gid then { x with rows := row :: x.rows } else x }, true) := by
  simp [fetchRows, hg, hrow, hr]

variable (hin : inStack g (256 * row) = true)
include hin

theorem exec_stackRow_out (hw : inWindow g row = false) {t : State}
    (h : spillCharged s g (.spill g.gid) (fun va => va / 256 == row) = (t, true)) :
    exec (.stackCacheFillSpill g.gid row) s = .next (mapGroup t g.gid fun x => dropRow x row) := by
  change execStackCacheFillSpill g.gid row s = _
  simp only [execStackCacheFillSpill, hg, hin, hw, h, Bool.not_true, Bool.false_eq_true, if_false, if_true]

theorem exec_stackRow_in (hw : inWindow g row = true) :
    exec (.stackCacheFillSpill g.gid row) s = .next (fetchRows s g.gid g.core g.asid (.spill g.gid) [row]).1 := by
  change execStackCacheFillSpill g.gid row s = _
  simp only [execStackCacheFillSpill, hg, hin, hw, stackFetch_row, Bool.not_true, Bool.false_eq_true, if_false, if_true]

end

/-! ## The Winnower -/

/-- A dirty line is cleaned within the cleaning budget (R127). -/
theorem exec_winnowerClean_line {s s1 : State} {line : Nat} (hd : ∃ e ∈ s.mem.llc, e.1 / 64 = line)
    (ho : oldSector s line = true)
    (ha : aheadOf s (.clean false line) clsCleaning (reqResources s line ++ behindSlice s (line / 64) 1) = false)
    (hc : chargeAll s clsCleaning 64 (reqResources s line ++ behindSlice s (line / 64) 1) = some s1) :
    exec (.winnowerClean false line) s = .next (cleanLlcLine (leaveWait s1 (.clean false line)) line) := by
  have hdirty : (s.mem.llc.any fun e => e.1 / 64 == line) = true := by simpa using hd
  have hclaim : claim s (.clean false line) clsCleaning lineSize (reqResources s line ++ behindSlice s (line / 64) 1) = _ :=
    claim_charged ha hc
  change execWinnowerClean false line s = _
  simp only [execWinnowerClean, hdirty, ho, hclaim, Bool.and_true, Bool.false_eq_true, if_false, if_true]

/-- A line that has been cleaned is no longer dirty at its slice. -/
theorem cleanLlcLine_llc (s : State) (line : Nat) : ∀ e ∈ (cleanLlcLine s line).mem.llc, e.1 / 64 ≠ line := by
  have hllc : (cleanLlcLine s line).mem.llc = s.mem.llc.filter fun e => e.1 / 64 ≠ line := by
    unfold cleanLlcLine
    dsimp only
    split_ifs
    · rfl
    · exact (poolFold_caches _ _).1
  intro e he
  rw [hllc] at he
  simpa using (List.mem_filter.1 he).2

/-- A dirty frame is written back within the cleaning budget (R127). -/
theorem exec_winnowerClean_frame {s s1 : State} {f : Frame}
    (hf : (s.mem.frames.find? fun x => x.num == f.num && !x.gone) = some f) (hd : frameDirty s f = true)
    (ho : oldQuarter s f = true) (ha : aheadOf s (.clean true f.num) clsCleaning (pageResources s f.page f.num 1) = false)
    (hc : chargeAll s clsCleaning 4096 (pageResources s f.page f.num 1) = some s1) :
    exec (.winnowerClean true f.num) s = .next (flushFrame (leaveWait s1 (.clean true f.num)) f.page) := by
  have hclaim : claim s (.clean true f.num) clsCleaning pageBytes (pageResources s f.page f.num 1) = _ :=
    claim_charged ha hc
  change execWinnowerClean true f.num s = _
  simp only [execWinnowerClean, hf, hd, ho, hclaim, Bool.not_true, Bool.or_false, Bool.false_eq_true, if_false, if_true]

/-! ## Snoops -/

/-- A line that goes to the pool is dirty neither at its slice nor in its frame. -/
theorem lineToPool_caches (m : Mem) (line : Nat) :
    (∀ e ∈ (lineToPool m line).llc, e.1 / 64 ≠ line) ∧ ∀ e ∈ (lineToPool m line).loc, e.1 / 64 ≠ line := by
  constructor
  all_goals
    intro e he
    simpa using (List.mem_filter.1 he).2

/-! ## Sharer messages -/

section
variable {s : State} {m : Msg} (hm : (s.coh.msgs.find? fun x => x.id == m.id) = some m)
include hm

/-- A message that reaches its quad goes on to the cores that it concerns (R168). -/
theorem exec_messageQuad {o : Obj} (hc : m.cores = none) (hb : msgBehind s m none = false)
    (ho : findObj s m.asid m.obj = some o) :
    exec (.precisionMessageQuad m.id) s = .next (setMsg s m (msgCores s m o)) := by
  change execPrecisionMessageQuad m.id s = _
  simp [execPrecisionMessageQuad, hm, hc, hb, ho]

/-- A core that it reaches is no longer awaited (R168). -/
theorem exec_messageCore {l : List Nat} {core : Nat} (hc : m.cores = some l) (hl : core ∈ l)
    (hb : msgBehind s m (some core) = false) :
    exec (.precisionMessageCore m.id core) s = .next (setMsg (applyMsg s m core) m (l.filter (· ≠ core))) := by
  change execPrecisionMessageCore m.id core s = _
  simp [execPrecisionMessageCore, hm, hc, hl, hb]

end

/-- Settles O54: each event by the lemma about it. -/
theorem backgroundEvents : Obligations.BackgroundEvents := by
  refine ⟨fun s hdue => congrArg Host.Outcome.next (if_pos hdue), ?_, ?_, fun s s1 f => exec_winnowerClean_frame, ?_,
    fun s m hm => ⟨fun o => exec_messageQuad hm, fun l core => exec_messageCore hm⟩⟩
  · intro s s1 g row hg hin lines
    refine ⟨fun hw => ⟨fun h0 => ?_, fun hne hr => ?_⟩, fun hw => ⟨fun hrow => ?_, fun hrow hr => ?_⟩⟩
    · exact exec_stackRow_out hg hin hw (spillCharged_none h0)
    · exact exec_stackRow_out hg hin hw (spillCharged_paid hne rfl hr)
    · rw [exec_stackRow_in hg hin hw, fetchRows_held hg hrow]
    · rw [exec_stackRow_in hg hin hw, fetchRows_paid hg hrow hr]
  · exact fun s s1 line hd ho ha hc => ⟨exec_winnowerClean_line hd ho ha hc, cleanLlcLine_llc _ line⟩
  · intro s line
    obtain ⟨hllc, hloc⟩ := lineToPool_caches _ line
    refine ⟨fun hh => congrArg Host.Outcome.next (if_pos hh), fun hh hp => congrArg Host.Outcome.next (if_neg ?_), hllc, hloc⟩
    simp [hh, hp]

end Sys2Proof.Machine
end

section
/-! PROOF. What writes of memory leave alone: one lemma for each operation, in the order in which the model states them. -/

namespace Sys2Proof.Machine

set_option Elab.async false

/-- A stash entry that differs from another in the lines that it holds, at most. -/
def Alike (e e' : Stash) : Prop := ∃ filled dirty, e' = { e with filled := filled, dirty := dirty }

theorem Alike.refl (e : Stash) : Alike e e := ⟨e.filled, e.dirty, rfl⟩

theorem Alike.trans {e e' e'' : Stash} (h : Alike e e') (k : Alike e' e'') : Alike e e'' := by
  obtain ⟨_, _, rfl⟩ := h
  obtain ⟨filled, dirty, rfl⟩ := k
  exact ⟨filled, dirty, rfl⟩

/-- A crew that is in another's place, with the same stash entries, but for the lines that they hold. -/
def Follows (c c' : Crew) : Prop :=
  c'.grid = c.grid ∧ c'.num = c.num ∧ ∃ h : Stash → Stash, c'.stash = c.stash.map h ∧ ∀ e, Alike e (h e)

theorem Follows.refl (c : Crew) : Follows c c := ⟨rfl, rfl, id, c.stash.map_id.symm, Alike.refl⟩

theorem Follows.trans {c c' c'' : Crew} (h : Follows c c') (k : Follows c' c'') : Follows c c'' := by
  obtain ⟨hgrid, hnum, f, hf, hlike⟩ := h
  obtain ⟨kgrid, knum, f', hf', klike⟩ := k
  exact ⟨kgrid.trans hgrid, knum.trans hnum, f' ∘ f, by rw [hf', hf, List.map_map], fun e => (hlike e).trans (klike (f e))⟩

theorem Follows.bare {c c' : Crew} (h : Follows c c') (hc : c.stash = []) : c'.stash = [] := by
  obtain ⟨-, -, f, hf, -⟩ := h
  rw [hf, hc, List.map_nil]

/-- The entry that an offset lies in follows the one that it lay in. -/
theorem Follows.stashAt {c c' : Crew} (h : Follows c c') {off : Nat} {e : Stash} (he : stashAt c off = some e) :
    ∃ e', Machine.stashAt c' off = some e' ∧ Alike e e' := by
  obtain ⟨-, -, f, hf, hlike⟩ := h
  have hsame : ∀ e, (f e).sbase = e.sbase ∧ (f e).foot = e.foot := by
    intro e
    obtain ⟨filled, dirty, hfe⟩ := hlike e
    rw [hfe]
    exact ⟨rfl, rfl⟩
  refine ⟨f e, ?_, hlike e⟩
  unfold Machine.stashAt at he ⊢
  rw [hf, List.find?_map, Option.map_eq_some_iff]
  refine ⟨e, ?_, rfl⟩
  simpa [Function.comp_def, hsame] using he

/-- The groups, the host queues, the marks of poison in the scratchpads and the package's place in its pod stand as they were, and
each crew keeps its place and its stash entries, but for the lines that these hold. -/
structure Besides (s t : State) : Prop where
  groups : t.groups = s.groups
  queues : t.queues = s.queues
  poisonSpad : t.poisonSpad = s.poisonSpad
  podPos : t.pkg.podPos = s.pkg.podPos
  crews : ∃ k : Crew → Crew, t.crews = s.crews.map k ∧ ∀ c, Follows c (k c)

theorem Besides.of_crews {s t : State} (hg : t.groups = s.groups) (hq : t.queues = s.queues)
    (hp : t.poisonSpad = s.poisonSpad) (ho : t.pkg.podPos = s.pkg.podPos) (hc : t.crews = s.crews) : Besides s t :=
  ⟨hg, hq, hp, ho, id, by simpa using hc, Follows.refl⟩

theorem Besides.refl (s : State) : Besides s s := .of_crews rfl rfl rfl rfl rfl

theorem Besides.trans {s t u : State} (h : Besides s t) (k : Besides t u) : Besides s u := by
  obtain ⟨f, hf, hfollow⟩ := h.crews
  obtain ⟨f', hf', hfollow'⟩ := k.crews
  refine ⟨k.groups.trans h.groups, k.queues.trans h.queues, k.poisonSpad.trans h.poisonSpad, k.podPos.trans h.podPos,
    f' ∘ f, by rw [hf', hf, List.map_map], fun c => (hfollow c).trans (hfollow' (f c))⟩

theorem besides_foldl {β : Type} {f : State → β → State} (hf : ∀ s b, Besides s (f s b)) (l : List β) (s : State) :
    Besides s (l.foldl f s) :=
  foldl_keeps (p := Besides s) (fun t b h => h.trans (hf t b)) l (.refl s)

/-- A crew that is found is found again, in its place. -/
theorem Besides.findCrew {s t : State} (h : Besides s t) {grid num : Nat} {c : Crew} (hc : findCrew s grid num = some c) :
    ∃ c', Machine.findCrew t grid num = some c' ∧ Follows c c' := by
  obtain ⟨k, hk, hfollow⟩ := h.crews
  refine ⟨k c, ?_, hfollow c⟩
  unfold Machine.findCrew at hc ⊢
  rw [hk, List.find?_map, Option.map_eq_some_iff]
  refine ⟨c, ?_, rfl⟩
  simpa [Function.comp_def, (hfollow _).1, (hfollow _).2.1] using hc

section
variable (s : State)

/-! ## The governor and the home slices -/

theorem besides_claim (who : Asker) (cls n : Nat) (rs : List Nat) : Besides s (claim s who cls n rs).1 := by
  obtain ⟨gov, h⟩ := claim_frame s who cls n rs
  rw [h]
  exact .of_crews rfl rfl rfl rfl rfl

theorem besides_owe (rs : List Nat) : Besides s (owe s rs) := by
  obtain ⟨next, gov, h⟩ := owe_frame s rs
  rw [h]
  exact .of_crews rfl rfl rfl rfl rfl

theorem besides_useHome (line : Nat) : Besides s (useHome s line) := by
  unfold useHome
  split <;> exact .of_crews rfl rfl rfl rfl rfl

theorem besides_recallStash (line : Nat) (drop : Bool) : Besides s (recallStash s line drop) := by
  refine ⟨rfl, rfl, rfl, rfl, _, rfl, fun c => ⟨rfl, rfl, _, rfl, fun e => ?_⟩⟩
  split
  · exact ⟨_, _, rfl⟩
  · exact .refl e

theorem besides_sendHome (line : Nat) : Besides s (sendHome s line) := by
  unfold sendHome
  split <;> exact .of_crews rfl rfl rfl rfl rfl

theorem Besides.sendHome {s t : State} (h : Besides s t) (line : Nat) : Besides s (Machine.sendHome t line) :=
  h.trans (besides_sendHome t line)

theorem besides_recallLine (line : Nat) : Besides s (recallLine s line) := by
  refine Besides.sendHome ?_ line
  exact (besides_recallStash s line true).trans (.of_crews rfl rfl rfl rfl rfl)

theorem besides_cleanLine (line : Nat) : Besides s (cleanLine s line) := by
  refine Besides.sendHome ?_ line
  exact (besides_recallStash s line false).trans (.of_crews rfl rfl rfl rfl rfl)

theorem besides_flushLlc (page : Nat) : Besides s (flushLlc s page) := by
  unfold flushLlc
  dsimp only
  split <;> exact .of_crews rfl rfl rfl rfl rfl

theorem besides_evictSector (page : Nat) : Besides s (evictSector s page) := by
  have hrecall : Besides s (recallPage s page) := besides_foldl (fun s i => besides_recallLine s _) _ s
  have hflush : Besides s (flushLlc (recallPage s page) page) := hrecall.trans (besides_flushLlc _ page)
  unfold evictSector sectorLoses
  generalize flushLlc (recallPage s page) page = t at hflush
  exact hflush.trans (.of_crews rfl rfl rfl rfl rfl)

theorem besides_sectorRoom (page : Nat) : Besides s (sectorRoom s page) := by
  unfold sectorRoom
  dsimp only
  split
  · exact .refl s
  · have hdraw : Besides s { s with draws := s.draws + 1 } := .of_crews rfl rfl rfl rfl rfl
    exact hdraw.trans (besides_evictSector _ _)

theorem besides_touchSector (line : Nat) : Besides s (touchSector s line) := by
  unfold touchSector
  dsimp only
  split_ifs
  · exact .refl s
  · exact .of_crews rfl rfl rfl rfl rfl
  · exact (besides_sectorRoom s (line / 64)).trans (.of_crews rfl rfl rfl rfl rfl)

theorem besides_atSlice (line : Nat) : Besides s (atSlice s line) := by
  have h : Besides s (touchSector (useHome s line) line) := (besides_useHome s line).trans (besides_touchSector _ line)
  unfold atSlice countOwn
  dsimp only
  split
  · exact h
  · exact h.trans (.of_crews rfl rfl rfl rfl rfl)

theorem besides_deviceAt (line : Nat) : Besides s (deviceAt s line) := (besides_owe s _).trans (besides_atSlice _ line)

theorem besides_atHome (line : Nat) : Besides s (atHome s line) := by
  unfold atHome
  dsimp only
  split
  · exact besides_atSlice s line
  · exact (besides_atSlice s line).trans (besides_cleanLine _ line)

/-- A demand access of a core reaches its homes, or waits. -/
theorem besides_reachCore (core : Nat) (who : Asker) (lines : List Nat) :
    Besides s (reachCore s core who clsDemand lines).1 := by
  have hclaim := besides_claim s who clsDemand 64 (lines.flatMap (accessResources s noCore))
  unfold reachCore reach
  rw [if_pos (rfl : clsDemand = clsDemand)]
  dsimp only
  generalize claim s who clsDemand 64 (lines.flatMap (accessResources s noCore)) = r at hclaim
  cases hslots : slotsOk s core lines
  · exact .refl s
  cases hsend : sendable s lines
  · exact .refl s
  cases hr : r.2
  · simpa [hr] using hclaim
  · simpa [hr] using hclaim.trans (besides_foldl besides_atHome lines r.1)

/-! ## Writes -/

theorem besides_recallBy (w : Writer) (line : Nat) : Besides s (recallBy s w line) := by
  unfold recallBy
  split
  · exact (besides_recallStash s line true).trans (.of_crews rfl rfl rfl rfl rfl)
  · exact (besides_recallStash s line true).trans (.of_crews rfl rfl rfl rfl rfl)

theorem besides_homeStore (w : Writer) (pa : Nat) (bs : List Byte) : Besides s (homeStore s w pa bs) := by
  refine Besides.sendHome ?_ (pa / 64)
  exact (besides_foldl (fun s l => (besides_touchSector s l).trans (besides_recallBy _ w l)) _ s).trans
    (.of_crews rfl rfl rfl rfl rfl)

theorem besides_writeLine (w : Writer) (pa : Nat) (bs : List Byte) : Besides s (writeLine s w pa bs) := by
  unfold writeLine
  dsimp only
  split
  · exact besides_homeStore s w pa bs
  · refine (besides_homeStore s w pa bs).trans (besides_foldl (fun t o => ?_) _ _)
    exact .of_crews rfl rfl rfl rfl rfl

theorem besides_writeLines (w : Writer) (pa : Nat) (bs : List Byte) (fuel : Nat) :
    Besides s (writeLines s w pa bs fuel) := by
  induction fuel generalizing s w pa bs with
  | zero => cases bs <;> exact .refl s
  | succ n ih =>
    cases bs with
    | nil => exact .refl s
    | cons b r => exact (besides_writeLine s w pa _).trans (ih _ _ _ _)

theorem besides_writeBy (w : Writer) (pa : Nat) (bs : List Byte) : Besides s (writeBy s w pa bs) :=
  besides_writeLines s w pa bs _

theorem besides_devWrite (pa : Nat) (bs : List Byte) : Besides s (devWrite s pa bs) := by
  unfold devWrite
  split
  · exact (besides_foldl besides_deviceAt _ s).trans (besides_writeBy _ _ pa bs)
  · exact .of_crews rfl rfl rfl rfl rfl

theorem besides_vaWrite (w : Writer) (asid va : Nat) (bs : List Byte) : Besides s (vaWrite s w asid va bs) := by
  have hone : ∀ (s : State) (va : Nat) (bs : List Byte),
      Besides s (match devicePa s asid va needStore with | none => s | some pa => writeBy s w pa bs) := by
    intro s va bs
    split
    · exact .refl s
    · exact besides_writeBy s w _ bs
  exact ((besides_foldl besides_deviceAt _ s).trans (hone _ _ _)).trans (hone _ _ _)

/-! ## Reads of the device -/

theorem besides_keepXlate (asid va : Nat) : Besides s (keepXlate s asid va) := by
  have hwalked : Besides s (walked s asid va) := by
    unfold walked
    split
    · exact .refl s
    · split <;> exact .of_crews rfl rfl rfl rfl rfl
  unfold keepXlate
  split
  · exact .refl s
  · split
    · exact .refl s
    · exact hwalked.trans (.of_crews rfl rfl rfl rfl rfl)

theorem besides_learnAll (asid : Nat) (els : List Asked) : Besides s (learnAll s asid els) := by
  unfold learnAll learnEach
  split
  · exact .refl s
  · exact (besides_foldl (fun s va => besides_keepXlate s asid va) _ s).trans (.of_crews rfl rfl rfl rfl rfl)

/-! ## The buffered stores of a core, and its copies -/

theorem besides_flushSi (gid core : Nat) (line : Option Nat) : Besides s (flushSi s gid core line) := by
  unfold flushSi
  dsimp only
  split
  · exact .refl s
  · refine Besides.trans ?_ (besides_foldl (fun s (x : Nat × List Byte) => besides_writeBy s _ x.1 x.2) _ _)
    exact .of_crews rfl rfl rfl rfl rfl

theorem besides_flushLines (who : Asker) (gid core : Nat) (ls : List Nat) :
    Besides s (flushLines s who gid core ls).1 := by
  induction ls generalizing s with
  | nil => exact .refl s
  | cons l r ih =>
    unfold flushLines
    dsimp only
    split
    · exact ((besides_reachCore s core who [l]).trans (besides_flushSi _ gid core (some l))).trans (ih _)
    · exact besides_reachCore s core who [l]

theorem besides_releaseL1 (a : Agent) (scope : Scope) : Besides s (releaseL1 s a scope) :=
  (besides_flushSi s a.gid a.core none).trans (.of_crews rfl rfl rfl rfl rfl)

theorem besides_dropOld (core : Nat) (ms : List Msg) : Besides s (dropOld s core ms) := by
  unfold dropOld
  split
  · exact .refl s
  · refine ⟨rfl, rfl, rfl, rfl, _, rfl, fun c => ?_⟩
    split
    · refine ⟨rfl, rfl, _, rfl, fun e => ?_⟩
      split
      · exact ⟨_, _, rfl⟩
      · exact .refl e
    · exact .refl c

theorem besides_freshImages (core line : Nat) : Besides s (freshImages s core line) := by
  unfold freshImages
  split
  · exact .refl s
  · exact besides_dropOld s core _

theorem besides_freshLine (core line : Nat) : Besides s (freshLine s core line) :=
  (besides_freshImages s core line).trans (.of_crews rfl rfl rfl rfl rfl)

theorem besides_putStashLine (core : Nat) (f : Nat × Nat) : Besides s (putStashLine core s f) := by
  refine Besides.sendHome ?_ f.2
  exact .of_crews rfl rfl rfl rfl rfl

end

end Sys2Proof.Machine
end

section
/-! PROOF. The packets of a host queue. -/

namespace Sys2Proof.Machine

set_option Elab.async false

/-! ## A queue that is found -/

theorem findQueue_setQueue {s : State} {n : Nat} {q q' : HostQueue} (h : findQueue s n = some q) (hq : q'.num = n) :
    findQueue (setQueue s q') n = some q' := by
  unfold findQueue setQueue at *
  subst hq
  have hsame : ((fun x : HostQueue => x.num == q'.num) ∘ fun x => if x.num = q'.num then q' else x) =
      fun x => x.num == q'.num := by
    funext x
    by_cases hx : x.num = q'.num <;> simp [hx]
  have hnum : q.num = q'.num := by simpa using List.find?_some h
  rw [List.find?_map, hsame, h]
  simp [hnum]

theorem Besides.findQueue {s t : State} (h : Besides s t) (n : Nat) : Machine.findQueue t n = Machine.findQueue s n := by
  unfold Machine.findQueue
  rw [h.queues]

/-- What a queue's fetcher still has to do is what has just started, where none of the packets before has such a step. -/
theorem stepOf_consumed {q : HostQueue} {f : PktWait → Option (Nat × Nat)} {w : PktWait} {x : Nat × Nat}
    (h : ∀ e ∈ q.pkts, f e.2 = none) (hw : f w = some x) : stepOf (consumed q w) f = some (q.fetched + 1, x) := by
  have hnone : q.pkts.findSome? (fun p => (f p.2).map fun x => (p.1, x)) = none := by
    rw [List.findSome?_eq_none_iff]
    intro e he
    rw [h e he]
    rfl
  simp [stepOf, consumed, List.findSome?_append, hnone, hw]

/-- The signal that a started WRITESIGNAL still has to write, and the word that a started WAITTL awaits. -/
def signalOf : PktWait → Option (Nat × Nat) := fun w => match w with | .signal sig v => some (sig, v) | _ => none
def wordOf : PktWait → Option (Nat × Nat) := fun w => match w with | .word va n => some (va, n) | _ => none

/-- None of a queue's packets has a write under way, or a signal to write. -/
def Rests (q : HostQueue) : Prop := ∀ e ∈ q.pkts, e.2 ≠ .sent ∧ ∀ a b, e.2 ≠ .signal a b

theorem Rests.signalOf {q : HostQueue} (h : Rests q) : ∀ e ∈ q.pkts, signalOf e.2 = none := by
  intro e he
  have hne := (h e he).2
  cases hw : e.2 with
  | signal a b => exact absurd hw (hne a b)
  | _ => rfl

section
variable {s : State} {q : HostQueue} (hq : findQueue s q.num = some q)
include hq

/-! ## What follows the packet at the head -/

theorem sentDone_rests (h : Rests q) : sentDone s q.num = s := by
  have hnone : (q.pkts.any fun p => p.2 == .sent) = false := by
    simpa using fun a b hm => (h (a, b) hm).1
  simp [sentDone, hq, hnone]

theorem trySignal_rests (h : Rests q) : trySignal s q.num = s := by
  have hnone : stepOf q signalOf = none := by
    unfold stepOf
    rw [List.findSome?_eq_none_iff]
    intro e he
    rw [h.signalOf e he]
    rfl
  unfold trySignal
  simp only [hq]
  split
  · exact sentDone_rests hq h
  · next hsome => cases hnone.symm.trans hsome

/-- A started WRITESIGNAL writes its signal once no message of its data is under way (R291). -/
theorem trySignal_signal {n sig v : Nat} (hstep : stepOf q signalOf = some (n, sig, v)) (hl : q.left = 0) :
    trySignal s q.num = if fetcherSent s q then s
      else packetProbe s q (some n) (asking needStore [(0, sig)]) fun s _ =>
        sentDone (packetWrite s (q.stepTo n .sent) sig (leBytes 8 v)) q.num := by
  unfold trySignal
  simp only [hq]
  split
  · next hnone => cases hstep.symm.trans hnone
  · next hsome =>
    cases hstep.symm.trans hsome
    simp [hl]

/-- A started WAITTL probes its word (R291). -/
theorem tryWaittl_word {n va m : Nat} (hstep : stepOf q wordOf = some (n, va, m)) (hl : q.left = 0) :
    tryWaittl s q.num = packetProbe s q (some n) (asking needLoad [(0, va)]) fun s fs =>
        let lines := fs.map fun x => x.pa / 64
        if !sendable s lines then s
        else
          let s := noteReads s lines
          if fs.all fun x => decide (m ≤ cohNat s x.pa 8) then packetDone s q.num (.word va m) else s := by
  unfold tryWaittl
  simp only [hq]
  split
  · next hnone => cases hstep.symm.trans hnone
  · next hsome =>
    cases hstep.symm.trans hsome
    simp [hl]

end

theorem fetcherSent_iff {s : State} {q : HostQueue} : fetcherSent s q = true ↔ ∃ m ∈ s.coh.msgs, m.gid = 2 ^ 32 + q.num := by
  simp only [fetcherSent, List.any_eq_true, beq_iff_eq]
  rfl

/-- The write of a packet that has written all it writes completes it, once no message of the write is under way (R169). -/
theorem sentDone_sent {s : State} {q q' : HostQueue} (hq : findQueue s q.num = some q') (hnum : q'.num = q.num)
    (hsent : ∃ n, (n, .sent) ∈ q'.pkts) :
    sentDone s q.num = if fetcherSent s q then s else packetDone s q.num .sent := by
  have hany : (q'.pkts.any fun p => p.2 == .sent) = true := by
    obtain ⟨n, hn⟩ := hsent
    simpa using ⟨n, hn⟩
  have hsame : fetcherSent s q' = fetcherSent s q := by
    unfold fetcherSent fetcher
    rw [hnum]
  unfold sentDone
  simp only [hq, hany, hsame, Bool.true_and]
  cases fetcherSent s q <;> rfl

/-- A packet writes where the homes of its bytes can be reached (R23). -/
theorem packetWrite_open {s : State} {q : HostQueue} {va : Nat} {bs : List Byte} (q' : HostQueue) (hnum : q'.num = q.num)
    (hasid : q'.asid = q.asid) (h : sendable s (vaLines s q.asid va bs.length) = true) :
    packetWrite s q' va bs = vaWrite (setQueue s q') (fetcher q) q.asid va bs := by
  unfold packetWrite fetcher
  rw [hnum, hasid, if_pos h]

/-- A probe that passes goes on (R261). -/
theorem packetProbe_found {s : State} {q : HostQueue} {n : Option Nat} {els : List Asked} (k : State → List Found → State)
    (h : misses s q.asid els = []) : packetProbe s q n els k = k (learnAll s q.asid els) (founds s q.asid els) := by
  unfold packetProbe
  simp only [h]

/-! ## The packet at the head (R289) -/

/-- A queue whose fetcher looks at the packet at its head. -/
structure Fetching (s : State) (q : HostQueue) : Prop where
  found : findQueue s q.num = some q
  up : s.pkg.up = true
  stopped : q.stopped = false
  destroyed : q.destroyed = false
  awake : q.awake = true
  left : q.left = 0
  opens : sendable s (packetLines q) = true

section
variable {s : State} {q : HostQueue} {kind : Nat} {k : State → HostQueue → BitVec 1024 → State}

theorem Fetching.onPacket (h : Fetching s q) : onPacket s q.num kind k =
    let sN := noteReads s (packetLines q)
    let p := headPacket sN q
    if pkPhase p ≠ q.phase then setQueue sN { q with awake := false }
    else if !mayStart q p then sN
    else if !packetOk p then badPacket sN { q with onStep := none }
    else if pkKind p ≠ kind then sN
    else k sN q p := by
  obtain ⟨hq, hup, hstop, hdest, hawake, hleft, hopen⟩ := h
  simp only [Machine.onPacket, hq, hup, hstop, hdest, hawake, hleft, hopen]
  rfl

/-- Where the packet at the head does not start, a turn of any of the packets does only what the fetcher does then. -/
theorem exec_starts {i : Instr} {t : State} {q' : HostQueue}
    (hi : i ∈ [Instr.packetDispatch q.num, .packetPersist q.num, .packetCopy q.num, .packetNop q.num] ∨
      (i ∈ [Instr.packetSignal q.num, .writesignal q.num] ∧ Rests q))
    (ht : ∀ kind k, onPacket s q.num kind k = t) (hq : findQueue t q.num = some q') (hpkts : q'.pkts = q.pkts) :
    exec i s = .next t := by
  have hnum : q'.num = q.num := by simpa [findQueue] using List.find?_some hq
  rw [← hnum] at hq
  rcases hi with hi | ⟨hi, hrest⟩
  · simp only [List.mem_cons, List.not_mem_nil, or_false] at hi
    obtain rfl | rfl | rfl | rfl := hi <;> exact congrArg _ (ht _ _)
  · have hrest : Rests q' := by
      unfold Rests
      rwa [hpkts]
    simp only [List.mem_cons, List.not_mem_nil, or_false] at hi
    obtain rfl | rfl := hi
    · show Host.Outcome.next (sentDone (onPacket s q.num _ _) q.num) = _
      rw [ht, ← hnum, sentDone_rests hq hrest]
    · show Host.Outcome.next (trySignal (onPacket s q.num _ _) q.num) = _
      rw [ht, ← hnum, trySignal_rests hq hrest]

/-- A packet that fails a check stops the queue (R290). -/
theorem badPacket_head (hd : q.destroyed = false) : badPacket s { q with onStep := none } =
    devWrite (setQueue s { q with stopped := true, left := 0, onStep := none }) q.stat (leBytes 8 1) := by
  simp [badPacket, HostQueue.stick, hd]

end

/-- A queue whose fetcher reads the packet `p` at its head, in the state `sN`: it passes its checks, and may start (R289, R290). -/
structure Starting (s : State) (q : HostQueue) (sN : State) (p : BitVec 1024) : Prop extends Fetching s q where
  read : sN = noteReads s (packetLines q)
  head : p = headPacket sN q
  phase : pkPhase p = q.phase
  may : mayStart q p = true
  ok : packetOk p = true

section
variable {s sN : State} {q : HostQueue} {p : BitVec 1024} (h : Starting s q sN p)
include h

theorem Starting.onPacket {kind : Nat} (hkind : pkKind p = kind) (k : State → HostQueue → BitVec 1024 → State) :
    onPacket s q.num kind k = k sN q p := by
  obtain ⟨hf, rfl, rfl, hphase, hmay, hok⟩ := h
  simp [hf.onPacket, hphase, hmay, hok, hkind]

theorem Starting.consumed (w : PktWait) : findQueue (setQueue sN (consumed q w)) q.num = some (Machine.consumed q w) := by
  obtain ⟨hf, rfl, -⟩ := h
  exact findQueue_setQueue (s := noteReads s _) hf.found rfl

/-- A packet's write stands after its queue has been put in its place (R27, R291). -/
theorem Starting.findQueue_vaWrite {els : List Asked} (q' : HostQueue) (hq : q'.num = q.num) (w : Writer) (va : Nat)
    (bs : List Byte) :
    findQueue (vaWrite (setQueue (learnAll sN q.asid els) q') w q.asid va bs) q.num = some q' := by
  obtain ⟨hf, rfl, -⟩ := h
  rw [(besides_vaWrite _ w q.asid va bs).findQueue]
  refine findQueue_setQueue (q := q) ?_ hq
  rw [(besides_learnAll _ q.asid els).findQueue]
  exact hf.found

/-! ## The packets that write (R291) -/

theorem exec_packetSignal (hkind : pkKind p = pkSignal) {va : Nat} (hva : va = pkBits p 64 64)
    (hm : misses sN q.asid (asking needStore [(0, va)]) = []) {s1 s2 : State}
    (h1 : s1 = learnAll sN q.asid (asking needStore [(0, va)])) (hs : sendable s1 (vaLines s1 q.asid va 8) = true)
    (h2 : s2 = vaWrite (setQueue s1 (Machine.consumed q .sent)) (fetcher q) q.asid va (leBytes 8 (pkBits p 128 64))) :
    exec (.packetSignal q.num) s = .next (if fetcherSent s2 q then s2 else packetDone s2 q.num .sent) := by
  have hq : findQueue s2 q.num = some (Machine.consumed q .sent) := by
    rw [h2, h1]
    exact h.findQueue_vaWrite (Machine.consumed q .sent) rfl (fetcher q) va _
  refine congrArg Host.Outcome.next ?_
  rw [h.onPacket hkind]
  simp only [← hva]
  rw [packetProbe_found _ hm, ← h1, packetWrite_open (q := q) (Machine.consumed q .sent) rfl rfl
    (by rwa [length_leBytes]), ← h2]
  exact (sentDone_sent hq rfl ⟨_, List.mem_append_right _ (List.mem_singleton_self _)⟩)

/-- WRITESIGNAL writes its data, and then its signal (R291, R297). -/
theorem exec_writesignal (hrest : Rests q) (hkind : pkKind p = pkWritesignal) {va sig v n : Nat} {els : List Asked}
    {s1 s2 : State} {q1 : HostQueue} (hva : va = pkBits p 64 64) (hsig : sig = pkBits p 128 64) (hv : v = pkBits p 192 64)
    (hn : n = pkBits p 256 8) (hels : els = rangeAsked needStore va n ++ asking needStore [(0, sig)])
    (hm : misses sN q.asid els = []) (h1 : s1 = learnAll sN q.asid els) (hs : sendable s1 (vaLines s1 q.asid va n) = true)
    (hq1 : q1 = Machine.consumed q (.signal sig v))
    (h2 : s2 = vaWrite (setQueue s1 q1) (fetcher q) q.asid va (leBytes n (pkBits p 320 384))) :
    exec (.writesignal q.num) s = .next (if fetcherSent s2 q then s2
      else packetProbe s2 q1 (some (q.fetched + 1)) (asking needStore [(0, sig)]) fun s _ =>
        sentDone (packetWrite s (q1.stepTo (q.fetched + 1) .sent) sig (leBytes 8 v)) q.num) := by
  have hnum : q1.num = q.num := by rw [hq1]; rfl
  have hfound : findQueue s2 q1.num = some q1 := by
    rw [h2, h1, hnum]
    exact h.findQueue_vaWrite q1 hnum (fetcher q) va _
  have hstep : stepOf q1 signalOf = some (q.fetched + 1, sig, v) := by
    rw [hq1]
    exact stepOf_consumed hrest.signalOf rfl
  have hleft : q1.left = 0 := by rw [hq1]; exact h.left
  have hsent : fetcherSent s2 q1 = fetcherSent s2 q := by
    unfold fetcherSent fetcher
    rw [hnum]
  refine congrArg Host.Outcome.next ?_
  rw [h.onPacket hkind]
  simp only [← hva, ← hsig, ← hn, ← hels, ← hv]
  rw [packetProbe_found _ hm, ← h1, ← hq1, packetWrite_open (q := q) q1 hnum (by rw [hq1]; rfl) (by rwa [length_leBytes]), ← h2]
  rw [← hnum, trySignal_signal hfound hstep hleft, hsent, hnum]

/-! ## WAITTL (R291) -/

theorem exec_waittl (hkind : pkKind p = pkWaittl) {va n pa pte : Nat} {s1 : State} (hva : va = pkBits p 64 64)
    (hn : n = pkBits p 128 64) (h1 : s1 = setQueue sN (Machine.consumed q (.word va n)))
    (hl : look s1 q.asid va needLoad = .ok pa pte) {s2 : State} (h2 : s2 = learnAll s1 q.asid (asking needLoad [(0, va)]))
    (hs : sendable s2 [pa / 64] = true) :
    exec (.waittl q.num) s = .next (if n ≤ cohNat (noteReads s2 [pa / 64]) pa 8
      then packetDone (noteReads s2 [pa / 64]) q.num (.word va n) else noteReads s2 [pa / 64]) := by
  have hfound : findQueue s1 q.num = some (Machine.consumed q (.word va n)) := h1 ▸ h.consumed _
  have hdone : ∀ e ∈ q.pkts, wordOf e.2 = none := by
    have hall : allDone q = true := by
      have := h.may
      simpa [mayStart, hkind] using this
    intro e he
    rw [show e.2 = .done from by simpa using List.all_eq_true.1 hall e he]
    rfl
  have hstep := stepOf_consumed (w := .word va n) hdone rfl
  have hm : misses s1 q.asid (asking needLoad [(0, va)]) = [] := by simp [misses, asking, hl]
  have hf : founds s1 q.asid (asking needLoad [(0, va)]) = [{ thr := 0, va := va, pa := pa, ok := pteOk pte }] := by
    simp [founds, asking, hl]
  refine congrArg Host.Outcome.next ?_
  rw [h.onPacket hkind]
  simp only [← hva, ← hn, ← h1]
  have hasid : (Machine.consumed q (.word va n)).asid = q.asid := rfl
  have hnum : (Machine.consumed q (.word va n)).num = q.num := rfl
  have hleft : (Machine.consumed q (.word va n)).left = 0 := h.left
  generalize Machine.consumed q (.word va n) = q1 at *
  rw [← hnum] at hfound ⊢
  rw [tryWaittl_word hfound hstep hleft, packetProbe_found _ (by rwa [hasid]), hasid, hf, ← h2]
  simp [hs]

end

/-- Settles O60, packet by packet: each turn reads the packet at the head, and what the packet writes leaves its queue in place. -/
theorem queuePackets : Obligations.QueuePackets := by
  intro s q hq hup hstop hdest hawake hleft hopen sN p rest starts
  have hf : Fetching s q := ⟨hq, hup, hstop, hdest, hawake, hleft, hopen⟩
  have hN : findQueue sN q.num = some q := hq
  refine ⟨fun hphase i hi => ?_, fun hphase hmay => ⟨fun hbad i hi => ?_, fun hok => ?_⟩⟩
  · refine exec_starts hi (fun kind k => ?_) (findQueue_setQueue (q' := { q with awake := false }) hN rfl) rfl
    exact hf.onPacket.trans (if_pos hphase)
  · have hfound := findQueue_setQueue (q' := { q with stopped := true, left := 0, onStep := none }) hN rfl
    rw [← (besides_devWrite _ q.stat (leBytes 8 1)).findQueue] at hfound
    refine exec_starts hi (fun kind k => ?_) hfound rfl
    rw [← badPacket_head hdest, hf.onPacket]
    simp only [p, sN] at hphase hmay hbad
    simp [hphase, hmay, hbad, sN]
  · have h : Starting s q sN p := ⟨hf, rfl, rfl, hphase, hmay, hok⟩
    refine ⟨fun hk ho => ?_, fun hk ho => ?_, fun hk => ?_, ?_, ?_, ?_, fun hk => ?_⟩
    · refine congrArg Host.Outcome.next ((h.onPacket hk _).trans ?_)
      simp [ho]
    · refine congrArg Host.Outcome.next ((h.onPacket hk _).trans ?_)
      simp [ho]
    · exact ⟨_, newCopy sN (packetCommand p) 0 0 (4 * (q.num % max 1 s.pkg.quads.length)) (q.num % max 1 s.pkg.quads.length) q.asid
        (some q.num) (q.fetched + 1), congrArg Host.Outcome.next (h.onPacket hk _), rfl, rfl, rfl, rfl, rfl, h.consumed _⟩
    · intro hk va s1 hm hs s2
      have hexec := exec_packetSignal h hk rfl hm rfl hs rfl
      refine ⟨fun hmsg => ?_, fun hmsg => ?_⟩
      · rwa [if_pos (fetcherSent_iff.2 hmsg)] at hexec
      · rwa [if_neg (fetcherSent_iff.not.2 fun ⟨m, hm, he⟩ => hmsg m hm he)] at hexec
    · intro hk hrest va sig v n els s1 hm hs q1 s2
      have hexec := exec_writesignal h hrest hk rfl rfl rfl rfl rfl hm rfl hs rfl rfl
      refine ⟨fun hmsg => ?_, ?_⟩
      · rwa [if_pos (fetcherSent_iff.2 hmsg)] at hexec
      · intro hmsg hm2 s3 hs3
        rw [if_neg (fetcherSent_iff.not.2 fun ⟨m, hm, he⟩ => hmsg m hm he)] at hexec
        have hwrite : packetWrite s3 (q1.stepTo (q.fetched + 1) .sent) sig (leBytes 8 v) =
            vaWrite (setQueue s3 (q1.stepTo (q.fetched + 1) .sent)) (fetcher q) q.asid sig (leBytes 8 v) :=
          packetWrite_open _ rfl rfl (by rwa [length_leBytes])
        rw [← hwrite]
        exact hexec.trans (congrArg _ (packetProbe_found (q := q1) _ hm2))
    · intro hk va n s1 pa pte hl s2 hs s3
      exact exec_waittl h hk rfl rfl rfl hl rfl hs
    · exact congrArg Host.Outcome.next (h.onPacket hk _)

end Sys2Proof.Machine
end

section
/-! PROOF. Lane accesses to a scratchpad: their traps, and their probe. -/

namespace Sys2Proof.Machine

set_option Elab.async false

section
variable {s : State} {g : Group} {q : QEntry} {f : LaneForm} {i : Instr} {o : SpadOp} {off : Nat → Int}

/-- Each of the four instructions is one scratchpad access (R315, R361, R384). -/
theorem SpadForm.exec (hform : SpadForm g q f i o off) (h : LaneReady s i g q) :
    Machine.exec i s = .next (laneSpad s f o off g q) := by
  cases hform with
  | lds m =>
    change execLds f m s = _
    rw [execLds, laneExec_ready h]
    rfl
  | sts m =>
    change execSts f m s = _
    rw [execSts, laneExec_ready h]
    rfl
  | atom m hspad =>
    change execAtom f m s = _
    rw [execAtom, laneExec_ready h, if_pos hspad]
  | red m hspad =>
    change execRed f m s = _
    rw [execRed, laneExec_ready h, if_pos hspad]

/-- A trap of a lane instruction names the entry at the head of its group's queue (R46). -/
theorem trapLane_head (hq : g.queue.head? = some q) (code info thr : Nat) : trapLane s g code info thr =
    takeTrap s g { code := code, info := info, lane := true, thr := thr, tlpc := q.addr } := by
  simp [trapLane, hq]

/-- Whether an access at a thread's offset takes SCRATCH (R117, R121, R174). -/
def refusesSpad (c : Crew) (o : SpadOp) (off : Int) : Bool :=
  !inAlloc c off o.size || (match stashAt c off.toNat with
    | some e => e.dead || (e.sfmt != 0 && o.upd.isSome)
    | none => false)

theorem scratchBad_eq (c : Crew) (o : SpadOp) (t : Nat) (off : Int) :
    scratchBad c o t off = if refusesSpad c o off then some (t, (BitVec.ofInt 64 off).toNat) else none := by
  unfold scratchBad refusesSpad
  cases inAlloc c off o.size <;> cases stashAt c off.toNat <;> simp

theorem findSome?_ite {α β : Type} (p : α → Bool) (k : α → β) (l : List α) :
    (l.findSome? fun a => if p a then some (k a) else none) = (l.find? p).map k := by
  induction l with
  | nil => rfl
  | cons a r ih => cases hp : p a <;> simp [hp, ih]

/-- A misaligned offset takes ALIGN (R361). -/
theorem laneSpad_align {t : Nat} (ht : (actives g q f).find? (fun t => decide (off t % (o.size : Int) ≠ 0)) = some t) :
    laneSpad s f o off g q = trapLane s g tAlign (BitVec.ofInt 64 (off t)).toNat t := by
  unfold laneSpad
  cases hact : actives g q f with
  | nil => simp [hact] at ht
  | cons u us =>
    rw [hact] at ht
    simp only [ht]

variable {c : Crew} (hc : crewOf s g = some c) (hal : ∀ t ∈ actives g q f, off t % (o.size : Int) = 0)
include hc hal

/-- Past ALIGN, the first thread that is refused takes SCRATCH, and else the pages of the stash ranges are probed (R117, R121). -/
theorem laneSpad_aligned (hne : actives g q f ≠ []) : laneSpad s f o off g q =
    match (actives g q f).find? fun t => refusesSpad c o (off t) with
    | some t => trapLane s g tScratch (BitVec.ofInt 64 (off t)).toNat t
    | none =>
      let els := (actives g q f).map fun u => ({ thr := u, off := (off u).toNat } : SpadEl)
      probeG s g true (spadProbes s g c o.need els) (spadAccess f o g q (actives g q f) els) := by
  have haligned : (actives g q f).find? (fun t => decide (off t % (o.size : Int) ≠ 0)) = none := by
    rw [List.find?_eq_none]
    intro t ht
    simp [hal t ht]
  unfold laneSpad
  cases hact : actives g q f with
  | nil => exact absurd hact hne
  | cons u us =>
    rw [hact] at haligned
    simp only [haligned, hc, scratchBad_eq, findSome?_ite (fun t => refusesSpad c o (off t))]
    cases (u :: us).find? fun t => refusesSpad c o (off t) <;> rfl

end

/-- What a lane access to a scratchpad does before its accesses: ALIGN, SCRATCH, or the probe. -/
theorem exec_spad {s : State} {g : Group} {q : QEntry} {f : LaneForm} {c : Crew} {i : Instr} {o : SpadOp} {off : Nat → Int}
    (hform : SpadForm g q f i o off) (h : LaneReady s i g q) (hc : crewOf s g = some c) :
    let trap := fun code t => Host.Outcome.next (takeTrap s g
      { code := code, info := (BitVec.ofInt 64 (off t)).toNat, lane := true, thr := t, tlpc := q.addr })
    (∀ t, (actives g q f).find? (fun t => decide (off t % (o.size : Int) ≠ 0)) = some t → exec i s = trap 4 t) ∧
    ((∀ t ∈ actives g q f, off t % (o.size : Int) = 0) →
      (∀ t, (actives g q f).find? (fun t => refusesSpad c o (off t)) = some t → exec i s = trap 5 t) ∧
      ((∀ t ∈ actives g q f, refusesSpad c o (off t) = false) → actives g q f ≠ [] →
        let els := (actives g q f).map fun t => ({ thr := t, off := (off t).toNat } : SpadEl)
        let ps := spadProbes s g c o.need els
        let s0 := oneXlate s g.asid (ps.map (·.va))
        misses s0 g.asid ps = [] →
        exec i s = .next (spadAccess f o g q (actives g q f) els (learnAll s0 g.asid ps) (founds s0 g.asid ps)))) := by
  have hq : g.queue.head? = some q := h.2.1
  rw [hform.exec h]
  refine ⟨fun t ht => ?_, fun hal => ⟨fun t ht => ?_, fun hgo hne => ?_⟩⟩
  · rw [laneSpad_align ht, trapLane_head hq]
    rfl
  · have hne : actives g q f ≠ [] := fun h0 => by simp [h0] at ht
    rw [laneSpad_aligned hc hal hne, ht]
    exact congrArg _ (trapLane_head hq _ _ _)
  · intro els ps s0 hm
    have hnone : (actives g q f).find? (fun t => refusesSpad c o (off t)) = none := by
      rw [List.find?_eq_none]
      intro t ht
      simp [hgo t ht]
    rw [laneSpad_aligned hc hal hne, hnone]
    exact congrArg _ (probeG_found hm true _)

end Sys2Proof.Machine
end

section
/-! PROOF. LDS and STS where no stash range is touched. -/

namespace Sys2Proof.Machine

set_option Elab.async false

theorem eraseDups_of_nodup {l : List Nat} (h : l.Nodup) : l.eraseDups = l := by
  induction l with
  | nil => rfl
  | cons a r ih =>
    obtain ⟨ha, hr⟩ := List.nodup_cons.1 h
    have hfilter : r.filter (fun b => !b == a) = r := by
      rw [List.filter_eq_self]
      intro b hb
      simpa using fun e : b = a => ha (e ▸ hb)
    rw [List.eraseDups_cons, hfilter, ih hr]

/-- A group stands in its place, its crew has no stash range, and no word of any scratchpad is marked as poisoned. -/
structure Bare (s : State) (g : Group) : Prop where
  found : findGroup s.groups g.gid = some g
  crew : ∃ c, crewOf s g = some c ∧ c.stash = []
  clean : s.poisonSpad = []

section
variable {s t : State} {g : Group} (h : Bare s g)
include h

theorem Bare.besides (k : Besides s t) : Bare t g := by
  obtain ⟨c, hc, hstash⟩ := h.crew
  obtain ⟨c', hc', hfollow⟩ := k.findCrew hc
  exact ⟨by rw [k.groups]; exact h.found, ⟨c', hc', hfollow.bare hstash⟩, k.poisonSpad.trans h.clean⟩

theorem Bare.write (core off : Nat) (bs : List Byte) : Bare (spadWrite s core off bs) g := ⟨h.found, h.crew, h.clean⟩

theorem Bare.noEntry (off : Nat) : ((crewOf s g).bind fun c => stashAt c off) = none := by
  obtain ⟨c, hc, hstash⟩ := h.crew
  simp [hc, stashAt, hstash]

theorem Bare.fill (off : Nat) : fillStash s g off = s := by
  obtain ⟨c, hc, hstash⟩ := h.crew
  simp [fillStash, hc, stashAt, hstash]

theorem Bare.fillAll (els : List SpadEl) : els.foldl (fun s x => fillStash s g x.off) s = s := by
  induction els with
  | nil => rfl
  | cons x r ih => rw [List.foldl_cons, h.fill, ih]

theorem Bare.lines (o : SpadOp) (els : List SpadEl) :
    els.flatMap (fun x => stashLines s g x.off) ++ spadObjLines s g o els = [] := by
  have hlines : ∀ off, stashLines s g off = [] := fun off => by simp [stashLines, h.noEntry]
  have hhome : ∀ off, spadHome s g off = none := fun off => by simp [spadHome, h.noEntry]
  simp [hlines, spadObjLines, hhome]

theorem Bare.putEl (o : SpadOp) (thr off v : Nat) :
    spadPutEl s g o thr off v = spadWrite s g.core off (leBytes o.size v) := by
  have hclean : cleanSpad s g.core off o.size = s := by
    have hsame := h.clean
    cases s
    simp_all [cleanSpad]
  have hhome : spadHome s g off = none := by simp [spadHome, h.noEntry]
  simp only [spadPutEl, hclean, hhome]

theorem Bare.poison (core off n : Nat) : spadPoison s core off n = false := by
  simp [spadPoison, h.clean]

/-- With no stash range an access to the scratchpad reads each element (R117). -/
theorem Bare.run_load {o : SpadOp} (ho : o.upd = none) (els : List SpadEl) :
    spadRun s g o els = (s, els.map fun x => (x.thr, spadNat s g.core x.off o.size), 0) := by
  have hfold : ∀ (rs : List (Nat × Nat)), els.foldl (fun (a : State × List (Nat × Nat) × Flags) x =>
      (fillStash a.1 g x.off, a.2.1 ++ [(x.thr, spadNat (fillStash a.1 g x.off) g.core x.off o.size)], a.2.2)) (s, rs, 0) =
      (s, rs ++ els.map fun x => (x.thr, spadNat s g.core x.off o.size), 0) := by
    induction els with
    | nil => simp
    | cons x r ih =>
      intro rs
      rw [List.foldl_cons]
      simp only [h.fill]
      rw [ih]
      simp
  simpa [spadRun, ho] using hfold []

end

theorem Bare.writes {s : State} {g : Group} (h : Bare s g) (n : Nat) (v : Nat → Nat) (els : List SpadEl) :
    Bare (els.foldl (fun s x => spadWrite s g.core x.off (leBytes n (v x.thr))) s) g :=
  foldl_keeps (p := fun s => Bare s g) (f := fun s (x : SpadEl) => spadWrite s g.core x.off (leBytes n (v x.thr)))
    (fun _ _ ht => ht.write _ _ _) els h

/-- A store writes each element, in the order of the threads (R117, R361). -/
theorem Bare.run_store {s : State} {g : Group} (h : Bare s g) {o : SpadOp} {v : Nat → Nat}
    (ho : o.upd = some fun t _ => (v t, 0)) (els : List SpadEl) :
    (spadRun s g o els).1 = els.foldl (fun s x => spadWrite s g.core x.off (leBytes o.size (v x.thr))) s := by
  have hfold : ∀ (els : List SpadEl) (a : State × List (Nat × Nat) × Flags), Bare a.1 g →
      (els.foldl (fun (a : State × List (Nat × Nat) × Flags) x =>
        (spadPutEl (fillStash a.1 g x.off) g o x.thr x.off (v x.thr),
          a.2.1 ++ [(x.thr, spadNat (fillStash a.1 g x.off) g.core x.off o.size)], a.2.2 ||| 0)) a).1 =
      els.foldl (fun s x => spadWrite s g.core x.off (leBytes o.size (v x.thr))) a.1 := by
    intro els
    induction els with
    | nil => exact fun a _ => rfl
    | cons x r ih =>
      intro a ha
      rw [List.foldl_cons, List.foldl_cons, ih]
      · simp only [ha.fill, ha.putEl]
      · simp only [ha.fill, ha.putEl]
        exact ha.write _ _ _
  simpa [spadRun, ho] using hfold els (s, [], 0) h

/-- The buffered stores that a release sends home, or none (R123). -/
theorem flushLines_release {s s1 : State} {g : Group} {rel : Bool}
    (hflush : if rel then flushPaid s (laneWho g) g.gid g.core none = (s1, true) else s1 = s) :
    flushLines s (laneWho g) g.gid g.core (((bufferedSi s g.core none).filter fun _ => rel).map (·.line)) = (s1, true) := by
  cases rel with
  | true => simpa [flushPaid] using hflush
  | false =>
    have hsame : s1 = s := by simpa using hflush
    simp [hsame, flushLines]

/-- What goes home leaves a bare scratchpad bare. -/
theorem Bare.flushed {s s1 : State} {g : Group} {rel : Bool} (h : Bare s g)
    (hflush : if rel then flushPaid s (laneWho g) g.gid g.core none = (s1, true) else s1 = s) : Bare s1 g := by
  have hkeeps := besides_flushLines s (laneWho g) g.gid g.core
    (((bufferedSi s g.core none).filter fun _ => rel).map (·.line))
  rw [flushLines_release hflush] at hkeeps
  exact h.besides hkeeps

/-- Before the accesses of a bare scratchpad only the buffered stores go home, at a release (R123). -/
theorem Bare.spadLines {s s1 : State} {g : Group} {o : SpadOp} (h : Bare s g) (els : List SpadEl)
    (hflush : if o.release then flushPaid s (laneWho g) g.gid g.core none = (s1, true) else s1 = s) :
    Machine.spadLines s g o els [] = (s1, true) := by
  unfold Machine.spadLines
  simp only [List.any_nil, Bool.or_false, flushLines_release hflush, (h.flushed hflush).lines, List.eraseDups_nil]
  simp

/-! ## The accesses, once nothing is waited for -/

section
variable {s : State} {g : Group} {els : List SpadEl} {act : List Nat} (hact : els.map (·.thr) = act) (hnodup : act.Nodup)
include hact hnodup

theorem spadSync_nil : spadSync els [] = act := by
  have hall : act.filter (fun t => !(([] : List Found).any fun x => x.thr == t && x.ok == kindUo)) = act := by simp
  rw [spadSync, hact, eraseDups_of_nodup hnodup, hall]

theorem spadWaits_nil {o : SpadOp} (hfence : fenced s g false = false) (hacq : acquireWaits s g false (maskOf act) kindRc = false)
    (hrel : o.release = true → releaseWaits s g false (maskOf act) o.scope = false)
    (hwrite : o.upd.isSome = true → writeFenced s (agentOf s g false (maskOf act)) kindRc = false) :
    spadWaits s g o els [] = false := by
  have hapart : act.filter (fun _ => !false) = act := by simp
  have hr : (o.release && decide (act ≠ []) && releaseWaits s g false (maskOf act) o.scope) = false := by
    cases ho : o.release with
    | false => rfl
    | true => simp [hrel ho]
  have hw : (o.upd.isSome && writeFenced s (agentOf s g false (maskOf act)) kindRc) = false := by
    cases ho : o.upd.isSome with
    | false => rfl
    | true => simp [hwrite ho]
  simp only [spadWaits, spadSync_nil hact hnodup, hapart, hfence, hacq, hr, hw, List.any_nil, Bool.or_false]

/-- An access of a bare scratchpad, once what a release does has been done. -/
theorem spadAccess_bare {f : LaneForm} {o : SpadOp} {q : QEntry} {s1 s2 : State} (hgo : spadWaits s g o els [] = false)
    (hlines : spadLines s g o els [] = (s1, true)) (hne : act ≠ []) (hreds : o.reds = false)
    (hstands : o.release = true → releaseStands s1 (agentOf s1 g false (maskOf act)) o.scope = false)
    (hs2 : (if o.release then releaseL1 s1 (agentOf s1 g false (maskOf act)) o.scope else s1) = s2) (hbare : Bare s2 g) :
    spadAccess f o g q act els s [] =
      let out := spadRun s2 g o els
      let g := (findGroup out.1.groups g.gid).getD g
      match o.res with
      | none => setG out.1 (entered g f)
      | some kind => enterPending out.1 g f act { newInfl out.1 g q f kind [f.d.toNat] with
          writes := out.2.1.foldl (fun c x => Cells.put c (32 * f.d.toNat + x.1) (o.row x.2)) [], flags := out.2.2 } := by
  have hrel : (o.release && act != []) = o.release := by simpa using fun _ => hne
  have hgoes : (o.release && releaseStands s1 (agentOf s1 g false (maskOf act)) o.scope) = false := by
    cases ho : o.release with
    | false => rfl
    | true => simp [hstands ho]
  have hpoison : (if o.need.rd then els.find? fun x => spadPoison s2 g.core x.off o.size else none) = none := by
    simp [hbare.poison]
  unfold spadAccess
  simp only [hgo, spadFresh, List.filter_nil, List.foldl_nil, hlines, spadSync_nil hact hnodup, hrel, hgoes, Bool.or_false,
    Bool.not_true, Bool.false_eq_true, if_false, hs2, hbare.fillAll, advanceStreams, hpoison, hreds]
  cases o.res <;> rfl

end

/-! ## LDS and STS -/

theorem spadScope_eq (sc : Scope) : spadScope sc = if sc = .pkg then .core else sc := by cases sc <;> rfl

/-- A bare crew refuses no offset of its allocation (R117). -/
theorem refusesSpad_bare {c : Crew} {o : SpadOp} {off : Int} (hc : c.stash = []) (hin : inAlloc c off o.size = true) :
    refusesSpad c o off = false := by
  simp [refusesSpad, hin, stashAt, hc]

section
variable {s : State} {g : Group} {q : QEntry} {f : LaneForm} {c : Crew} {act : List Nat} {n : Nat}
  (hc : crewOf s g = some c) (hstash : c.stash = []) (hact : actives g q f = act) (hne : act ≠ [])
include hc hstash hact hne

/-- Past its checks an access of a bare scratchpad has nothing to probe (R121). -/
theorem laneSpad_bare {o : SpadOp} {off : Nat → Int}
    (hok : ∀ t ∈ act, off t % o.size = 0 ∧ inAlloc c (off t) o.size = true) :
    laneSpad s f o off g q =
      spadAccess f o g q act (act.map fun t => ({ thr := t, off := (off t).toNat } : SpadEl)) s [] := by
  subst hact
  have hnone : (actives g q f).find? (fun t => refusesSpad c o (off t)) = none := by
    rw [List.find?_eq_none]
    intro t ht
    simp [refusesSpad_bare hstash (hok t ht).2]
  have hprobes : ∀ els : List SpadEl, spadProbes s g c o.need els = [] := fun els => by
    simp [spadProbes, stashAt, hstash]
  rw [laneSpad_aligned hc (fun t ht => (hok t ht).1) hne, hnone]
  simp only [hprobes]
  exact probeG_found (els := []) rfl true _

variable (hclean : s.poisonSpad = []) (hin : ∀ t ∈ act, (addrAB g q f t).toInt % n = 0 ∧ inAlloc c (addrAB g q f t).toInt n = true)
  (hfence : fenced s g false = false) (hacq : acquireWaits s g false (maskOf act) kindRc = false)
include hclean hin hfence hacq

/-- LDS reads each element, and its row is pending (R361). -/
theorem exec_lds_bare {m : MemMod} (hn : n = accSize f.ty m.sz) (h : LaneReady s (.lds f m) g q) :
    exec (.lds f m) s = .next (enterPending s g f act { newInfl s g q f .scratch [f.d.toNat] with
      writes := act.foldl (fun w t =>
        Cells.put w (32 * f.d.toNat + t) (spadRow f m.sz (spadNat s g.core (addrAB g q f t).toInt.toNat n))) [] }) := by
  subst hn
  have hbare : Bare s g := ⟨curG_gid h.1 ▸ h.1, ⟨c, hc, hstash⟩, hclean⟩
  have hthr : (act.map fun t => ({ thr := t, off := (spadOff g q f t).toNat } : SpadEl)).map (·.thr) = act := by simp [Function.comp_def]
  have hnodup : act.Nodup := hact ▸ (List.nodup_range.filter _)
  have hwaits := spadWaits_nil (s := s) (g := g) (o := ldsOf f m) hthr hnodup hfence hacq (fun h => by cases h) (fun h => by cases h)
  rw [(SpadForm.lds m).exec h, laneSpad_bare hc hstash hact hne hin,
    spadAccess_bare (s2 := s) hthr hnodup hwaits (hbare.spadLines _ rfl) hne rfl (fun h => by cases h) rfl hbare]
  simp only [hbare.run_load (o := ldsOf f m) rfl, hbare.found, List.map_map, List.foldl_map]
  rfl

/-- STS writes each thread's element, after what a release does in the core's L1 (R123, R361). -/
theorem exec_sts_released {m : MemMod} {s1 s2 : State} (hn : n = accSize f.ty m.sz) (h : LaneReady s (.sts f m) g q)
    (hwrite : writeFenced s (agentOf s g false (maskOf act)) kindRc = false) {rel : Bool} (hrel : rel = (m.ord != .plain))
    (hgo : rel = true → releaseWaits s g false (maskOf act) (spadScope m.scope) = false)
    (hflush : if rel then flushPaid s (laneWho g) g.gid g.core none = (s1, true) else s1 = s)
    (hstands : rel = true → releaseStands s1 (agentOf s1 g false (maskOf act)) (spadScope m.scope) = false)
    (hs2 : (if rel then releaseL1 s1 (agentOf s1 g false (maskOf act)) (spadScope m.scope) else s1) = s2) :
    exec (.sts f m) s = .next (setG (act.foldl (fun s t =>
      spadWrite s g.core (addrAB g q f t).toInt.toNat (leBytes n ((opC g q f t).toNat % 2 ^ (8 * n)))) s2) (entered g f)) := by
  subst hn hrel
  have hbare : Bare s g := ⟨curG_gid h.1 ▸ h.1, ⟨c, hc, hstash⟩, hclean⟩
  have hbare2 : Bare s2 g := by
    rw [← hs2]
    split
    · exact (hbare.flushed hflush).besides (besides_releaseL1 _ _ _)
    · exact hbare.flushed hflush
  have hthr : (act.map fun t => ({ thr := t, off := (spadOff g q f t).toNat } : SpadEl)).map (·.thr) = act := by simp [Function.comp_def]
  have hnodup : act.Nodup := hact ▸ (List.nodup_range.filter _)
  have hwaits := spadWaits_nil (s := s) (g := g) (o := stsOf g q f m) hthr hnodup hfence hacq hgo fun _ => hwrite
  have hrun := hbare2.run_store (o := stsOf g q f m) rfl (act.map fun t => ({ thr := t, off := (spadOff g q f t).toNat } : SpadEl))
  have hfound := (hbare2.writes (stsOf g q f m).size (fun t => (opC g q f t).toNat % 2 ^ (8 * accSize f.ty m.sz))
    (act.map fun t => ({ thr := t, off := (spadOff g q f t).toNat } : SpadEl))).found
  rw [(SpadForm.sts m).exec h, laneSpad_bare hc hstash hact hne hin,
    spadAccess_bare hthr hnodup hwaits (hbare.spadLines _ hflush) hne rfl hstands hs2 hbare2]
  simp only [hrun, hfound]
  simp only [List.foldl_map]
  rfl

/-- A plain store has nothing to release (R123). -/
theorem exec_sts_bare {m : MemMod} {s1 : State} (hn : n = accSize f.ty m.sz) (h : LaneReady s (.sts f m) g q)
    (hwrite : writeFenced s (agentOf s g false (maskOf act)) kindRc = false) {sc : Scope}
    (hsc : sc = if m.scope = .pkg then .core else m.scope)
    (hrel : if m.ord = .plain then s1 = s else releaseWaits s g false (maskOf act) sc = false ∧
      flushPaid s (laneWho g) g.gid g.core none = (s1, true) ∧ releaseStands s1 (agentOf s1 g false (maskOf act)) sc = false) :
    let s2 := if m.ord = .plain then s1 else releaseL1 s1 (agentOf s1 g false (maskOf act)) sc
    exec (.sts f m) s = .next (setG (act.foldl (fun s t =>
      spadWrite s g.core (addrAB g q f t).toInt.toNat (leBytes n ((opC g q f t).toNat % 2 ^ (8 * n)))) s2) (entered g f)) := by
  rw [← spadScope_eq] at hsc
  subst hsc
  have hafter := @exec_sts_released _ _ _ _ _ _ _ hc hstash hact hne hclean hin hfence hacq m s1
  by_cases hp : m.ord = .plain
  · rw [if_pos hp] at hrel ⊢
    exact hafter (s2 := s1) hn h hwrite (rel := false) (by simp [hp]) nofun hrel nofun rfl
  · rw [if_neg hp] at hrel ⊢
    obtain ⟨hwaits, hpaid, hstands⟩ := hrel
    exact hafter hn h hwrite (rel := true) (by simp [hp]) (fun _ => hwaits) hpaid (fun _ => hstands) rfl

end

end Sys2Proof.Machine
end

section
/-! PROOF. An element that is written in a stash line is the coherent value of its global bytes. -/

namespace Sys2Proof.Machine

set_option Elab.async false

/-- A byte of a scratchpad that is written is read there. -/
theorem spadByte_spadWrite (s : State) (core off : Nat) {bs : List Byte} {i : Nat} (hi : i < bs.length) :
    spadByte (spadWrite s core off bs) core (off + i) = bs.getD i 0 := by
  unfold spadByte spadWrite
  rw [get_spadPuts, ← Nat.add_assoc, if_pos ⟨Nat.le_add_right _ _, Nat.add_lt_add_left hi _⟩, Nat.add_sub_cancel_left]

/-! ## The dirty copy that a stash holds -/

theorem mem_stashDirty {s : State} {pl : Nat} {d : Nat × Nat} : d ∈ stashDirty s pl ↔
    ∃ c ∈ s.crews, ∃ e ∈ c.stash, ∃ f ∈ e.filled, (f.2 = pl ∧ e.dirty.contains f.1 = true ∧ e.sfmt = 0) ∧ (c.core, f.1) = d := by
  simp only [stashDirty, List.mem_flatMap, List.mem_filterMap, Option.ite_none_right_eq_some, Option.some.injEq]

/-- Where one dirty copy of a line is held, a byte of the line reads as it stands there (R121). -/
theorem stashByte_dirty {s : State} {a core sl : Nat} (hmem : (core, sl) ∈ stashDirty s (a / 64))
    (hone : ∀ d ∈ stashDirty s (a / 64), d = (core, sl)) :
    stashByte s a = some (spadByte s core (64 * sl + a % 64)) := by
  obtain ⟨c, hc, e, he, f, hf, ⟨hline, hdirty, hfmt⟩, heq⟩ := mem_stashDirty.1 hmem
  unfold stashByte
  dsimp only
  cases hhit : s.crews.findSome? _ with
  | none =>
    have hnone := List.findSome?_eq_none_iff.1 (List.findSome?_eq_none_iff.1 hhit c hc) e he
    rw [if_pos hfmt, List.findSome?_eq_none_iff] at hnone
    simpa [hline, List.contains_iff_mem.1 hdirty] using hnone f hf
  | some x =>
    obtain ⟨c, hc, hx⟩ := List.exists_of_findSome?_eq_some hhit
    obtain ⟨e, he, hx⟩ := List.exists_of_findSome?_eq_some hx
    obtain ⟨hfmt, hx⟩ := Option.ite_none_right_eq_some.1 hx
    obtain ⟨f, hf, hx⟩ := List.exists_of_findSome?_eq_some hx
    obtain ⟨⟨hline, hdirty⟩, hx⟩ := Option.ite_none_right_eq_some.1 hx
    have hd := hone (c.core, f.1) (mem_stashDirty.2 ⟨c, hc, e, he, f, hf, ⟨hline, hdirty, hfmt⟩, rfl⟩)
    obtain ⟨hcore, hsl⟩ := Prod.mk.inj hd
    rw [← Option.some.inj hx, hcore, hsl]
    rfl

/-! ## An element that is written there -/

/-- The entries that an offset lies in hold its line dirty. -/
def soiled (off : Nat) (e : Stash) : Stash :=
  if e.sbase ≤ off ∧ off < e.sbase + e.foot then { e with dirty := off / 64 :: e.dirty.filter fun l => l ≠ off / 64 } else e

theorem soiled_filled (off : Nat) (e : Stash) : (soiled off e).filled = e.filled ∧ (soiled off e).sfmt = e.sfmt := by
  unfold soiled
  split <;> exact ⟨rfl, rfl⟩

theorem soiled_dirty {off l : Nat} {e : Stash} (h : (soiled off e).dirty.contains l = true) :
    l = off / 64 ∨ e.dirty.contains l = true := by
  unfold soiled at h
  split at h
  · rcases List.mem_cons.1 (List.contains_iff_mem.1 h) with h | h
    · exact .inl h
    · exact .inr (List.contains_iff_mem.2 (List.mem_filter.1 h).1)
  · exact .inr h

/-- The element's line is then the one dirty copy of its global line, where it held that line and no other copy was dirty. -/
theorem stashDirty_soiled {s t : State} {c : Crew} {e : Stash} {off pl : Nat} (hc : c ∈ s.crews) (hat : stashAt c off = some e)
    (hfmt : e.sfmt = 0) (hfilled : e.filled.contains (off / 64, pl) = true)
    (hone : ∀ d ∈ stashDirty s pl, d = (c.core, off / 64))
    (hcrews : t.crews = s.crews.map fun x =>
      if x.grid = c.grid ∧ x.num = c.num then { c with stash := c.stash.map (soiled off) } else x) :
    (c.core, off / 64) ∈ stashDirty t pl ∧ ∀ d ∈ stashDirty t pl, d = (c.core, off / 64) := by
  constructor
  · have hin : e.sbase ≤ off ∧ off < e.sbase + e.foot := by simpa using List.find?_some hat
    have hdirty : (soiled off e).dirty.contains (off / 64) = true := by simp [soiled, hin]
    have hplace : { c with stash := c.stash.map (soiled off) } ∈ t.crews := by
      rw [hcrews]
      exact List.mem_map.2 ⟨c, hc, if_pos ⟨rfl, rfl⟩⟩
    exact mem_stashDirty.2 ⟨_, hplace, soiled off e, List.mem_map_of_mem (List.mem_of_find?_eq_some hat), (off / 64, pl),
      (soiled_filled off e).1 ▸ List.contains_iff_mem.1 hfilled, ⟨rfl, hdirty, (soiled_filled off e).2.trans hfmt⟩, rfl⟩
  · intro d hd
    obtain ⟨x, hx, e', he', f, hf, ⟨hline, hdirty, hfmt'⟩, rfl⟩ := mem_stashDirty.1 hd
    rw [hcrews] at hx
    obtain ⟨y, hy, rfl⟩ := List.mem_map.1 hx
    by_cases hsame : y.grid = c.grid ∧ y.num = c.num
    · rw [if_pos hsame] at he' ⊢
      obtain ⟨e0, he0, rfl⟩ := List.mem_map.1 he'
      rw [(soiled_filled off e0).1] at hf
      rw [(soiled_filled off e0).2] at hfmt'
      rcases soiled_dirty hdirty with hnew | hold
      · rw [hnew]
      · exact hone _ (mem_stashDirty.2 ⟨c, hc, e0, he0, f, hf, ⟨hline, hold, hfmt'⟩, rfl⟩)
    · rw [if_neg hsame] at he' ⊢
      exact hone _ (mem_stashDirty.2 ⟨y, hy, e', he', f, hf, ⟨hline, hdirty, hfmt'⟩, rfl⟩)

section
variable {s : State} {g : Group} {c : Crew} {e : Stash} {o : SpadOp} {thr off v pa pte : Nat} (hc : crewOf s g = some c)
  (hat : stashAt c off = some e) (hfmt : e.sfmt = 0) (hobjs : s.coh.objs = [])
  (hl : look s g.asid (e.gbase + (off - e.sbase)) {} = .ok pa pte)
include hc hat hfmt hobjs hl

/-- The state that a write of an element of a stash line leaves. -/
theorem spadPutEl_stash : ∃ t, spadPutEl s g o thr off v = spadWrite t g.core off (leBytes o.size v) ∧ t.mem.l1 = s.mem.l1 ∧
    t.crews = s.crews.map fun x => if x.grid = c.grid ∧ x.num = c.num then { c with stash := c.stash.map (soiled off) } else x := by
  have hl' : look (cleanSpad s g.core off o.size) g.asid (e.gbase + (off - e.sbase)) {} = .ok pa pte := hl
  have hc' : crewOf (cleanSpad s g.core off o.size) g = some c := hc
  have hhome : spadHome (cleanSpad s g.core off o.size) g off = some (e.gbase + (off - e.sbase), pa, pteOk pte) := by
    simp [spadHome, hc', hat, hl', hfmt]
  have hnone : elemsOf (cleanSpad s g.core off o.size) (some (g.asid, e.gbase + (off - e.sbase))) pa o.size = [] :=
    elemsOf_noObjs hobjs
  unfold spadPutEl
  simp only [hhome, hnone, hc', ne_eq, not_true_eq_false, if_false]
  exact ⟨_, rfl, rfl, rfl⟩

/-- An element that is written is read from there (R121). -/
theorem cohByte_spadPutEl (hcore : c.core = g.core) (hsize : off % 64 + o.size ≤ 64) (hpa : pa % 64 = off % 64)
    (hfilled : e.filled.contains (off / 64, pa / 64) = true) (howned : ∀ l ∈ s.mem.l1, l.kind = .owned → l.line ≠ pa / 64)
    (hlines : ∀ l ∈ s.mem.l1, ∀ x ∈ l.bytes, x.1 / 64 = l.line)
    (hone : ∀ d ∈ stashDirty s (pa / 64), d = (g.core, off / 64)) {k : Nat} (hk : k < o.size) :
    cohByte (spadPutEl s g o thr off v) (pa + k) = BitVec.ofNat 8 (v / 256 ^ k) := by
  obtain ⟨t, ht, hl1, hcrews⟩ := spadPutEl_stash (o := o) (thr := thr) (v := v) hc hat hfmt hobjs hl
  have hline : (pa + k) / 64 = pa / 64 := by omega
  have hin : (pa + k) % 64 = off % 64 + k := by omega
  have howns : ownedByte (spadWrite t g.core off (leBytes o.size v)).mem.l1 (pa + k) = none := by
    show ownedByte t.mem.l1 (pa + k) = none
    rw [hl1]
    exact ownedByte_none fun l hm hk => find_other_line (hlines l hm) (hline ▸ (howned l hm hk).symm)
  obtain ⟨hmem, huniq⟩ := stashDirty_soiled (List.mem_of_find?_eq_some hc) hat hfmt hfilled (hcore ▸ hone) hcrews
  have hbyte := stashByte_dirty (s := spadWrite t g.core off (leBytes o.size v)) (a := pa + k) (by rw [hline]; exact hmem)
    (by rw [hline]; exact huniq)
  rw [ht, cohByte, howns, hbyte, hcore, hin, ← Nat.add_assoc, Nat.div_add_mod]
  exact (spadByte_spadWrite t g.core off (by rwa [length_leBytes])).trans (getD_leBytes v hk)

end

end Sys2Proof.Machine
end

section
/-! PROOF. The first touch of a line of a stash range fetches it. -/

namespace Sys2Proof.Machine

set_option Elab.async false

/-! ## A line that is fetched with ownership -/

theorem stashByte_clean {s : State} {a : Nat} (h : ∀ d, d ∉ stashDirty s (a / 64)) : stashByte s a = none := by
  unfold stashByte
  dsimp only
  rw [Option.map_eq_none_iff, List.findSome?_eq_none_iff]
  intro c hc
  rw [List.findSome?_eq_none_iff]
  intro e he
  split
  · next hfmt =>
    rw [List.findSome?_eq_none_iff]
    exact fun f hf => if_neg fun hx => h _ (mem_stashDirty.2 ⟨c, hc, e, he, f, hf, ⟨hx.1, hx.2, hfmt⟩, rfl⟩)
  · rfl

theorem stashFree_recallLine (s : State) (line : Nat) : StashFree (recallLine s line) line := by
  unfold StashFree recallLine
  rw [sendHome_crews]
  exact stashFree_recallStash s line

/-- What the fetch of a global line does elsewhere: what the line of the scratchpad held goes home, and the global line is recalled
from every copy (R121). -/
def fetched (s : State) (g : Group) (e : Stash) (sl pl : Nat) : State :=
  let s := ((dirtyStash e).filter fun f => f.1 = sl).foldl (putStashLine g.core) s
  recallLine (freshLine (flushSi s g.gid g.core (some pl)) g.core pl) pl

theorem besides_fetched (s : State) (g : Group) (e : Stash) (sl pl : Nat) : Besides s (fetched s g e sl pl) := by
  unfold fetched
  exact (((besides_foldl (fun s f => besides_putStashLine s g.core f) _ s).trans (besides_flushSi _ _ _ _)).trans
    (besides_freshLine _ _ _)).trans (besides_recallLine _ _)

/-- A scratchpad line with the bytes and the marks of a global line. -/
def copied (s : State) (core sl pl : Nat) : State :=
  carrySpad (spadWrite s core (64 * sl) (tab 64 fun k => cohByte s (pl * 64 + k))) core sl (poisoned s (pl * 64) 64)

/-- An entry that holds a global line in a line of the scratchpad, clean, and nothing else there. -/
def holding (e : Stash) (sl pl : Nat) : Stash :=
  { e with filled := (sl, pl) :: e.filled.filter fun f => f.1 ≠ sl
           dirty := e.dirty.filter fun l => l ≠ sl }

/-- The entry that an offset lies in holds a global line there. -/
def relined (s : State) (g : Group) (c : Crew) (e : Stash) (off pl : Nat) : State :=
  setStash s ((crewOf s g).getD c) (holding ((stashAt ((crewOf s g).getD c) off).getD e) (off / 64) pl)

section
variable {s : State} {g : Group} {c : Crew} {e : Stash} {off pa pte : Nat} (hc : crewOf s g = some c)
  (hat : stashAt c off = some e)
include hc hat

/-- A line in the format of memory is filled from its global line (R121). -/
theorem fillStash_owned (hholds : stashHolds e off (stashPas s g.asid e off) = false) (hfmt : e.sfmt = 0)
    (hl : look s g.asid (e.gbase + (off - e.sbase)) {} = .ok pa pte) :
    fillStash s g off = relined (copied (fetched s g e (off / 64) (pa / 64)) g.core (off / 64) (pa / 64)) g c e off (pa / 64) := by
  have hpas : stashPas s g.asid e off = [(e.gbase + (off - e.sbase), pa)] := by simp [stashPas, stashNeeds, hfmt, hl]
  rw [hpas] at hholds
  unfold fillStash
  simp only [hc, hat, hpas, hholds, hfmt, Bool.false_eq_true, if_false, if_true]
  rfl

/-- The entry is found where its crew stands after the fetch. -/
theorem relined_copied {d : State} (h : Besides s d) (core pl : Nat) : ∃ c1 ∈ d.crews, ∃ e1 ∈ c1.stash,
    relined (copied d core (off / 64) pl) g c e off pl =
      setStash (copied d core (off / 64) pl) c1 (holding e1 (off / 64) pl) := by
  obtain ⟨c1, hc1, hfollow⟩ := h.findCrew hc
  obtain ⟨e1, he1, -⟩ := hfollow.stashAt hat
  have hc2 : crewOf (copied d core (off / 64) pl) g = some c1 := hc1
  refine ⟨c1, List.mem_of_find?_eq_some hc1, _, List.mem_of_find?_eq_some he1, ?_⟩
  unfold relined
  rw [hc2, Option.getD_some, he1, Option.getD_some]

end

/-- Where no entry held a line, none holds it dirty once one of them holds it clean. -/
theorem stashDirty_holding {s : State} {c : Crew} {e : Stash} {sl pl : Nat} (hfree : StashFree s pl) (hc : c ∈ s.crews)
    (he : e ∈ c.stash) (d : Nat × Nat) : d ∉ stashDirty (setStash s c (holding e sl pl)) pl := by
  intro hd
  obtain ⟨x, hx, e', he', f, hf, ⟨hline, hdirty, hfmt⟩, -⟩ := mem_stashDirty.1 hd
  obtain ⟨y, hy, rfl⟩ := List.mem_map.1 hx
  split at he'
  · obtain ⟨e0, he0, rfl⟩ := List.mem_map.1 he'
    split at hf
    · next hslot =>
      rw [if_pos hslot] at hdirty hfmt
      rcases List.mem_cons.1 hf with rfl | hf
      · simp [holding] at hdirty
      · exact hfree c hc e he hfmt f (List.mem_filter.1 hf).1 hline
    · next hslot =>
      rw [if_neg hslot] at hfmt
      exact hfree c hc e0 he0 hfmt f hf hline
  · exact hfree y hy e' he' hfmt f hf hline

section
variable {d : State} {c : Crew} {e : Stash} {core sl pl : Nat}

/-- Each byte of the copied line reads as the global line does (R121). -/
theorem spadByte_copied (hfree : StashFree d pl) (hc : c ∈ d.crews) (he : e ∈ c.stash) {k : Nat} (hk : k < 64) :
    let t := setStash (copied d core sl pl) c (holding e sl pl)
    spadByte t core (sl * 64 + k) = cohByte t (pl * 64 + k) := by
  intro t
  have hline : (pl * 64 + k) / 64 = pl := by
    rw [Nat.mul_comm, Nat.mul_add_div (by decide), Nat.div_eq_of_lt hk, Nat.add_zero]
  have hfree' : StashFree (copied d core sl pl) pl := hfree
  have hclean : stashByte t (pl * 64 + k) = none := by
    refine stashByte_clean ?_
    rw [hline]
    exact stashDirty_holding hfree' hc he
  have hcoh : cohByte t (pl * 64 + k) = cohByte d (pl * 64 + k) := by
    unfold cohByte
    rw [hclean, stashByte_none (s := d) (by rwa [hline])]
    rfl
  rw [hcoh, Nat.mul_comm sl]
  exact (spadByte_spadWrite d core (64 * sl) (by rwa [length_tab])).trans (getD_tab _ _ _ _ hk)

/-- A package outside any pod answers no line as poison for another (R307). -/
theorem podLost_none (hpod : d.pkg.podPos = none) (line : Nat) : podLost d line = false := by
  simp [podLost, podHome, hpod]

/-- The words of the copied line are marked where the global line is (R282). -/
theorem poisonSpad_copied (hpod : d.pkg.podPos = none) {k : Nat} (hk : k < 16) :
    let t := setStash (copied d core sl pl) c (holding e sl pl)
    t.poisonSpad.contains (core, 16 * sl + k) = t.mem.poison.contains pl := by
  intro t
  have hbad : poisoned d (pl * 64) 64 = d.mem.poison.contains pl := by
    unfold poisoned
    rw [linesOf_one (by decide) (by rw [Nat.mul_mod_left]), Nat.mul_div_cancel pl (by decide)]
    simp [podLost_none hpod]
  show (carrySpad (spadWrite d core _ _) core sl (poisoned d (pl * 64) 64)).poisonSpad.contains (core, 16 * sl + k) =
    d.mem.poison.contains pl
  rw [hbad]
  have hmem : 16 * sl + k ∈ tab 16 fun k => 16 * sl + k := List.mem_map.2 ⟨k, List.mem_range.2 hk, rfl⟩
  cases d.mem.poison.contains pl with
  | true => simp [carrySpad, hmem]
  | false => simp [carrySpad, hmem]

end

/-- The first touch of a line in the format of memory: its bytes and its marks are those of its global line (R121, R282). -/
theorem fillStash_fetches {s : State} {g : Group} {c : Crew} {e : Stash} {off pa pte : Nat} (hc : crewOf s g = some c)
    (hat : stashAt c off = some e) (hholds : stashHolds e off (stashPas s g.asid e off) = false) (hfmt : e.sfmt = 0)
    (hl : look s g.asid (e.gbase + (off - e.sbase)) {} = .ok pa pte) :
    let t := fillStash s g off
    (∀ k < 64, spadByte t g.core (off / 64 * 64 + k) = cohByte t (pa / 64 * 64 + k)) ∧
    (s.pkg.podPos = none → ∀ k < 16,
      t.poisonSpad.contains (g.core, 16 * (off / 64) + k) = t.mem.poison.contains (pa / 64)) := by
  intro t
  have hkeeps := besides_fetched s g e (off / 64) (pa / 64)
  obtain ⟨c1, hc1, e1, he1, ht⟩ := relined_copied hc hat hkeeps g.core (pa / 64)
  have ht : t = _ := (fillStash_owned hc hat hholds hfmt hl).trans ht
  have hfree : StashFree (fetched s g e (off / 64) (pa / 64)) (pa / 64) := stashFree_recallLine _ _
  rw [ht]
  exact ⟨fun k hk => spadByte_copied hfree hc1 he1 hk, fun hpod k hk => poisonSpad_copied (hkeeps.podPos.trans hpod) hk⟩

end Sys2Proof.Machine
end

section
/-! PROOF. A line of a subscribing stash entry holds the encodings of its elements. -/

namespace Sys2Proof.Machine

set_option Elab.async false

/-! ## Old images go, and memory reads as it did -/

/-- A crew of a core without the lines of subscribing entries that some messages will change. -/
def stripped (core : Nat) (ms : List Msg) (c : Crew) : Crew :=
  if c.core = core then { c with stash := c.stash.map fun e =>
    if e.sfmt ≠ 0 then { e with filled := e.filled.filter fun f => !(ms.any fun m => m.line == f.2) } else e } else c

theorem stashByte_stripped {s t : State} {core : Nat} {ms : List Msg} (hcrews : t.crews = s.crews.map (stripped core ms))
    (hspad : t.spad = s.spad) (a : Nat) : stashByte t a = stashByte s a := by
  unfold stashByte
  dsimp only
  rw [hcrews, hspad, List.findSome?_map]
  congr 2
  funext c
  by_cases hc : c.core = core
  · simp only [Function.comp_apply, stripped, if_pos hc, List.findSome?_map]
    congr 1
    funext e
    by_cases he : e.sfmt = 0 <;> simp [he]
  · simp only [Function.comp_apply, stripped, if_neg hc]

theorem cohByte_dropOld (s : State) (core : Nat) (ms : List Msg) (a : Nat) : cohByte (dropOld s core ms) a = cohByte s a := by
  by_cases hms : ms = []
  · rw [dropOld, if_pos hms]
  · have hcrews : (dropOld s core ms).crews = s.crews.map (stripped core ms) := by
      rw [dropOld, if_neg hms]
      rfl
    have hspad : (dropOld s core ms).spad = s.spad := by rw [dropOld, if_neg hms]
    unfold cohByte
    rw [stashByte_stripped hcrews hspad, (dropOld_frame s core ms).1]

theorem cohByte_freshImages (s : State) (core line a : Nat) : cohByte (freshImages s core line) a = cohByte s a := by
  unfold freshImages
  split
  · rfl
  · exact cohByte_dropOld s core _ a

/-- The state in which the elements of a line are read: the core keeps no image older than they are (R136). -/
def refreshed (s : State) (core : Nat) (pas : List (Nat × Nat)) : State :=
  pas.foldl (fun s x => freshImages s core (x.2 / 64)) s

theorem besides_refreshed (s : State) (core : Nat) (pas : List (Nat × Nat)) : Besides s (refreshed s core pas) :=
  besides_foldl (fun s _ => besides_freshImages s core _) pas s

theorem elemBits_refreshed (s : State) (core : Nat) (pas : List (Nat × Nat)) (o : Obj) (pa : Nat) :
    elemBits (refreshed s core pas) o pa = elemBits s o pa := by
  have hcoh : ∀ a, cohByte (refreshed s core pas) a = cohByte s a := fun a =>
    foldl_keeps (p := fun t => cohByte t a = cohByte s a) (f := fun s (x : Nat × Nat) => freshImages s core (x.2 / 64))
      (fun t _ ht => (cohByte_freshImages t core _ a).trans ht) pas rfl
  simp only [elemBits, cohNat, hcoh]

/-! ## Fields that are written next to each other -/

section
variable {core base z : Nat} {bytes : Nat × Nat → List Byte} (hlen : ∀ x, (bytes x).length = z)
include hlen

/-- Fields in other places leave a field as it is. -/
theorem spadByte_writes_other {m i : Nat} (hi : i < z) (hm : z ∣ m) (l : List (Nat × Nat)) (hz : ∀ x ∈ l, z ∣ x.1)
    (hne : ∀ x ∈ l, x.1 ≠ m) (s : State) :
    spadByte (l.foldl (fun s x => spadWrite s core (base + x.1) (bytes x)) s) core (base + m + i) =
      spadByte s core (base + m + i) := by
  induction l generalizing s with
  | nil => rfl
  | cons x r ih =>
    rw [List.foldl_cons, ih (fun y hy => hz y (List.mem_cons_of_mem _ hy)) fun y hy => hne y (List.mem_cons_of_mem _ hy)]
    obtain ⟨a, ha⟩ := hz x List.mem_cons_self
    obtain ⟨b, rfl⟩ := hm
    have hab : a ≠ b := fun h => hne x List.mem_cons_self (by rw [ha, h])
    have hout : ¬ (2 ^ 21 * core + (base + x.1) ≤ 2 ^ 21 * core + (base + z * b + i) ∧
        2 ^ 21 * core + (base + z * b + i) < 2 ^ 21 * core + (base + x.1) + (bytes x).length) := by
      rw [ha, hlen]
      have hfar : z * a + z ≤ z * b ∨ z * b + z ≤ z * a :=
        (Nat.lt_or_gt_of_ne hab).imp (fun h => Nat.mul_le_mul_left z h) fun h => Nat.mul_le_mul_left z h
      omega
    show Cells.get 0 (spadPuts s.spad (2 ^ 21 * core + (base + x.1)) (bytes x)) _ = _
    rw [get_spadPuts, if_neg hout]
    rfl

/-- A field that is written holds its bytes. -/
theorem spadByte_writes {i : Nat} (hi : i < z) (l : List (Nat × Nat)) (hz : ∀ x ∈ l, z ∣ x.1)
    (hne : l.Pairwise fun x y => x.1 ≠ y.1) (s : State) (x : Nat × Nat) (hx : x ∈ l) :
    spadByte (l.foldl (fun s x => spadWrite s core (base + x.1) (bytes x)) s) core (base + x.1 + i) = (bytes x).getD i 0 := by
  induction l generalizing s with
  | nil => cases hx
  | cons y r ih =>
    obtain ⟨hy, hr⟩ := List.pairwise_cons.1 hne
    have hzr : ∀ x ∈ r, z ∣ x.1 := fun x hx => hz x (List.mem_cons_of_mem _ hx)
    rw [List.foldl_cons]
    rcases List.mem_cons.1 hx with rfl | hx
    · rw [spadByte_writes_other hlen hi (hz x List.mem_cons_self) r hzr (fun w hw => (hy w hw).symm)]
      exact spadByte_spadWrite s core (base + x.1) (by rwa [hlen])
    · exact ih hzr hr _ hx

end

/-- The elements of a line stand in fields of one size, each in its own (R175). -/
theorem stashElems_dvd {o : Obj} {e : Stash} {line : Nat} {x : Nat × Nat} (hx : x ∈ stashElems o e line) : sfmtSize e.sfmt ∣ x.1 := by
  obtain ⟨k, -, hk⟩ := List.mem_filterMap.1 hx
  obtain ⟨-, hk⟩ := Option.ite_none_right_eq_some.1 hk
  obtain rfl := Option.some.inj hk
  exact Nat.dvd_mul_left _ _

theorem sfmtSize_pos (f : Nat) : 0 < sfmtSize f := by
  unfold sfmtSize
  split <;> decide

theorem stashElems_apart (o : Obj) (e : Stash) (line : Nat) : (stashElems o e line).Pairwise fun x y => x.1 ≠ y.1 := by
  unfold stashElems
  rw [List.pairwise_filterMap]
  refine List.nodup_range.imp fun {k k'} hne x hx y hy => ?_
  obtain ⟨-, hx⟩ := Option.ite_none_right_eq_some.1 hx
  obtain ⟨-, hy⟩ := Option.ite_none_right_eq_some.1 hy
  obtain rfl := Option.some.inj hx
  obtain rfl := Option.some.inj hy
  exact fun h => hne (Nat.eq_of_mul_eq_mul_right (sfmtSize_pos e.sfmt) h)

/-! ## The fill of a line of a subscribing entry (R175) -/

/-- The pool address of a virtual address in one of the lines that a fill needs. -/
def poolOf (pas : List (Nat × Nat)) (va : Nat) : Nat :=
  (pas.findSome? fun x => if x.1 = va / 64 * 64 then some (x.2 + va % 64) else none).getD 0

theorem poolOf_eq {pas : List (Nat × Nat)} {va pa : Nat} (hmem : (va / 64 * 64, pa) ∈ pas)
    (hone : ∀ x ∈ pas, x.1 = va / 64 * 64 → x.2 = pa) : poolOf pas va = pa + va % 64 := by
  unfold poolOf
  cases h : pas.findSome? fun x => if x.1 = va / 64 * 64 then some (x.2 + va % 64) else none with
  | none =>
    rw [List.findSome?_eq_none_iff] at h
    exact absurd (h _ hmem) (by simp)
  | some v =>
    obtain ⟨x, hx, hv⟩ := List.exists_of_findSome?_eq_some h
    obtain ⟨hva, hv⟩ := Option.ite_none_right_eq_some.1 hv
    rw [Option.getD_some, ← Option.some.inj hv, hone x hx hva]

/-- A line written element by element, each with its encoding. -/
def encoded (s : State) (core sl : Nat) (o : Obj) (e : Stash) (pas : List (Nat × Nat)) : State :=
  (stashElems o e sl).foldl (fun t x => spadWrite t core (64 * sl + x.1)
    (leBytes (sfmtSize e.sfmt) (image e.sfmt o.hfmt (elemBits s o (poolOf pas x.2))))) s

/-- An element of such a line reads as its encoding. -/
theorem spadNat_encoded (s : State) (core sl : Nat) (o : Obj) (e : Stash) (pas : List (Nat × Nat)) {x : Nat × Nat}
    (hx : x ∈ stashElems o e sl) : spadNat (encoded s core sl o e pas) core (64 * sl + x.1) (sfmtSize e.sfmt) =
      image e.sfmt o.hfmt (elemBits s o (poolOf pas x.2)) % 2 ^ (8 * sfmtSize e.sfmt) := by
  have hbytes : (tab (sfmtSize e.sfmt) fun i => spadByte (encoded s core sl o e pas) core (64 * sl + x.1 + i)) =
      leBytes (sfmtSize e.sfmt) (image e.sfmt o.hfmt (elemBits s o (poolOf pas x.2))) := by
    refine List.ext_getElem (by simp) fun i hi hi' => ?_
    have hlt : i < sfmtSize e.sfmt := by simpa using hi
    have hbyte := spadByte_writes (core := core) (base := 64 * sl) (bytes := fun x : Nat × Nat =>
      leBytes (sfmtSize e.sfmt) (image e.sfmt o.hfmt (elemBits s o (poolOf pas x.2)))) (fun _ => length_leBytes _ _) hlt
      (stashElems o e sl) (fun _ => stashElems_dvd) (stashElems_apart o e sl) s x hx
    rw [List.getD_eq_getElem _ _ hi'] at hbyte
    rw [← hbyte]
    simp [tab, encoded]
  rw [spadNat, hbytes, leNat_leBytes, show (256 : Nat) = 2 ^ 8 from rfl, ← pow_mul]

section
variable {s : State} {g : Group} {c : Crew} {e : Stash} {o : Obj} {off : Nat} (hfmt : e.sfmt ≠ 0) (ho : findObj s g.asid e.obj = some o)
include hfmt ho

/-- What a fill has probed of an element's line. -/
theorem poolOf_stashPas {x : Nat × Nat} (hx : x ∈ stashElems o e (off / 64)) {pa pte : Nat}
    (hl : look s g.asid (x.2 / 64 * 64) {} = .ok pa pte) : poolOf (stashPas s g.asid e off) x.2 = pa + x.2 % 64 := by
  refine poolOf_eq ?_ fun y hy hva => ?_
  · refine List.mem_filterMap.2 ⟨x.2 / 64 * 64, ?_, by simp [hl]⟩
    unfold stashNeeds
    simp only [if_neg hfmt, ho]
    rw [List.mem_eraseDups]
    exact List.mem_map_of_mem hx
  · obtain ⟨va, -, hy⟩ := List.mem_filterMap.1 hy
    cases hlook : look s g.asid va {} with
    | ok pa' pte' =>
      rw [hlook] at hy
      obtain rfl := Option.some.inj hy
      rw [show va = x.2 / 64 * 64 from hva, hl] at hlook
      exact (Hit.ok.inj hlook).1.symm
    | _ =>
      rw [hlook] at hy
      cases hy

/-- The line is filled with the encodings of its elements (R175). -/
theorem fillStash_encoded (hc : crewOf s g = some c) (hat : stashAt c off = some e)
    (hholds : stashHolds e off (stashPas s g.asid e off) = false) :
    (fillStash s g off).spad =
      (encoded (refreshed s g.core (stashPas s g.asid e off)) g.core (off / 64) o e (stashPas s g.asid e off)).spad := by
  obtain ⟨c1, hc1, hfollow⟩ := (besides_refreshed s g.core (stashPas s g.asid e off)).findCrew hc
  obtain ⟨e1, he1, hlike⟩ := hfollow.stashAt hat
  have hc2 : crewOf (refreshed s g.core (stashPas s g.asid e off)) g = some c1 := hc1
  have hfill : (fillStash s g off).spad = (encoded (refreshed s g.core (stashPas s g.asid e off)) g.core (off / 64) o
      ((stashAt ((crewOf (refreshed s g.core (stashPas s g.asid e off)) g).getD c) off).getD e)
      (stashPas s g.asid e off)).spad := by
    unfold fillStash
    simp only [hc, hat, hholds, hfmt, ho, Bool.false_eq_true, if_false]
    rfl
  obtain ⟨_, _, rfl⟩ := hlike
  rw [hfill, hc2, Option.getD_some, he1]
  rfl

/-- The first touch of a line of a subscribing entry: each element reads as its encoding at the entry's format (R175). -/
theorem fillStash_encodes (hc : crewOf s g = some c) (hat : stashAt c off = some e)
    (hholds : stashHolds e off (stashPas s g.asid e off) = false) {x : Nat × Nat} (hx : x ∈ stashElems o e (off / 64))
    {pa pte : Nat} (hl : look s g.asid (x.2 / 64 * 64) {} = .ok pa pte) :
    spadNat (fillStash s g off) g.core (64 * (off / 64) + x.1) (sfmtSize e.sfmt) =
      image e.sfmt o.hfmt (elemBits s o (pa + x.2 % 64)) % 2 ^ (8 * sfmtSize e.sfmt) := by
  have hread := spadNat_encoded (refreshed s g.core (stashPas s g.asid e off)) g.core (off / 64) o e (stashPas s g.asid e off) hx
  rw [elemBits_refreshed, poolOf_stashPas hfmt ho hx hl] at hread
  rw [← hread]
  unfold spadNat spadByte
  rw [fillStash_encoded hfmt ho hc hat hholds]

end

/-- Settles O40: the traps in their order, a bare scratchpad, the first touch of a line, and an element that is written there. -/
theorem scratchpadAccesses : Obligations.ScratchpadAccesses := by
  refine ⟨?_, ?_, ?_, ?_⟩
  · intro s g q f c i o off hform h hc
    exact exec_spad hform h hc
  · intro s s1 g q f c u us m n off hc hstash hclean hact hin hfence hacq
    have hne : u :: us ≠ [] := List.cons_ne_nil _ _
    refine ⟨exec_lds_bare hc hstash hact hne hclean hin hfence hacq rfl, ?_⟩
    intro h hwrite a sc hrel
    exact exec_sts_bare hc hstash hact hne hclean hin hfence hacq rfl h hwrite rfl hrel
  · intro s g c e off hc hat hholds
    refine ⟨fun pa pte hfmt hl _ => fillStash_fetches hc hat hholds hfmt hl, ?_⟩
    intro o hfmt ho t x hx pa pte hl
    exact fillStash_encodes hfmt ho hc hat hholds hx hl
  · intro s g c e o thr off v pa pte hc hcore hat hfmt hobjs hsize hpa hl hfilled howned hlines hone k hk
    exact cohByte_spadPutEl hc hat hfmt hobjs hl hcore hsize hpa hfilled howned hlines hone hk

end Sys2Proof.Machine
end

section
/-! PROOF. The copy engine: its events, and the unit of a copy in global memory that has written nothing yet. -/

namespace Sys2Proof.Machine

set_option Elab.async false

/-! ## The events of a command -/

section
variable {s s1 : State} {c : Copy} (hc : findCopy s c.id = some c)
include hc

/-- A copy or fill that is under way goes on by one unit. -/
theorem exec_copyTransferStep (hr : copyRuns c = true) (hk : cpKind c.cmd ≠ 3) :
    exec (.copyTransferStep c.id) s = .next (copyUnit s c) := by
  change execCopyTransferStep c.id s = _
  simp only [execCopyTransferStep, hc, if_pos (And.intro hr hk)]

/-- A copy goes on by all of its rows. -/
theorem exec_copyCmdCopy (hk : cpKind c.cmd = 1) :
    exec (.copyCmdCopy c.id) s = .next (copySegments s c.id (cpTotal c.cmd)) := by
  change execCopyCmdCopy c.id s = _
  simp only [execCopyCmdCopy, hc, if_pos hk, copyFuel]

/-- A fill goes on by all of its rows. -/
theorem exec_copyCmdFill (hk : cpKind c.cmd = 2) :
    exec (.copyCmdFill c.id) s = .next (copySegments s c.id (cpTotal c.cmd)) := by
  change execCopyCmdFill c.id s = _
  simp only [execCopyCmdFill, hc, if_pos hk, copyFuel]

/-- A command that is done retires once its accesses are performed (R153, R169). -/
theorem exec_copyRetire (hf : c.stage = .finished) (hp : copyPerformed s c = true) :
    exec (.copyRetire c.id) s = .next (discardCopy s c) := by
  change execCopyRetire c.id s = _
  simp only [execCopyRetire, hc, if_pos (And.intro hf hp)]

/-- A signal that may write does so once its line has been charged (R191). -/
theorem exec_copyCmdSignal {pa pte : Nat} (hk : cpKind c.cmd = 3) (hr : copyRuns c = true) (hl : lowerRetired s c = true)
    (hm : cpMay s c = true) (hlook : look s c.asid (cpDst c.cmd) needStore = .ok pa pte)
    (hreach : reach s (.copy c.id) clsCopy [pa / 64] = (s1, true)) :
    exec (.copyCmdSignal c.id) s = .next (setCopy
      (writeBy s1 (worker (copyAgent c) c.grid) pa (leBytes 8 (cpSrc c.cmd))) { c with stage := .finished }) := by
  have hgoes : ¬(cpKind c.cmd ≠ 3 ∨ !copyRuns c ∨ !lowerRetired s c ∨ !cpMay s c) := by simp [hk, hr, hl, hm]
  change execCopyCmdSignal c.id s = _
  simp only [execCopyCmdSignal, hc, if_neg hgoes, hlook, hreach, if_true]

end

/-- What a copy has written is performed when it owes no step and no message of it is on its way (R153, R169). -/
theorem copyPerformed_of_quiet {s : State} {c : Copy} (ho : c.owed = 0) (hm : ∀ m ∈ s.coh.msgs, m.gid ≠ copyAgent c) :
    copyPerformed s c = true := by
  have hsent : copySent s c = false := by simpa [copySent] using hm
  simp [copyPerformed, ho, hsent]

/-! ## The parts of a unit -/

/-- A command that has written nothing yet has no choice of old bytes (R191). -/
theorem cpChoose_held_nil (draw at0 : Nat) (bs : List Byte) : cpChoose draw at0 [] bs = bs := by
  simp [cpChoose, Cells.find, List.zipIdx_map_fst]

/-- A record that goes on stays one of the same command. -/
theorem cpAdvance_cmd (c : Copy) (n : Nat) : (cpAdvance c n).cmd = c.cmd := by
  unfold cpAdvance
  dsimp only
  split_ifs
  all_goals rfl

/-- The pages that a command has touched do not matter to where it goes on. -/
theorem cpAdvance_vpages (c : Copy) (n : Nat) (ps : List Nat) :
    cpAdvance { c with vpages := ps } n = { cpAdvance c n with vpages := ps } := by
  unfold cpAdvance
  dsimp only
  split_ifs
  all_goals rfl

/-- A source whose pages can all be read has no part that fails. -/
theorem cpMiss_none {s : State} {c : Copy} {parts : List (Nat × Nat)}
    (h : ∀ p ∈ parts, ∃ pa pte, look s c.asid p.1 needLoad = .ok pa pte) : cpMiss s c parts = none := by
  refine List.findSome?_eq_none_iff.2 fun p hp => ?_
  obtain ⟨pa, pte, hl⟩ := h p hp
  rw [hl]

section
variable {s s1 : State} {c : Copy} {dp n : Nat} {srcs : List (Nat × Nat)}

/-- A unit whose source and destination pass is moved once its lines have been charged (R155, R191). -/
theorem copyUnit_charged {parts : List (Nat × Nat)} {dt : Nat} (hrun : c.stage = .running) (hm : cpMay s c = true)
    (hparts : (if cpSsp c.cmd then [] else pageParts (cpReads c (cpLen c)).1 (cpReads c (cpLen c)).2) = parts)
    (hmiss : cpMiss s c parts = none) (hlook : cpLook s c (cpDsp c.cmd) (cpDstAt c) needStore = .ok dp dt)
    (hreach : reach (setCopy s c) (.copy c.id) clsCopy (cpLines c (cpFound s c parts) dp (cpLen c)) = (s1, true)) :
    copyUnit s c = cpMove s1 { c with vpages := addRows c.vpages (cpPages c parts) } (cpLen c) dp (cpFound s c parts) := by
  have heta : { c with stage := .running } = c := by rw [← hrun]
  subst hparts
  simp only [copyUnit, hm, heta, hmiss, hlook, hreach, hrun, Bool.not_true, Bool.false_eq_true, if_false, if_true]

/-- Without a barrier object there are no transfer steps (R191). -/
theorem cpSteps_noBarrier {c0 : Copy} (hb : cpBen c.cmd = false) : cpSteps s c0 c = setCopy s c := by
  simp [cpSteps, hb]

/-- Clean bytes that go to global memory take with them the poison that lies there already. -/
theorem cpWrite_global (hd : cpDsp c.cmd = false) (bs : List Byte) : cpWrite s c dp bs false =
    carryPoison (writeBy s (worker (copyAgent c) c.grid) dp bs) none dp bs.length := by
  simp [cpWrite, hd]

/-- A clean source in global memory reads as its coherent bytes (R191). -/
theorem cpRead_global (hs : cpSsp c.cmd = false) (hheld : c.held = []) (hp : ∀ p ∈ srcs, poisoned s p.1 p.2 = false)
    (rd : Nat × Nat) : cpRead s c rd srcs = (srcs.flatMap fun p => tab p.2 fun k => cohByte s (p.1 + k), false) := by
  have hclean : (srcs.any fun p => poisoned s p.1 p.2) = false := by simpa using hp
  simp [cpRead, hs, hheld, cpChoose_held_nil, hclean]

/-- A unit of a copy in global memory that has written nothing yet: its bytes, and the record that goes on past it. -/
theorem cpMove_global (hk : cpKind c.cmd = 1) (hs : cpSsp c.cmd = false) (hd : cpDsp c.cmd = false) (hb : cpBen c.cmd = false)
    (hheld : c.held = []) (hahead : c.ahead = []) (hp : ∀ p ∈ srcs, poisoned s p.1 p.2 = false) :
    let bs := srcs.flatMap fun p => tab p.2 fun k => cohByte s (p.1 + k)
    cpMove s c n dp srcs = setCopy
      (carryPoison (writeBy s (worker (copyAgent c) c.grid) dp (bs.take n)) none dp (bs.take n).length)
      { cpAdvance c n with held := cpHold s c n dp, ahead := bs.drop n, tainted := false } := by
  intro bs
  have hben : cpBen (cpAdvance c n).cmd = false := by rw [cpAdvance_cmd, hb]
  have hkind : cpKind c.cmd ≠ 2 := by omega
  simp only [cpMove, if_neg hkind, cpRead_global hs hheld hp, hheld, hahead, if_true, List.nil_append, bne_self_eq_false,
    Bool.and_false, Bool.or_false, cpWrite_global hd]
  exact cpSteps_noBarrier hben

end

/-- Settles O55: each event by the lemma about it, and the unit as a move whose lines have been charged. -/
theorem copyEngineEvents : Obligations.CopyEngineEvents := by
  refine ⟨fun s c hc => ⟨exec_copyTransferStep hc, exec_copyCmdCopy hc, exec_copyCmdFill hc, fun hf ho hm =>
    exec_copyRetire hc hf (copyPerformed_of_quiet ho hm)⟩, fun s s1 c pa pte hc => exec_copyCmdSignal hc, ?_⟩
  intro s s1 c dp dt hk hs hd hb hrun hm hheld hahead n parts srcs bs hsrc hdst hreach hp
  have hparts : (if cpSsp c.cmd then [] else pageParts (cpReads c n).1 (cpReads c n).2) = parts := by simp [hs, parts]
  have hlook : cpLook s c (cpDsp c.cmd) (cpDstAt c) needStore = .ok dp dt := by simpa [cpLook, hd] using hdst
  rw [copyUnit_charged hrun hm hparts (cpMiss_none hsrc) hlook hreach]
  refine (cpMove_global (c := { c with vpages := addRows c.vpages (cpPages c parts) }) hk hs hd hb hheld hahead hp).trans ?_
  rw [cpAdvance_vpages]
  rfl

end Sys2Proof.Machine
end

section
/-! PROOF. SDESC, SUBP, UPGP and UNSP: each instruction up to the point where it acts, and then what it does there. -/

namespace Sys2Proof.Machine

set_option Elab.async false

/-! ## What each instruction does once nothing holds it back -/

/-- SDESC empties the slot that it names (R420). -/
def emptySlot (s : State) (g : Group) (kind : DescKind) (slot : Nat) : State :=
  match kind with
  | .stream => dropStream s g.core slot
  | .stash => dropStash s g.asid g.grid g.crew slot
  | .obj => retireObj s g.asid slot

/-- SDESC installs the descriptor that it has read, with the status of the installation (R419). -/
def fillSlot (s : State) (g : Group) (kind : DescKind) (slot d : Nat) : State × Nat :=
  match kind with
  | .stream => installStream s g slot (BitVec.ofNat 256 d)
  | .stash => installStash s g slot (BitVec.ofNat 256 d)
  | .obj => installObj s g.asid slot (BitVec.ofNat 512 d)

/-- The crew of a group joins a subscription that its core's L1 holds already (R166). -/
def joinSub (s : State) (g : Group) (b : Sub) : State :=
  { s with coh := { s.coh with
      subs := s.coh.subs.map fun y => if y = b ∧ !b.crews.contains (g.grid, g.crew)
        then { y with crews := (g.grid, g.crew) :: y.crews } else y } }

/-- A new subscription of an object through a core's L1 (R171). -/
def newSub (g : Group) (o : Obj) (x : Dword) : Sub :=
  { core := g.core, crews := [(g.grid, g.crew)], asid := g.asid, obj := o.num, fmt := subFmt x, update := subMode x
    stash := none }

/-- A subscription begins (R172). -/
def addSub (s : State) (b : Sub) : State := { s with coh := { s.coh with subs := b :: s.coh.subs } }

/-- The crew of a group leaves a subscription that it shares (R174). -/
def leaveSub (s : State) (g : Group) (b : Sub) : State :=
  { s with coh := { s.coh with
      subs := s.coh.subs.map fun y => if y = b then { y with crews := y.crews.filter (· ≠ (g.grid, g.crew)) } else y } }

/-- A list whose distinct members are none is empty. -/
theorem eq_nil_of_eraseDups {α β : Type} [BEq β] {l : List α} {k : α → β} (h : (l.map k).eraseDups = []) : l = [] := by
  cases l with
  | nil => rfl
  | cons a l => simp [List.eraseDups_cons] at h

/-- UPGP does not refuse a format that its object admits and that is not below the one it has (R173). -/
theorem climbs_not_refused {hfmt fmt old : Nat} (hadm : admits hfmt fmt = true) (hrank : fmtRank old ≤ fmtRank fmt) :
    (!admits hfmt fmt || decide (fmtRank fmt < fmtRank old)) = false := by
  rw [hadm, decide_eq_false (Nat.not_lt.2 hrank)]
  rfl

section
variable {s s1 s2 s3 sA : State} {g gA : Group} {q : QEntry} {f : LaneForm} {u : Nat} {us : List Nat}
  (hact : actives g q f = u :: us) (hfence : fenced s g false = false)
include hact hfence

/-! ## SDESC -/

/-- SDESC empties its slot once what the slot holds dirty has been written back, with status DONE (R420). -/
theorem exec_sdesc_removes {kind : DescKind} {slot : Nat} (h : LaneReady s (.sdesc f kind true) g q)
    (hslot : (opdDword g q 0 f.b 0).toNat = slot) (hdrain : slotDrained s g kind slot = (s1, true)) :
    exec (.sdesc f kind true) s = .next (statusResult (emptySlot s1 g kind slot) q g f (u :: us) 0) := by
  change execSdesc f kind true s = _
  rw [execSdesc, laneExec_ready h]
  simp only [hact, hfence, hslot, hdrain, Bool.not_true, Bool.false_eq_true, if_false, if_true]
  rfl

/-- SDESC installs the descriptor that it has read (R419). -/
theorem exec_sdesc_installs {kind : DescKind} {slot x size pa pte d : Nat} (h : LaneReady s (.sdesc f kind false) g q)
    (hslot : (opdDword g q 0 f.b 0).toNat = slot) (hx : (opA g f u).toNat = x)
    (hsize : (if kind = .obj then 64 else 32) = size) (hal : x % size = 0)
    (hsp : Spilled s g (fun va => decide (x ≤ va ∧ va < x + size)) sA gA) (hl : look sA gA.asid x needLoad = .ok pa pte)
    (hs1 : learnAll sA gA.asid (asking needLoad [(u, x)]) = s1)
    (hacq : acquireWaits s1 gA false (maskOf (u :: us)) (pteOk pte) = false) (hpoison : poisoned s1 pa size = false)
    (hread : readDesc s1 gA (maskOf [u]) (pteOk pte) pa size = (s2, some d))
    (hdrain : (if kind = .stash ∧ stashStatus s2 gA slot (BitVec.ofNat 256 d) ≠ 0 then (s2, true)
      else slotDrained s2 gA kind slot) = (s3, true)) :
    exec (.sdesc f kind false) s = .next (statusResult (fillSlot s3 gA kind slot d).1 q gA f (u :: us)
      (fillSlot s3 gA kind slot d).2) := by
  change execSdesc f kind false s = _
  rw [execSdesc, laneExec_ready h]
  simp only [hact, hfence, hslot, hx, hsize, hal, ne_eq, not_true_eq_false, Bool.false_eq_true, if_false]
  rw [spilled_go hsp, probeG_single hl]
  simp only [hs1, hacq, hpoison, hread, Bool.false_eq_true, if_false]
  simp only [← ne_eq, hdrain, Bool.not_true, Bool.false_eq_true, if_false]
  rfl

/-! ## SUBP -/

section
variable (h : LaneReady s (.subp f) g q)
include h

theorem exec_subp_noObject (hobj : findObj s g.asid (subObj (opA g f u)) = none) :
    exec (.subp f) s = .next (statusResult s q g f (u :: us) 1) := by
  change execSubp f s = _
  rw [execSubp, laneExec_ready h]
  simp only [hact, hfence, hobj, Bool.false_eq_true, if_false]

variable {o : Obj} (hobj : findObj s g.asid (subObj (opA g f u)) = some o)
include hobj

theorem exec_subp_badFormat (hfmt : admits o.hfmt (subFmt (opA g f u)) = false) :
    exec (.subp f) s = .next (statusResult s q g f (u :: us) 2) := by
  change execSubp f s = _
  rw [execSubp, laneExec_ready h]
  simp only [hact, hfence, hobj, hfmt, Bool.not_false, Bool.false_eq_true, if_false, if_true]

variable (hfmt : admits o.hfmt (subFmt (opA g f u)) = true)
  {s0 : State} {els : List Asked} (hels : asking needSub ((objPages o).map fun va => (u, va)) = els)
  (hs0 : oneXlate s g.asid (els.map (·.va)) = s0) (hm : misses s0 g.asid els = []) (hs1 : learnAll s0 g.asid els = s1)
include hfmt hels hs0 hm hs1

/-- With a subscription in the core's L1: another format or mode conflicts with it, and the same ones join it (R171). -/
theorem exec_subp_held {b : Sub} (hb : l1Sub s1 g.core g.asid o.num = some b) :
    exec (.subp f) s = .next (if b.fmt ≠ subFmt (opA g f u) ∨ b.update ≠ subMode (opA g f u)
      then statusResult s1 q g f (u :: us) 4 else statusResult (joinSub s1 g b) q g f (u :: us) 0) := by
  subst hs0
  change execSubp f s = _
  rw [execSubp, laneExec_ready h]
  simp only [hact, hfence, hobj, hfmt, hels, Bool.not_true, Bool.false_eq_true, if_false]
  rw [probeG_found hm]
  simp only [hs1, hb]
  rfl

/-- With no subscription yet: a core whose slots are taken has none for it; else the lines that it holds of the object go
home and are discarded, and the new subscription begins (R166, R172). -/
theorem exec_subp_new {held : List Nat} (hb : l1Sub s1 g.core g.asid o.num = none)
    (hheld : heldLines s1 g.core g.asid o.num ((founds s0 g.asid els).map fun y => (y.va / 4096, pageOf y.pa)) = held) :
    exec (.subp f) s = .next (if 64 ≤ slotsTaken s1 g.core then statusResult s1 q g f (u :: us) 3
      else if !(heldHome s1 g held).2 then (heldHome s1 g held).1
      else statusResult (addSub (discardHeld (heldHome s1 g held).1 g.core held) (newSub g o (opA g f u))) q g f
        (u :: us) 0) := by
  subst hs0
  change execSubp f s = _
  rw [execSubp, laneExec_ready h]
  simp only [hact, hfence, hobj, hfmt, hels, Bool.not_true, Bool.false_eq_true, if_false]
  rw [probeG_found hm]
  simp only [hs1, hb, hheld]
  rfl

end

/-! ## UPGP -/

section
variable (h : LaneReady s (.upgp f) g q)
include h

theorem exec_upgp_noSub (hb : crewSub s g (subObj (opA g f u)) = none) :
    exec (.upgp f) s = .next (statusResult s q g f (u :: us) 1) := by
  change execUpgp f s = _
  rw [execUpgp, laneExec_ready h]
  simp only [hact, hfence, hb, Bool.false_eq_true, if_false]

variable {b : Sub} {o : Obj} (hb : crewSub s g (subObj (opA g f u)) = some b)
  (hobj : findObj s g.asid (subObj (opA g f u)) = some o)
include hb hobj

theorem exec_upgp_same (hfmt : subFmt (opA g f u) = b.fmt) :
    exec (.upgp f) s = .next (statusResult s q g f (u :: us) 0) := by
  change execUpgp f s = _
  rw [execUpgp, laneExec_ready h]
  simp only [hact, hfence, hb, hobj, hfmt, Bool.false_eq_true, if_false, if_true]

variable (hne : subFmt (opA g f u) ≠ b.fmt)
include hne

theorem exec_upgp_badFormat
    (hbad : admits o.hfmt (subFmt (opA g f u)) = false ∨ fmtRank (subFmt (opA g f u)) < fmtRank b.fmt) :
    exec (.upgp f) s = .next (statusResult s q g f (u :: us) 2) := by
  have hrefused : (!admits o.hfmt (subFmt (opA g f u)) || decide (fmtRank (subFmt (opA g f u)) < fmtRank b.fmt)) = true := by
    simpa using hbad
  change execUpgp f s = _
  rw [execUpgp, laneExec_ready h]
  simp only [hact, hfence, hb, hobj, if_neg hne, hrefused, Bool.false_eq_true, if_false, if_true]

variable (hfmt : admits o.hfmt (subFmt (opA g f u)) = true) (hrank : fmtRank b.fmt ≤ fmtRank (subFmt (opA g f u)))
include hfmt hrank

/-- A crew that shares its subscription with another has no other format (R171, R173). -/
theorem exec_upgp_shared (hshared : ∃ c ∈ b.crews, c ≠ (g.grid, g.crew)) :
    exec (.upgp f) s = .next (statusResult s q g f (u :: us) 4) := by
  have hgood := climbs_not_refused hfmt hrank
  have hany : b.crews.any (· ≠ (g.grid, g.crew)) = true := by simpa using hshared
  change execUpgp f s = _
  rw [execUpgp, laneExec_ready h]
  simp only [hact, hfence, hb, hobj, if_neg hne, hgood, hany, Bool.false_eq_true, if_false, if_true]

/-- A crew that holds its subscription alone has the new format, once the lines of the images that its core holds have been
read (R173, R426). -/
theorem exec_upgp_climbs {s0 sL : State} {els : List Asked} {fs : List Found} {lines : List Nat}
    (halone : ∀ c ∈ b.crews, c = (g.grid, g.crew))
    (hels : asking needSub ((imagesHeld s g.core g.asid o.num).map fun va => (u, va)) = els)
    (hs0 : oneXlate s g.asid (els.map (·.va)) = s0) (hm : misses s0 g.asid els = []) (hsL : learnAll s0 g.asid els = sL)
    (hfs : founds s0 g.asid els = fs) (hlines : (fs.map fun y => y.pa / 64).eraseDups = lines)
    (hread : (lines = [] ∧ s1 = sL) ∨ (lines ≠ [] ∧ reachCore sL g.core (laneWho g) clsDemand lines = (s1, true))) :
    exec (.upgp f) s = .next (statusResult
      (upgrade s1 g.core g.asid b o (subFmt (opA g f u)) (fs.map fun y => (y.va, y.pa))) q g f (u :: us) 0) := by
  have hgood := climbs_not_refused hfmt hrank
  have hany : b.crews.any (· ≠ (g.grid, g.crew)) = false := by simpa using halone
  subst hs0
  change execUpgp f s = _
  rw [execUpgp, laneExec_ready h]
  simp only [hact, hfence, hb, hobj, if_neg hne, hgood, hany, hels, Bool.false_eq_true, if_false]
  rw [probeG_found hm]
  simp only [hsL, hfs, hlines]
  rcases hread with ⟨rfl, rfl⟩ | ⟨hsome, hreach⟩
  · rw [eq_nil_of_eraseDups hlines]
    rfl
  · obtain ⟨l, ls, rfl⟩ := List.exists_cons_of_ne_nil hsome
    simp only [hreach, Bool.not_true, Bool.false_eq_true, if_false]

end

/-! ## UNSP -/

section
variable (h : LaneReady s (.unsp f) g q)
include h

theorem exec_unsp_noSub (hb : crewSub s g (subObj (opA g f u)) = none) :
    exec (.unsp f) s = .next (statusResult s q g f (u :: us) 1) := by
  change execUnsp f s = _
  rw [execUnsp, laneExec_ready h]
  simp only [hact, hfence, hb, Bool.false_eq_true, if_false]

/-- A subscription ends with the last crew that holds it; it stays for another (R166, R174). -/
theorem exec_unsp_held {b : Sub} (hb : crewSub s g (subObj (opA g f u)) = some b) :
    exec (.unsp f) s = .next (statusResult
      (if b.crews.all (· = (g.grid, g.crew)) then endSub s b else leaveSub s g b) q g f (u :: us) 0) := by
  change execUnsp f s = _
  rw [execUnsp, laneExec_ready h]
  simp only [hact, hfence, hb, Bool.false_eq_true, if_false]
  rfl

end

end

/-- Settles O46: each instruction by the lemma about the case that it is in. -/
theorem descriptorsAndSubscriptions : Obligations.DescriptorsAndSubscriptions := by
  intro s g q f u us hact hfence
  refine ⟨?_, ?_, fun h => ⟨exec_subp_noObject hact hfence h, fun o => exec_subp_badFormat hact hfence h, ?_⟩,
    exec_upgp_noSub hact hfence, fun h b o hb hobj => ⟨exec_upgp_same hact hfence h hb hobj,
      exec_upgp_badFormat hact hfence h hb hobj, ?_⟩, fun h => ⟨exec_unsp_noSub hact hfence h, ?_, ?_⟩⟩
  · intro kind s1 h slot hdrain
    exact exec_sdesc_removes hact hfence h rfl hdrain
  · intro kind pa pte d sA s2 s3 gA h slot x size hal hsp s1 hl hacq hpoison hread hdrain out
    exact exec_sdesc_installs hact hfence h rfl rfl rfl hal hsp hl rfl hacq hpoison hread hdrain
  · intro o hobj hfmt els s0 s1 hm
    refine ⟨fun b hb => ?_, fun hb hfull => ?_, ?_⟩
    · rw [exec_subp_held (s1 := s1) hact hfence h hobj hfmt rfl rfl hm rfl hb]
      exact ⟨fun hdiff => by rw [if_pos hdiff], fun hf hu => by rw [if_neg (by simp [hf, hu])]; rfl⟩
    · rw [exec_subp_new (s1 := s1) hact hfence h hobj hfmt rfl rfl hm rfl hb rfl, if_pos hfull]
    · intro hb hroom held s2 hhome s3 b
      rw [exec_subp_new (s1 := s1) (held := held) hact hfence h hobj hfmt rfl rfl hm rfl hb rfl,
        if_neg (Nat.not_le.2 hroom), hhome]
      rfl
  · intro hne hfmt hrank els s0 sL fs lines
    refine ⟨exec_upgp_shared hact hfence h hb hobj hne hfmt hrank, fun s1 halone hm hread => ?_⟩
    exact exec_upgp_climbs hact hfence h hb hobj hne hfmt hrank halone rfl rfl hm rfl rfl rfl hread
  · intro b hb halone
    rw [exec_unsp_held hact hfence h hb, if_pos (by simpa using halone)]
  · intro b hb hshared
    rw [exec_unsp_held hact hfence h hb, if_neg (by simpa using hshared)]
    rfl

end Sys2Proof.Machine
end

section
/-! PROOF. The micro-instructions that read the node buffer: what a ray does with its turn, what loading a window and working
a stack come to when nothing holds them up, and then each instruction past its checks. -/

namespace Sys2Proof.Machine

set_option Elab.async false

/-! ## What a ray does with its turn -/

/-- A ray in a slot of a traversal engine runs its micro-instruction there (R222). -/
theorem onRay_ready {s : State} {r : Ray} {core : Nat} (h : RayReady s r core) (f : Ray → Nat → State) :
    onRay s f = f r core := by
  obtain ⟨hfind, hstage, hbad⟩ := h
  simp only [onRay, hfind, hstage, hbad, Bool.false_eq_true, if_false]

/-- A stack that nothing holds up is worked as `StackGoes` says (R232, R240, R243). -/
theorem onStack_goes {s t : State} {core reads : Nat} {r n : Ray} (h : StackGoes s core r n reads t) :
    onStack s core r n reads = t := by
  obtain ⟨hflag, ht⟩ | ⟨g, hflag, hg, ⟨hlines, ht⟩ | ⟨s1, hlines, hreach, hclean, ht⟩⟩ := h
  · simp only [onStack, hflag, Bool.false_eq_true, if_false]
    exact ht.symm
  · simp only [onStack, hflag, hg, hlines, if_true]
    exact ht.symm
  · obtain ⟨x, xs, hx⟩ := List.exists_cons_of_ne_nil hlines
    have hnone : ((stackGets r reads).find? fun k => poisoned s1 (stackAt s g r k) 8) = none :=
      List.find?_eq_none.2 fun k hk => by simp [hclean k hk]
    rw [hx] at hreach
    simp only [onStack, hflag, hg, hx, hreach, hnone, if_true, Bool.not_true, Bool.false_eq_true, if_false]
    exact ht.symm

/-- A window whose lines are in the L1 of the issuing core, or have been charged to it, comes into the buffer when none of its
parts is poisoned (R131, R229). -/
theorem ldnLoad_clean {s s1 : State} {r : Ray} {core idx win n : Nat} {lay : Bool} {fs : List (Nat × Nat × Nat × Nat)}
    {lines far : List Nat} (hlines : (fs.flatMap fun p => linesOf p.2.1 p.2.2.1).eraseDups = lines)
    (hfar : (lines.filter fun k => !inL1 s r.issuer k) = far)
    (hreach : (far = [] ∧ s1 = s) ∨ (far ≠ [] ∧ reachCore s r.issuer (.ray r.id) clsDemand far = (s1, true))) {s2 : State}
    (hs2 : lines.foldl (fun s k => throughL1 s r.issuer k (engineAccess s r.gid r.thr r.infl (partKind fs k))) s1 = s2)
    (hclean : ∀ p ∈ fs, poisoned s2 p.2.1 p.2.2.1 = false) :
    ldnLoad s r core idx win lay fs n = stepOn s2 { r with
      buf := (fs.flatMap fun p => tab p.2.2.1 fun k => cohByte s2 (p.2.1 + k)).take n, nidx := BitVec.ofNat 32 idx
      win := win, lsel := lay, vpages := addRows r.vpages (fs.map fun p => p.1 / 4096) } := by
  have hnone : (List.find? (fun (p : Nat × Nat × Nat × Nat) => poisoned s2 p.2.1 p.2.2.1) fs) = none :=
    List.find?_eq_none.2 fun p hp => by simp [hclean p hp]
  obtain ⟨hnil, rfl⟩ | ⟨hne, hcore⟩ := hreach
  · simp only [ldnLoad, hlines, hfar, hnil, Bool.not_true, Bool.false_eq_true, if_false, hs2, hnone]
  · obtain ⟨k, ks, rfl⟩ := List.exists_cons_of_ne_nil hne
    simp only [ldnLoad, hlines, hfar, hcore, Bool.not_true, Bool.false_eq_true, if_false, hs2, hnone]

/-! ## Each instruction past its checks -/

section
variable {s : State} {r : Ray} {core : Nat} (h : RayReady s r core)
include h

/-! ### TR.LDN -/

theorem exec_trLdn_absent {mi : MReg} {win : BitVec 2} {lay : Bool} (hl : layoutAt r lay = none) :
    RayEnds (.trLdn mi win lay) s r 3 := by
  change execTrLdn mi win lay s = _
  simp only [execTrLdn, onRay_ready h, hl]
  rfl

section
variable {mi : MReg} {win : BitVec 2} {lay : Bool} {l : Layout} {idx : Nat} (hl : layoutAt r lay = some l)
  (hidx : (micro r mi).toNat % 2 ^ 31 = idx)
include hl hidx

/-- A node past the end of its layout (R227). -/
theorem exec_trLdn_outside (hout : l.bsize < (idx + 1) * l.nsz) : RayEnds (.trLdn mi win lay) s r 3 := by
  change execTrLdn mi win lay s = _
  simp only [execTrLdn, onRay_ready h, hl, hidx, if_pos hout]
  rfl

/-- A window past the end of its node (R438). -/
theorem exec_trLdn_noWindow (hin : (idx + 1) * l.nsz ≤ l.bsize) (hwin : l.nsz ≤ 64 * win.toNat) :
    RayEnds (.trLdn mi win lay) s r 4 := by
  change execTrLdn mi win lay s = _
  simp only [execTrLdn, onRay_ready h, hl, hidx, if_neg (Nat.not_lt.2 hin), if_pos hwin]
  rfl

/-- A window whose pages all pass the probe is loaded (R229, R238). -/
theorem exec_trLdn_probed (hin : (idx + 1) * l.nsz ≤ l.bsize) (hwin : 64 * win.toNat < l.nsz) {n : Nat}
    (hn : min 64 (l.nsz - 64 * win.toNat) = n) {parts : List (Nat × Nat)}
    (hparts : rowParts (l.base + idx * l.nsz + 64 * win.toNat) n = parts) {els : List Asked}
    (hels : asking needLoad (parts.map fun p => (r.thr, p.1)) = els) (hm : misses s r.asid els = []) :
    exec (.trLdn mi win lay) s = .next (ldnLoad (learnAll s r.asid els) r core idx win.toNat lay
      (((founds s r.asid els).zip parts).map fun x => (x.1.va, x.1.pa, x.2.2, x.1.ok)) n) := by
  change execTrLdn mi win lay s = _
  simp only [execTrLdn, onRay_ready h, hl, hidx, if_neg (Nat.not_lt.2 hin), if_neg (Nat.not_le.2 hwin), hn, hparts, hels, hm]

end

/-! ### TR.BOX and TR.TRI -/

theorem exec_trBox_tested {md : MReg} {n : Nat} {r' : Ray} (hfits : md.toNat + (bufLayout r).width ≤ 16)
    (hn : childCount r (bufLayout r) = some n)
    (hkids : boxKids { r with cond := 0 } (bufLayout r) md.toNat n s.draws 0 (bufLayout r).width = some r') :
    exec (.trBox md) s = .next (stepOn { s with draws := s.draws + 8 } r') := by
  change execTrBox md s = _
  simp only [execTrBox, onRay_ready h, if_neg (Nat.not_lt.2 hfits), hn, hkids]

section
variable {cb : BitVec 3} {mt : MReg} {off4 : BitVec 3} {cull : Bool} {ws : List Nat} (hmt : mt.toNat ≤ 13)
  (hws : allSome (tab 9 fun k => bufField r (4 * off4.toNat + 4 * k) 4) = some ws)
include hmt hws

theorem exec_trTri_miss (hmiss : triTest r (ws.map fun w => dec .f32 w) cull = none) :
    RayGoes (.trTri cb mt off4 cull) s (setCond r cb false) := by
  change execTrTri cb mt off4 cull s = _
  simp only [execTrTri, onRay_ready h, if_neg (Nat.not_lt.2 hmt), hws, hmiss]
  rfl

theorem exec_trTri_hit {t u v : Q} (hhit : triTest r (ws.map fun w => dec .f32 w) cull = some (t, u, v)) :
    let w := fun (x : Q) => rndF .rne (.fin x.isNeg x)
    RayGoes (.trTri cb mt off4 cull) s (setCond (setMicro (setMicro (setMicro r mt.toNat (w t)) (mt.toNat + 1) (w u))
      (mt.toNat + 2) (w v)) cb true) := by
  change execTrTri cb mt off4 cull s = _
  simp only [execTrTri, onRay_ready h, if_neg (Nat.not_lt.2 hmt), hws, hhit]
  rfl

end

/-! ### TR.XFM -/

/-- A ray that has been transformed cannot be transformed again (R443). -/
theorem exec_trXfm_nested {off16 : Bool} (hin : r.ispace = true) : RayEnds (.trXfm off16 false) s r 4 := by
  change execTrXfm off16 false s = _
  simp only [execTrXfm, onRay_ready h, if_pos hin, Bool.false_eq_true, if_false]
  rfl

theorem exec_trXfm_leaves (hin : r.ispace = true) : RayGoes (.trXfm false true) s { r with
    org := r.wray.take 3, dir := r.wray.drop 3, inv := (r.wray.drop 3).map invF, ispace := false } := by
  change execTrXfm false true s = _
  simp only [execTrXfm, onRay_ready h, hin, Bool.not_true, Bool.false_eq_true, if_false, if_true]
  rfl

theorem exec_trXfm_enters {off16 : Bool} {ws : List Nat} (hout : r.ispace = false)
    (hws : allSome (tab 12 fun k => bufField r ((if off16 then 16 else 0) + 4 * k) 4) = some ws) {row : Nat → List Val}
    (hrow : row = fun k => ((ws.map fun w => dec .f32 w).drop (4 * k)).take 4) {org dir : List Word}
    (horg : (tab 3 fun k => xfmRow (row k) r.org true) = org) (hdir : (tab 3 fun k => xfmRow (row k) r.dir false) = dir)
    (hnum : ∀ x ∈ org ++ dir, isNanF x = false) : RayGoes (.trXfm off16 false) s { r with
      wray := r.org ++ r.dir, org := org, dir := dir, inv := dir.map invF, ispace := true } := by
  have hnan : (org ++ dir).any isNanF = false := List.any_eq_false.2 fun x hx => by simp [hnum x hx]
  subst hrow
  change execTrXfm off16 false s = _
  simp only [execTrXfm, onRay_ready h, hout, hws, horg, hdir, hnan, Bool.false_eq_true, if_false]
  rfl

/-! ### TR.SORT -/

theorem exec_trSort_sorted {md mn : MReg} {n : Nat} {ks : List Kid} {t : State} (hfits : md.toNat + (bufLayout r).width ≤ 16)
    (hn : childCount r (bufLayout r) = some n) (hkids : hitKids r (bufLayout r) md.toNat n s.draws = some ks)
    (hgoes : StackGoes { s with draws := s.draws + 8 } core r
      (setMicro (((ks.mergeSort kidBefore).reverse).foldl (fun r k => pushEntry r k.ptr k.dist) r) mn.toNat
        (BitVec.ofNat 32 ks.length)) 0 t) :
    exec (.trSort md mn) s = .next t := by
  change execTrSort md mn s = _
  simp only [execTrSort, onRay_ready h, if_neg (Nat.not_lt.2 hfits), hn, hkids, onStack_goes hgoes]

end

/-- Settles O50: each instruction by the lemma about the case that it is in; TR.LDN loads by what its window comes to. -/
theorem microNodes : Obligations.MicroNodes := by
  intro s r core h
  refine ⟨fun mi win lay => exec_trLdn_absent h, ?_, fun md n r' => exec_trBox_tested h,
    fun cb mt off4 cull ws hmt hws => ⟨exec_trTri_miss h hmt hws, fun t u v => exec_trTri_hit h hmt hws⟩,
    fun hin => ⟨exec_trXfm_nested h hin, exec_trXfm_leaves h hin⟩, ?_, fun md mn n ks t => exec_trSort_sorted h⟩
  · intro mi win lay l s1 hl idx
    refine ⟨exec_trLdn_outside h hl rfl, exec_trLdn_noWindow h hl rfl, ?_⟩
    intro hin hwin n parts els fs lines hm s0 far hreach s2 hclean
    rw [exec_trLdn_probed h hl rfl hin hwin rfl rfl rfl hm, ldnLoad_clean rfl rfl hreach rfl hclean]
    rfl
  · intro off16 ws hout hws row org dir hnum
    exact exec_trXfm_enters h hout hws rfl rfl rfl hnum

end Sys2Proof.Machine
end

section
/-! PROOF. Taking a trap: the turn stays with its group across the writes of the trap's record, and what the handler finds. -/

namespace Sys2Proof.Machine

set_option Elab.async false

/-! ## Writes of memory leave the turn with its group -/

theorem cur_foldl {β : Type} {f : State → β → State} (hf : ∀ s b, (f s b).cur = s.cur) (l : List β) (s : State) :
    (l.foldl f s).cur = s.cur :=
  foldl_keeps (p := fun t : State => t.cur = s.cur) (fun t b h => (hf t b).trans h) l rfl

section
variable (s : State)

@[simp] theorem useHome_cur (line : Nat) : (useHome s line).cur = s.cur := by
  obtain ⟨homes, h, -⟩ := useHome_homes s line
  rw [h]

@[simp] theorem owe_cur (rs : List Nat) : (owe s rs).cur = s.cur := by
  obtain ⟨next, gov, h⟩ := owe_frame s rs
  rw [h]

@[simp] theorem recallStash_cur (line : Nat) (drop : Bool) : (recallStash s line drop).cur = s.cur := rfl

@[simp] theorem sendHome_cur (line : Nat) : (sendHome s line).cur = s.cur := by
  unfold sendHome
  split <;> rfl

@[simp] theorem recallLine_cur (line : Nat) : (recallLine s line).cur = s.cur := by
  simp [recallLine]

@[simp] theorem flushLlc_cur (page : Nat) : (flushLlc s page).cur = s.cur := by
  unfold flushLlc
  dsimp only
  split <;> rfl

@[simp] theorem recallPage_cur (page : Nat) : (recallPage s page).cur = s.cur :=
  cur_foldl (fun s i => recallLine_cur s (64 * page + i)) _ s

@[simp] theorem evictSector_cur (page : Nat) : (evictSector s page).cur = s.cur := by
  have h : (flushLlc (recallPage s page) page).cur = s.cur := by simp
  unfold evictSector sectorLoses
  generalize flushLlc (recallPage s page) page = t at h
  exact h

@[simp] theorem sectorRoom_cur (page : Nat) : (sectorRoom s page).cur = s.cur := by
  unfold sectorRoom
  dsimp only
  split
  · rfl
  · exact evictSector_cur _ _

@[simp] theorem touchSector_cur (line : Nat) : (touchSector s line).cur = s.cur := by
  unfold touchSector
  dsimp only
  split_ifs
  · rfl
  · rfl
  · exact sectorRoom_cur s _

@[simp] theorem countOwn_cur (line : Nat) : (countOwn s line).cur = s.cur := by
  unfold countOwn
  dsimp only
  split <;> rfl

@[simp] theorem deviceAt_cur (line : Nat) : (deviceAt s line).cur = s.cur := by
  simp [deviceAt, atSlice]

@[simp] theorem recallBy_cur (w : Writer) (line : Nat) : (recallBy s w line).cur = s.cur := by
  unfold recallBy
  split <;> rfl

@[simp] theorem homeStore_cur (w : Writer) (pa : Nat) (bs : List Byte) : (homeStore s w pa bs).cur = s.cur := by
  unfold homeStore
  rw [sendHome_cur]
  exact cur_foldl (fun s l => by simp) _ s

@[simp] theorem writeLine_cur (w : Writer) (pa : Nat) (bs : List Byte) : (writeLine s w pa bs).cur = s.cur := by
  obtain ⟨next, coh, h⟩ := writeLine_frame s w pa bs
  rw [h]
  exact homeStore_cur s w pa bs

@[simp] theorem writeLines_cur (w : Writer) (pa : Nat) (bs : List Byte) (fuel : Nat) :
    (writeLines s w pa bs fuel).cur = s.cur := by
  induction fuel generalizing s w pa bs with
  | zero => cases bs <;> rfl
  | succ n ih =>
    cases bs with
    | nil => rfl
    | cons b r => exact (ih _ _ _ _).trans (writeLine_cur s w pa _)

@[simp] theorem sliceWrite_cur (pa : Nat) (bs : List Byte) : (sliceWrite s pa bs).cur = s.cur :=
  (writeLines_cur _ _ pa bs _).trans (cur_foldl deviceAt_cur _ s)

theorem besides_sliceWrite (pa : Nat) (bs : List Byte) : Besides s (sliceWrite s pa bs) :=
  (besides_foldl besides_deviceAt _ s).trans (besides_writeBy _ _ pa bs)

/-- A write of the device leaves the group whose turn it is as it was. -/
@[simp] theorem curG_sliceWrite (pa : Nat) (bs : List Byte) : curG (sliceWrite s pa bs) = curG s := by
  unfold curG
  rw [(besides_sliceWrite s pa bs).groups, sliceWrite_cur]

end

/-! ## The trap -/

/-- A group as its handler finds it: what it had begun is gone, with the entries of its queue and their reservations, and its
scalar stream goes on at the vector (R272). -/
def inHandler (g : Group) : Group :=
  { g with
    queue := [], run := [], lrem := 0, resv := resvEntered g, handler := true, spc := vector g, offS := none, park := .none
    target := .none, answer := none, pairWait := none, exiting := false, frozenS := false, frozenL := false, missS := none
    missL := none, begun := none }

/-- The state with the record of a trap in the group's replay area (R274, R275). -/
def trapRecorded (s : State) (g : Group) (x : TrapInfo) : State :=
  let pa := firmPa s g.asid g.replay.toNat
  sliceWrite (sliceWrite s pa (headerBytes s g x)) (pa + 256) (g.queue.flatMap imageBytes)

theorem curG_trapRecorded (s : State) (g : Group) (x : TrapInfo) : curG (trapRecorded s g x) = curG s := by
  simp only [trapRecorded, curG_sliceWrite]

section
variable {s : State} {g : Group} (x : TrapInfo)

theorem takeTrap_aborts (h : g.handler = true ∨ vector g = 0) :
    takeTrap s g x = abortGrid s g.grid x.code (dieOf s g.core) := if_pos h

/-- A trap that is taken records itself and enters the handler, with a new age where the group was parked (R50, R272). -/
theorem takeTrap_enters (hh : g.handler = false) (hv : vector g ≠ 0) :
    let t := trapRecorded s g x
    takeTrap s g x = setG t (inHandler (if g.park = .none then g else readyG t.pkg.time g)) :=
  if_neg fun h => h.elim (by simp [hh]) hv

end

/-- Being ready again changes none of what a trap keeps. -/
theorem readyG_keeps (p : Prop) [Decidable p] (time : Dword) (g : Group) :
    let g' := if p then g else readyG time g
    g'.gid = g.gid ∧ g'.trapvec = g.trapvec ∧ g'.lpc = g.lpc ∧ g'.sregs = g.sregs ∧ g'.lanes = g.lanes ∧ g'.pend = g.pend ∧
      g'.infl = g.infl ∧ g'.fflags = g.fflags := by
  dsimp only
  split <;> exact ⟨rfl, rfl, rfl, rfl, rfl, rfl, rfl, rfl⟩

/-- Settles O22: by the abort where no handler can be entered, and else by what entering it leaves of the group. -/
theorem takingATrap : Obligations.TakingATrap := by
  intro s g x hc
  refine ⟨takeTrap_aborts x, fun hh hv => ?_⟩
  obtain ⟨hgid, hvec, hlpc, hsregs, hlanes, hpend, hinfl, hflags⟩ :=
    readyG_keeps (g.park = .none) (trapRecorded s g x).pkg.time g
  dsimp only
  rw [takeTrap_enters x hh hv]
  exact ⟨_, curG_setG ((curG_trapRecorded s g x).trans hc) hgid, rfl, congrArg (· &&& ~~~3#64) hvec, rfl, hlpc, hsregs, hlanes,
    hpend, hinfl, hflags, rfl⟩

end Sys2Proof.Machine
end

section
/-! PROOF. Pre-emption: slices and drains, the save of a crew and its return, aging, the heirs of schedulers and firmware, and soft
errors. -/

namespace Sys2Proof.Machine

set_option Elab.async false

/-! ## Slices and drains -/

section
variable {s s1 : State}

theorem sliceSpent_iff (s : State) (q : HostQueue) : sliceSpent s q = true ↔
    q.spent = true ∨ q.sliceAt.toNat + (if q.slice = 0 then 100000 else 10000 * q.slice) ≤ s.pkg.time.toNat := by
  rw [sliceSpent, Bool.or_eq_true, decide_eq_true_eq, sliceTicks]

/-- A slice that acts pre-empts the crews that run, once what the flushed ones hold dirty has gone home (R279, R296). -/
theorem exec_timeSliceExpiry {q : HostQueue} (hq : findQueue s q.num = some q) (hrun : runningCrews s q.num ≠ [])
    (hacts : (sliceSpent s q = true ∧ inPacket q = false) ∨ outranked s q = true) {ds : List (Decision × Crew)}
    (hds : ds = (runningCrews s q.num).map fun c => (decision s ((findGrid s c.grid).getD default) c, c))
    (hhome : flushedHome s ds = (s1, true)) {s2 : State} (hs2 : s2 = ds.foldl (fun s d => preempt s d.1 d.2) s1) :
    exec (.timeSliceExpiry q.num) s = .next (setQueue
      { s2 with rr := if sliceSpent s2 q = true ∧ inPacket q = false then s2.rr.set 0 q.eff q.num else s2.rr }
      { q with spent := true }) := by
  have hneeded : ((sliceSpent s q && !inPacket q) || outranked s q) = true := by
    rcases hacts with ⟨hspent, hfree⟩ | hrank
    · simp [hspent, hfree]
    · simp [hrank]
  have hgo : ¬ (runningCrews s q.num = [] ∨ (!((sliceSpent s q && !inPacket q) || outranked s q)) = true) := by
    simpa [hneeded] using hrun
  subst hds hs2
  change execTimeSliceExpiry q.num s = _
  simp only [execTimeSliceExpiry, hq, if_neg hgo, hhome]
  simp

theorem decide'_drain {r : Grid} {c : Crew} (hx : r.exited ≠ 0)
    (hr : r.runSum < r.exited * (elapsed s c + s.policy.drain)) : decide' s r c = .drain := if_pos ⟨hx, hr⟩

theorem decide'_stop {r : Grid} {c : Crew}
    (hr : r.exited = 0 ∨ r.exited * (elapsed s c + s.policy.drain) ≤ r.runSum) :
    decide' s r c = if r.k.idem = true ∧ elapsed s c < s.policy.restart then .flush else .save :=
  if_neg fun ⟨hx, hlt⟩ => hr.elim hx fun hle => absurd hlt (Nat.not_lt.2 hle)

theorem exec_drainTimeout {c : Crew} {t : Nat} (hc : findCrew s c.grid c.num = some c) (hst : c.status = .draining t)
    (hlate : t + 2 * s.policy.drain ≤ s.pkg.time.toNat) :
    exec (.drainTimeout c.grid c.num) s = .next (startSave s c) := by
  change execDrainTimeout c.grid c.num s = _
  simp only [execDrainTimeout, hc, hst, if_neg (Nat.not_lt.2 hlate)]

end

/-! ## The save of a crew and its return -/

section
variable {s s1 s2 : State} {c : Crew}

theorem findCrew_num {n k : Nat} (h : findCrew s n k = some c) : c.grid = n ∧ c.num = k := by
  simpa using List.find?_some h

/-- A crew is found in its own place, or stands for itself. -/
theorem findCrew_getD_num (s : State) (c : Crew) :
    ((findCrew s c.grid c.num).getD c).grid = c.grid ∧ ((findCrew s c.grid c.num).getD c).num = c.num := by
  cases h : findCrew s c.grid c.num with
  | none => exact ⟨rfl, rfl⟩
  | some c' => exact findCrew_num h

/-- A saved crew has left its core: none of its groups is resident (R280). -/
theorem saveCrew_gone (s : State) (c : Crew) : ∀ g ∈ (saveCrew s c).groups, ¬ (g.grid = c.grid ∧ g.crew = c.num) := by
  intro g hg hmine
  obtain ⟨hgrid, hnum⟩ := findCrew_getD_num (settleCrew (c.gids.foldl saveGroup s) c) c
  have hkept := (List.mem_filter.1 hg).2
  simp [hgrid, hnum, hmine] at hkept

/-- A crew to be saved takes a trap that it is due to take first (R286). -/
theorem exec_crewSave_due {g : Group} {a : Nat × Dword × Nat} (hc : findCrew s c.grid c.num = some c)
    (hst : c.status = .saving) (hdue : trapDue s c = some (g, a)) :
    exec (.crewSave c.grid c.num) s = .next (trapG s { g with answer := none } g.parkLane a.1 a.2.1.toNat a.2.2) := by
  change execCrewSave c.grid c.num s = _
  simp only [execCrewSave, hc, if_pos hst, hdue]

/-- It leaves its core once nothing holds it back and what it holds dirty has gone home (R53, R280). -/
theorem exec_crewSave_leaves (hc : findCrew s c.grid c.num = some c) (hst : c.status = .saving)
    (hdue : trapDue s c = none) (hgroups : ∀ g ∈ crewGroups s c.grid c.num, groupSaves s g = true)
    (hengine : engineSaves s c = true) (hcopies : copiesHalt s c = true) (hhome : crewHome s c = (s1, true))
    (hspill : crewSpill s1 c = (s2, true)) : exec (.crewSave c.grid c.num) s =
      .next (saveCrew (followCore s2 c.core c.gids) ((findCrew s2 c.grid c.num).getD c)) := by
  have hgo : c.status = .saving ∧ (crewGroups s c.grid c.num).all (groupSaves s) = true ∧ engineSaves s c = true ∧
      copiesHalt s c = true := ⟨hst, List.all_eq_true.2 hgroups, hengine, hcopies⟩
  change execCrewSave c.grid c.num s = _
  simp only [execCrewSave, hc, if_pos hst, hdue, if_pos hgo, hhome, hspill, if_true]

/-- A saved crew returns when it is its turn, to the core that R295 gives it (R281). -/
theorem exec_crewRestore {v : Saved} {r : Grid} {p : Placement}
    (hv : (s.saved.find? fun x => x.crew.grid == v.crew.grid && x.crew.num == v.crew.num) = some v)
    (hr : findGrid s v.crew.grid = some r) (hup : s.pkg.up = true) (hqueue : queueTurn s r.queue = true)
    (hgrid : gridTurn s r = true) (hcrew : crewTurn s r v.crew.num = true) (hcore : coreForSaved s v = some p.core)
    (halloc : p.alloc = v.crew.alloc) (hlen : p.slots.length = r.cg)
    (hfit : slotsFit s p.core r.k.near ((v.groups.filter fun g => !g.ended).map fun g => p.slots.getD g.idx (0, 0)) = true)
    (hhome : homeHeld s p.core (resubLines s v p.core) = (s1, true)) :
    exec (.crewRestore v.crew.grid v.crew.num p) s = .next (placedQueue s1 (restoreCrew s1 v p) r.queue) := by
  change execCrewRestore v.crew.grid v.crew.num p s = _
  simp only [execCrewRestore, hv, hr, hup, hqueue, hgrid, hcrew, hcore, halloc, hlen, hfit, hhome]
  simp

end

/-! ## Aging and heirs -/

section
variable {s : State}

theorem exec_priorityAging {q : HostQueue} (hq : findQueue s q.num = some q) (hstarved : queueStarved s q.num = true)
    (heff : q.eff < 3) (hsince : q.waitSince.toNat + 1000000 ≤ s.pkg.time.toNat) : exec (.priorityAging q.num) s =
      .next (setQueue s { q with eff := q.eff + 1, waitSince := q.waitSince + dw 1000000 }) := by
  have hwaits : ¬ ((!queueStarved s q.num || decide (3 ≤ q.eff) ||
      decide (s.pkg.time.toNat < q.waitSince.toNat + agingTicks)) = true) := by
    have hlong : decide (s.pkg.time.toNat < q.waitSince.toNat + agingTicks) = false := decide_eq_false (Nat.not_lt.2 hsince)
    rw [hstarved, decide_eq_false (Nat.not_le.2 heff), hlong]
    decide
  change execPriorityAging q.num s = _
  simp only [execPriorityAging, hq, if_neg hwaits]
  rfl

/-- A die's scheduler is adopted, and what another had adopted stays with it (R300). -/
theorem exec_schedulerFailover {die heir : Nat} (hheir : heir = schedDie s ((die + 1) % dieCount s)) (hdie : die < dieCount s)
    (hne : heir ≠ die) (hnew : ∀ a ∈ s.fw.adopted, a.1 ≠ die) : ∃ t, exec (.schedulerFailover die) s = .next t ∧
      (die, heir) ∈ t.fw.adopted ∧ ∀ a ∈ s.fw.adopted, a.2 ≠ die → a ∈ t.fw.adopted := by
  subst hheir
  have hgo : ¬ (dieCount s ≤ die ∨ schedDie s ((die + 1) % dieCount s) = die ∨
      s.fw.adopted.any (fun a => a.1 == die) = true) := by
    simpa [hne, hdie] using fun x hx => hnew (die, x) hx rfl
  refine ⟨_, congrArg Host.Outcome.next (if_neg hgo), List.mem_cons_self, fun a ha hother => ?_⟩
  exact List.mem_cons_of_mem _ (List.mem_map.2 ⟨a, ha, if_neg hother⟩)

theorem exec_firmwareFailover (hbeat : s.fw.beat.toNat + 100000 ≤ s.pkg.time.toNat)
    (hq : ∀ q ∈ s.queues, inPacket q = false) :
    ∃ t, exec .firmwareFailover s = .next t ∧ t.fw.active = 1 - s.fw.active ∧ t.fw.beat = s.pkg.time := by
  have hgo : ¬ (s.pkg.time.toNat < s.fw.beat.toNat + beatTicks ∨ s.queues.any inPacket = true) := by
    simpa [beatTicks] using ⟨hbeat, hq⟩
  exact ⟨_, congrArg Host.Outcome.next (if_neg hgo), rfl, rfl⟩

end

/-! ## Soft errors -/

theorem engineOf_setEngine (s : State) (core : Nat) (m : Matrix) : engineOf (setEngine s core m) core = m := by
  simp [engineOf, setEngine]

/-- Poison in a register row leaves every group as it is, but for its results under way. -/
theorem poisonRow_groups (s : State) (gid row : Nat) :
    (poisonRow s gid row).groups.map (fun g => { g with infl := [] }) = s.groups.map fun g => { g with infl := [] } := by
  simp only [poisonRow, mapGroup, List.map_map]
  refine List.map_congr_left fun g _ => ?_
  dsimp only [Function.comp]
  split <;> rfl

theorem mem_bad_poisonEngine (s : State) (core : Nat) {n : Nat} (hn : n < 2 ^ 20) :
    n ∈ (engineOf (poisonEngine s core n) core).bad := by
  unfold poisonEngine
  rw [if_pos hn]
  dsimp only
  split
  · next h => exact List.contains_iff_mem.1 h
  · rw [engineOf_setEngine]
    exact List.mem_cons_self

theorem poisonEngine_ray {s : State} {core n : Nat} {r : Ray} (hn : n < 2 ^ 20) (hr : (slotRays s core)[n]? = some r) :
    poisonEngine s core (2 ^ 20 + n) = setRay s { r with bad := true } := by
  unfold poisonEngine
  rw [if_neg (by omega), if_pos (by omega), Nat.add_sub_cancel_left, hr]

/-- The sampler in a slot that a group holds is marked (R282). -/
theorem poisonEngine_samp (s : State) (core part : Nat) {slot : Nat} (hslot : slot < 32) :
    ∀ g ∈ (poisonEngine s core (2 ^ 21 + 32 * part + slot)).groups, g.core = core → g.part = part → g.slot = slot →
      g.ended = false → ∀ m, g.samp = some m → m.bad = true := by
  unfold poisonEngine
  rw [if_neg (by omega), if_neg (by omega)]
  have hplace : 2 ^ 21 + 32 * part + slot - 2 ^ 21 = 32 * part + slot := by omega
  have hpart : (32 * part + slot) / 32 = part := by omega
  have hmod : (32 * part + slot) % 32 = slot := by omega
  simp only [hplace, hpart, hmod, List.forall_mem_map]
  intro g _
  split
  · intro _ _ _ _ m hm
    obtain ⟨m', -, rfl⟩ := Option.map_eq_some_iff.1 hm
    rfl
  · next hother =>
    intro h1 h2 h3 h4
    exact absurd ⟨h1, h2, h3, by simpa using h4⟩ hother

theorem sharedError_cons {s : State} {core : Nat} {g : Group} {l : List Group}
    (h : (s.groups.filter fun g => g.core == core && !g.ended) = g :: l) :
    sharedError s core = consumeAll s (g :: l) (srcCore core) 0 0 0 g.asid (dieOf s core) := by
  simp only [sharedError, h]

/-- Settles O58: each event by the lemma about the operation that its turn runs; marking what is not marked yet is an insertion
into the list of marks. -/
theorem preemptionEvents : Obligations.PreemptionEvents := by
  refine ⟨fun s s1 q hq hrun hacts => ?_, fun s r c => ⟨decide'_drain, decide'_stop⟩,
    fun s c at' => exec_drainTimeout, fun s c g a => exec_crewSave_due, ?_,
    fun s s1 v r p => exec_crewRestore, fun s q => exec_priorityAging,
    fun s die => exec_schedulerFailover rfl, fun s => exec_firmwareFailover, fun s => ⟨?_, ?_, ?_, ?_, ?_, ?_, ?_, ?_⟩⟩
  · rw [← sliceSpent_iff s q] at hacts
    exact fun hhome => exec_timeSliceExpiry hq hrun hacts rfl hhome rfl
  · intro s s1 s2 c hc hst hdue hgroups hengine hcopies hhome hspill c2 s3
    obtain ⟨hgrid, hnum⟩ : c2.grid = c.grid ∧ c2.num = c.num := findCrew_getD_num s2 c
    refine ⟨exec_crewSave_leaves hc hst hdue hgroups hengine hcopies hhome hspill, fun g hg hmine => ?_⟩
    exact saveCrew_gone s3 c2 g hg ⟨hmine.1.trans hgrid.symm, hmine.2.trans hnum.symm⟩
  · exact fun l => ⟨_, rfl, List.mem_insert_self, rfl⟩
  · exact fun core w => ⟨_, rfl, List.mem_insert_self, rfl⟩
  · exact fun gid row => ⟨_, rfl, List.mem_insert_self, poisonRow_groups s gid row⟩
  · exact fun core n hn => ⟨_, rfl, mem_bad_poisonEngine s core hn⟩
  · exact fun core n r hn hr => congrArg Host.Outcome.next (poisonEngine_ray hn hr)
  · exact fun core part slot hslot => ⟨_, rfl, poisonEngine_samp s core part hslot⟩
  · exact fun core g l h => congrArg Host.Outcome.next (sharedError_cons h)
  · exact fun asid => rfl

end Sys2Proof.Machine
end
